-- ==== Sys2Proof/Word.lean ====
section
/-! DEFINITION. The machine's word types (R4, R31 to R33) and their plainest arithmetic. -/

namespace Sys2Proof

/-- A 64-bit scalar register, address or system register. -/
abbrev Word := BitVec 64

/-- A 32-bit lane, instruction word or scratchpad address. -/
abbrev Lane32 := BitVec 32

/-- One byte of memory. -/
abbrev Byte := BitVec 8

/-- A 6-bit register number field (R24, R136, R140, R145). -/
abbrev Reg := BitVec 6

/-- One vector register: 2,048 bits (R119). -/
abbrev VReg := BitVec 2048

/-- One mask register: 256 bits (R141). -/
abbrev KReg := BitVec 256

/-- One map register: 64 bytes (R88, R176). -/
abbrev MReg := BitVec 512

end Sys2Proof
end

