-- ==== Sys2Proof/Machine/Crypto.lean ====
section
/-! DEFINITION. SHAKE256 (R20, R43, R285, R304, R307) and CRC-32C (R247, R274, R280), by their published definitions (log
entry 6). -/

namespace Sys2Proof.Machine

/-- The feedback register of the round constants, t bits on: it shifts left and folds bit 8 back by 0x71. -/
def roundBits : (t : Nat) → BitVec 9
  | 0 => 1
  | t + 1 =>
    let r := roundBits t <<< 1
    if r.getLsbD 8 then (r ^^^ 0x171) else r

/-- The constant of round n: bit 2^j − 1 is the register's lowest bit after 7 n + j shifts. -/
def roundWord (n : Nat) : Word :=
  (List.range 7).foldl (fun w j => if (roundBits (7 * n + j)).getLsbD 0 then w ||| 1 <<< (2 ^ j - 1) else w) 0

/-- Lane number x + 5 y of a state. -/
def laneAt (a : List Word) (x y : Nat) : Word := a.getD (x % 5 + 5 * (y % 5)) 0

/-- A state made lane by lane. -/
def laneMap (f : (x y : Nat) → Word) : List Word := (List.range 5).flatMap fun y => (List.range 5).map fun x => f x y

/-- The walk of ρ and π from lane (x, y), with `cur` the lane that is carried: it is turned by the triangular number of the
step and put down where the walk goes next, whose lane is carried on. -/
def scatter : (left : Nat) → (x y t : Nat) → (cur : Word) → List Word → List Word
  | 0, _, _, _, _, a => a
  | n + 1, x, y, t, cur, a =>
    let y' := (2 * x + 3 * y) % 5
    scatter n y y' (t + 1) (laneAt a y y') (a.set (y + 5 * y') (cur.rotateLeft ((t + 1) * (t + 2) / 2 % 64)))

/-- One round (θ, ρ with π, χ, ι). -/
def mixRound (a : List Word) (n : Nat) : List Word :=
  let par (x : Nat) : Word := (List.range 5).foldl (fun w y => w ^^^ laneAt a x y) 0
  let pars := (List.range 5).map par
  let a := laneMap fun x y => laneAt a x y ^^^ laneAt pars (x + 4) 0 ^^^ (laneAt pars (x + 1) 0).rotateLeft 1
  let a := scatter 24 1 0 0 (laneAt a 1 0) a
  let a := laneMap fun x y => laneAt a x y ^^^ (~~~ laneAt a (x + 1) y &&& laneAt a (x + 2) y)
  a.set 0 (laneAt a 0 0 ^^^ roundWord n)

/-- The permutation of 24 rounds. -/
def keccakF (a : List Word) : List Word := (List.range 24).foldl mixRound a

/-- The 64-bit lanes of bytes, little-endian. -/
def lanesOf (bs : List Byte) : List Word :=
  (List.range (bs.length / 8)).map fun i =>
    BitVec.ofNat 64 (((bs.drop (8 * i)).take 8).foldr (fun b a => b.toNat + 256 * a) 0)

/-- Absorbs padded blocks of `rate` bytes. -/
def absorb (rate : Nat) : (blocks : Nat) → List Byte → List Word → List Word
  | 0, _, a => a
  | n + 1, bs, a =>
    let m := lanesOf (bs.take rate)
    absorb rate n (bs.drop rate) (keccakF (a.zipIdx.map fun p => p.1 ^^^ m.getD p.2 0))

/-- Squeezes `rate` bytes at a time. -/
def squeeze (rate : Nat) : (blocks : Nat) → List Word → List Byte
  | 0, _ => []
  | n + 1, a =>
    ((a.take (rate / 8)).flatMap fun w => (List.range 8).map fun i => w.extractLsb' (8 * i) 8) ++ squeeze rate n (keccakF a)

/-- The sponge of a rate and of the bits that its function puts after a message, so many bytes. -/
def sponge (rate : Nat) (suffix : Byte) (msg : List Byte) (n : Nat) : List Byte :=
  let pad := rate - msg.length % rate
  let padded := msg ++ (if pad = 1 then [suffix ||| 0x80] else suffix :: List.replicate (pad - 2) 0 ++ [0x80])
  (squeeze rate ((n + rate - 1) / rate) (absorb rate (padded.length / rate) padded (List.replicate 25 0))).take n

/-- SHAKE256 of a message, so many bytes. -/
def shake256 (msg : List Byte) (n : Nat) : List Byte := sponge 136 0x1F msg n

/-- One byte of CRC-32C, reflected. -/
def crcByte (c : Lane32) (b : Byte) : Lane32 :=
  (List.range 8).foldl (fun c _ => if c.getLsbD 0 then (c >>> 1) ^^^ 0x82F63B78 else c >>> 1) (c ^^^ b.setWidth 32)

/-- CRC-32C (Castagnoli). -/
def crc32c (bs : List Byte) : Lane32 := ~~~ (bs.foldl crcByte (BitVec.allOnes 32))

end Sys2Proof.Machine
end

