-- ==== Sys2Proof/Syntax.lean ====
section
/-! DEFINITION. The syntax of the machine: one constructor of `Instr` per row of spec/opcode_table.json: the task's
instructions (07 to 11), the words of collective and helper programs (R150, R151), and the device's events (12 to 15,
22 to 24) with what arrives with them. -/

namespace Sys2Proof

/-- The element types, in the order of their codes (R118). -/
inductive ElemType where
  | i8 | i16 | i32 | i64 | n8 | n16 | n32 | n64
  | bf16 | f16 | f32 | e4m3 | e5m2 | e2m1 | cb3 | cb4
  deriving DecidableEq, Repr

/-- The rounding modes, in the order of their codes (R122). -/
inductive Rounding where
  | rne | rtz | rsr | rna
  deriving DecidableEq, Repr

/-- The scopes, in the order of their codes (R30, R93). -/
inductive Scope where
  | core | clu | die | dev | grp | sys
  deriving DecidableEq, Repr

/-- The orderings of a scalar or tile access (R30, R91). -/
inductive Ord where
  | plain | acq | rel | imm
  deriving DecidableEq, Repr

/-- The spaces of an L or S memory word (R143). -/
inductive Space where
  | global | scratch | tensor
  deriving DecidableEq, Repr

/-- The sizes of a scalar access (R137, R159). -/
inductive Size where
  | b | h | w | d | q
  deriving DecidableEq, Repr

/-- The three queues (R47). -/
inductive Queue where
  | l | c | s
  deriving DecidableEq, Repr

/-- The masters that reach the register window, by port (R302). -/
inductive Master where
  | host | bmc | enclave
  deriving DecidableEq, Repr

/-- SR layout (R136): ALU words. -/
structure RegOp where
  d  : Reg
  a  : Reg
  b  : Reg
  w32 : Bool
  deriving DecidableEq, Repr

/-- SI layout (R136). -/
structure ImmOp where
  d   : Reg
  a   : Reg
  imm : BitVec 14
  deriving DecidableEq, Repr

/-- The shift kinds of SHI (R136). -/
inductive ShiftKind where
  | sll | srl | sra | rol
  deriving DecidableEq, Repr

/-- SB layout (R136). -/
structure BranchOp where
  a   : Reg
  b   : Reg
  off : BitVec 14
  deriving DecidableEq, Repr

/-- The address space of a scalar access: global with its scope, or scratchpad (scope value 6, R137). -/
inductive Place where
  | global (s : Scope)
  | scratch
  deriving DecidableEq, Repr

/-- SM layout (R136, R137). -/
structure MemOp where
  d     : Reg
  base  : Reg
  place : Place
  ord   : Ord
  size  : Size
  off   : BitVec 6
  deriving DecidableEq, Repr

/-- ATOM words (R137, R160): sz is split into its two meanings. -/
structure AtomOp where
  d       : Reg
  a       : Reg
  b       : Reg
  w32     : Bool
  scratch : Bool
  nr      : Bool
  deriving DecidableEq, Repr

/-- The token bits of word 0 (R28). -/
structure Tokens where
  wp : Bool
  wn : Bool
  sp : Bool
  sn : Bool
  deriving DecidableEq, Repr

/-- The engine format of a C-class word pair, LDBLK and AGET (R140, R142): every field but the two opcodes. The last
twelve bits are `imm`; where a fourth register is used they are c and aux. -/
structure EOp where
  tok : Tokens
  d   : Reg
  a   : Reg
  b   : Reg
  w   : BitVec 2
  ty  : ElemType
  k   : BitVec 4
  rm  : Rounding
  sat : Bool
  alt : Bool
  imm : BitVec 12
  deriving DecidableEq, Repr

/-- The engine format of an L-class or S-class memory word pair (R143, R144). -/
structure MOp where
  tok   : Tokens
  d     : Reg
  a     : Reg
  b     : Reg
  w     : BitVec 2
  scope : Scope
  ord   : Ord
  space : Space
  ty    : ElemType
  k     : BitVec 4
  re    : Bool
  rbn   : BitVec 3
  imm   : BitVec 12
  deriving DecidableEq, Repr

/-- The async format (R145). -/
structure AOp where
  a   : Reg
  b   : Reg
  c   : Reg
  w   : BitVec 2
  id  : BitVec 6
  imm : BitVec 24
  deriving DecidableEq, Repr

/-- The reductions of a collective word (R150). -/
inductive Rop where
  | sum | max | min
  deriving DecidableEq, Repr

/-- How PEER forms its peers (R150, R260). -/
inductive PeerMode where
  | plus | minus | xor | abs
  deriving DecidableEq, Repr

/-- Where PEER takes k from (R150). -/
inductive KSrc where
  | imm | plusC | shiftC
  deriving DecidableEq, Repr

/-- One Malnal packet, header fields by name (R279). `bad` says that a reserved bit is set. -/
structure Packet where
  dst     : BitVec 14
  src     : BitVec 14
  kind    : Byte
  enc     : Bool
  ackreq  : Bool
  gv      : BitVec 16
  seq     : BitVec 48
  addr    : Word
  aux     : Word
  payload : List Byte
  tag     : BitVec 128
  bad     : Bool
  deriving DecidableEq, Repr

/-- One flit of a port (R280). -/
structure Flit where
  fseq  : BitVec 12
  fack  : BitVec 12
  nak   : Bool
  fkind : BitVec 3
  data  : List Byte
  crc   : BitVec 32
  deriving DecidableEq, Repr

/-- A group descriptor (R264). `clean` says that its reserved bits are zero. -/
structure Descriptor where
  ver   : Word
  enc   : Bool
  ranks : List (BitVec 14)
  clean : Bool
  deriving DecidableEq, Repr

/-- What ends a WAITA (R166). -/
inductive Wake where
  | line (i : BitVec 2)
  | deadline
  | spurious
  deriving DecidableEq, Repr

/-- What a scrub finds in a line (R340, R336). -/
inductive ScrubFinding where
  | clean | corrected | uncorrectable
  deriving DecidableEq, Repr

/-- What raised the security alarm (R309, R361). -/
inductive AlarmSource where
  | tamper | glitch | policy | thermal
  deriving DecidableEq, Repr

/-- What arrives with an event of the device: a register write, a packet, a flit, a descriptor, or the number of the
stream, scoreboard entry, core, port or request that it concerns. Each event reads the fields it needs. -/
structure Input where
  master : Master
  queue  : Queue
  wake   : Wake
  index  : Nat
  index2 : Nat
  value  : Word
  flag   : Bool
  packet : Packet
  flit   : Flit
  desc   : Descriptor
  hash   : BitVec 256
  sigs   : List (BitVec 14 × List Byte)
  bytes  : List Byte
  sig    : List Byte
  scrub  : ScrubFinding
  alarm  : AlarmSource
  deriving DecidableEq, Repr

/-- The input of an event that needs none. -/
def Input.none : Input :=
  { master := .host, queue := .l, wake := .deadline, index := 0, index2 := 0, value := 0, flag := false,
    packet := ⟨0, 0, 0, false, false, 0, 0, 0, 0, [], 0, false⟩, flit := ⟨0, 0, false, 0, [], 0⟩,
    desc := ⟨0, false, [], true⟩, hash := 0, sigs := [], bytes := [], sig := [], scrub := .clean, alarm := .tamper }

/-- The instructions and events of the machine, one constructor per row of the opcode table. -/
inductive Instr where
  -- ALU (R154, R155)
  | add (o : RegOp) | sub (o : RegOp) | and (o : RegOp) | or (o : RegOp) | xor (o : RegOp) | andn (o : RegOp)
  | sll (o : RegOp) | srl (o : RegOp) | sra (o : RegOp) | rol (o : RegOp) | ror (o : RegOp)
  | mul (o : RegOp) | mulh (o : RegOp) | mulhn (o : RegOp)
  | div (o : RegOp) | divn (o : RegOp) | rem (o : RegOp) | remn (o : RegOp)
  | min (o : RegOp) | max (o : RegOp) | minn (o : RegOp) | maxn (o : RegOp)
  | slt (o : RegOp) | sltn (o : RegOp) | seq (o : RegOp)
  | clz (o : RegOp) | ctz (o : RegOp) | popc (o : RegOp)
  | ext (o : RegOp) | ins (o : RegOp) | sel (o : RegOp) | bswp (o : RegOp)
  -- immediates (R156)
  | addi (o : ImmOp) | andi (o : ImmOp) | ori (o : ImmOp) | xori (o : ImmOp)
  | shi (d a : Reg) (kind : ShiftKind) (n : BitVec 6)
  | slti (o : ImmOp) | lui (d : Reg) (imm : BitVec 20) | liw (d : Reg) (imm : Lane32)
  -- branches and jumps (R157, R158)
  | beq (o : BranchOp) | bne (o : BranchOp) | blt (o : BranchOp) | bge (o : BranchOp)
  | bltn (o : BranchOp) | bgen (o : BranchOp)
  | jal (off : BitVec 26) | jalr (o : ImmOp)
  -- scalar memory (R159)
  | ld (o : MemOp) | ldn (o : MemOp) | st (o : MemOp)
  -- scalar atomics (R160 to R162)
  | aadd (o : AtomOp) | asub (o : AtomOp) | aand (o : AtomOp) | aor (o : AtomOp) | axor (o : AtomOp)
  | amin (o : AtomOp) | amax (o : AtomOp) | aminn (o : AtomOp) | amaxn (o : AtomOp)
  | aswp (o : AtomOp) | acas (o : AtomOp) | ainc (o : AtomOp) | adec (o : AtomOp)
  | afadd (o : AtomOp) | afmin (o : AtomOp) | afmax (o : AtomOp)
  -- synchronisation (R139, R163 to R169)
  | fence (s : Scope) | pub (s : Scope) | opn (s : Scope) | phase (level : BitVec 2)
  | waita (d a b : Reg) | waitt (a : Reg) | twany (a : Reg) | twall (a : Reg) | tffr (d a : Reg)
  | sqwait (q : Queue) | disc (a : Reg) | agets (d : Reg)
  -- system (R138, R175)
  | trap (code : BitVec 12) | srd (r : Reg) (n : BitVec 12) | swr (r : Reg) (n : BitVec 12)
  | brk (code : BitVec 12)
  -- MISC (R176 to R181)
  | fmtpush (a : Reg) | mapld (m : BitVec 4) (a : Reg) | mapst (m : BitVec 4) (a : Reg)
  | tdld (a : Reg) | mcset (a b : Reg) | mcqui (a : Reg) | mslot (a b : Reg)
  -- L-class (R70, R208, R209, R230)
  | vld (o : MOp) | vlds (o : MOp) | vgath (o : MOp) | vldro (o : MOp) | tld (o : MOp)
  | ldblk (o : EOp) | aget (o : EOp)
  -- VINT (R189)
  | vadd (o : EOp) | vsub (o : EOp) | vmul (o : EOp) | vmulh (o : EOp) | vmin (o : EOp) | vmax (o : EOp)
  | vand (o : EOp) | vor (o : EOp) | vxor (o : EOp) | vandn (o : EOp)
  | vshl (o : EOp) | vshr (o : EOp) | vshra (o : EOp) | vabs (o : EOp) | vneg (o : EOp)
  | vadds (o : EOp) | vsubs (o : EOp) | vavg (o : EOp) | vclz (o : EOp) | vpopc (o : EOp)
  | vsel (o : EOp) | viota (o : EOp)
  -- VFLT and VFMA (R190)
  | vfadd (o : EOp) | vfsub (o : EOp) | vfmul (o : EOp) | vfmin (o : EOp) | vfmax (o : EOp)
  | vfabs (o : EOp) | vfneg (o : EOp) | vfdiv (o : EOp) | vfsqrt (o : EOp) | vfrnd (o : EOp)
  | vfma (o : EOp) | vfms (o : EOp) | vfnma (o : EOp) | vfnms (o : EOp)
  -- VCMP and masks (R191, R192)
  | vcmp (o : EOp) | kand (o : EOp) | kor (o : EOp) | kxor (o : EOp) | knot (o : EOp)
  | kpopc (o : EOp) | kffs (o : EOp) | kmov (o : EOp) | kset (o : EOp)
  -- VPERM (R193)
  | vperm (o : EOp) | vshuf (o : EOp) | vslide (o : EOp) | vbcast (o : EOp) | vzip (o : EOp)
  | vunzip (o : EOp) | vtrn (o : EOp) | vcmpr (o : EOp) | vexpd (o : EOp)
  -- VRED (R194)
  | vrsum (o : EOp) | vrmax (o : EOp) | vrmin (o : EOp) | vrand (o : EOp) | vror (o : EOp) | vpsum (o : EOp)
  -- VCVT (R195 to R200)
  | vcvt (o : EOp) | vqnt (o : EOp) | vdqnt (o : EOp) | vcbx (o : EOp) | vpack (o : EOp) | vunpk (o : EOp)
  -- VSIT (R201)
  | vsit (o : EOp) | vsitc (o : EOp) | vdrain (o : EOp) | vsitclr (o : EOp)
  -- matrix (R219 to R228)
  | mldb (o : EOp) | mma (o : EOp) | mzero (o : EOp) | mlease (o : EOp) | mrel (o : EOp) | gemvh (o : EOp)
  -- Reel (R234)
  | rlopen (o : EOp) | rlrec (o : EOp) | rlbr (o : EOp) | rlmark (o : EOp) | rlseal (o : EOp)
  | rlrev (o : EOp) | rlpop (o : EOp) | rlbrp (o : EOp) | rlchk (o : EOp) | rlstat (o : EOp) | rlclose (o : EOp)
  -- VMOV (R202) and VTRA (R203 to R206)
  | vmov (o : EOp) | vins (o : EOp) | vext (o : EOp) | vli (o : EOp)
  | vexp2 (o : EOp) | vlog2 (o : EOp) | vrcp (o : EOp) | vrsq (o : EOp)
  -- S-class (R210 to R212, R230)
  | vst (o : MOp) | vsts (o : MOp) | vscat (o : MOp) | tst (o : MOp) | tacc (o : MOp)
  | vrdm (o : MOp) | vatom (o : MOp)
  -- async (R245 to R267, R172)
  | cpy (o : AOp) | fload (o : AOp) | fst (o : AOp)
  | crun (o : AOp) | gjoin (o : AOp) | gleave (o : AOp) | gprop (o : AOp) | gver (o : AOp)
  | rshd (o : AOp) | rshq (o : AOp) | hseq (o : AOp)
  | tblrun (a : Reg) (len : BitVec 8) (cnt : BitVec 6) (off : BitVec 17) (q : Queue)
  | tblstop (q : Queue) | tblbase (a : Reg) (n : BitVec 3) (q : Queue)
  | evcfg (a : Reg) (t : BitVec 5) | evarm (t : BitVec 5) | evoff (t : BitVec 5)
  | barv (n : BitVec 9) | bawt (n : BitVec 9) | barw (n : BitVec 9)
  | baset (a : Reg) (target : BitVec 15) (n : BitVec 9) | bagrp (a : Reg) (n : BitVec 9) | batst (a : Reg) (n : BitVec 9)
  -- collective words (R150)
  | send (sa : BitVec 3) (len : BitVec 16) | recv (sb : BitVec 3) (len : BitVec 16)
  | rrs (sa sb : BitVec 3) (rop : Rop) (ty : ElemType) (len : BitVec 16)
  | rred (sa sb : BitVec 3) (rop : Rop) (ty : ElemType) (len : BitVec 16)
  | copy (sa sb : BitVec 3) (len : BitVec 16)
  | loop (n : BitVec 2) (cnt : BitVec 16) | endl (n : BitVec 2)
  | peer (mode : PeerMode) (ksrc : KSrc) (n : BitVec 2) (imm : BitVec 22)
  | sig (bar : BitVec 9) | offs (slot : BitVec 3) (n : BitVec 2) (stride : BitVec 23)
  -- helper words (R151)
  | hcpy (tpl : BitVec 5) (tag : BitVec 6) (oe : Bool) (reg : BitVec 2) | hwtag (tag : BitVec 6)
  | hadd (reg : BitVec 2) (inc : BitVec 26) | hloop (back : BitVec 8) (cnt : BitVec 20)
  | hflag (off : BitVec 18) (val : Byte)
  -- words without a field
  | roinv | eret | exit | tail | fqui | ginv | hstop | wait | halt | hend
  -- the device's events: what arrives with one is in State.input (R45 to R70, R77, R82, R166, R181, R216,
  -- R245 to R285, R295 to R312, R315, R324 to R363)
  | tokenPop | entryFinish | microOrderStart | returnValueArrive | tokstarve | qfltSkip | qfltFlush
  | waitaWake | blockFillEnd | cellFire | callerTermFire | callerActionStart
  | streamDoorbell | nopRecord | launchRecord | xferRecord | fsigRecord | invalRecord | xferDone | invalDone
  | launchIssue | gangPlace | taskStart | launchAgeing | launchComplete | taskRetire | tailTrackerDrain
  | preemptRequest | coreHalt | contextSave | gangRequeue | gangResume | saveOverrun25us | saveOverrun1ms
  | launchKill | coreFail | qfaultReport | watchdog | waittExpire | pageMigration | sscfgWrite | sscfgResize
  | leaseGrant | slotBoundary | copyStart | copyComplete | graphLoad | streamStart | streamEnd | streamWatchdog
  | abortNotice | collectiveTimeout | reshardPieceLand | reshardReplace | reshardFail | propose | refuse
  | signature | adopt | abort | roundTimeout | grrel | revocationNotice | flitReceive | nak | fackStallTimeout
  | portRetrain | remoteRead | readResponse | remoteWrite | remoteAtomic | atomicResponse | acknowledgement
  | collectiveData | collectiveControl | groupRound | requestResend | requestGiveUp | dedupHoleTimeout
  | packetHoldDiscard | endMarker | sequencedPerform | batchedPerform | ownclaim | electionClose | handover
  | handoverTimeout | devidWrite | attestationRequest | securityAlarm | thermalLimit | bootStage
  | functionReady | functionTimeout | deviceReset | timeSync | hostRead | hostWrite | patrolScrub | rowRepair
  | registerWrite | debugStop | debugResume | roundDecisionResend | cxlMemResponse
  deriving DecidableEq, Repr

end Sys2Proof
end

