-- ==== Sys2Proof/WellFormed.lean ====
section
/-! DEFINITION. Which instructions the encoding admits: the field values of R136 to R146, group alignment (R141),
spans (R185), type sets, and the value limits of each instruction's own rule. What fails here is an illegal encoding
(R149). The shapes of the engine words also say which registers an instruction names, for the bound checks of R187. -/

namespace Sys2Proof

namespace ElemType

/-- The 4-bit type code (R118). -/
def code : ElemType → BitVec 4
  | i8 => 0 | i16 => 1 | i32 => 2 | i64 => 3 | n8 => 4 | n16 => 5 | n32 => 6 | n64 => 7
  | bf16 => 8 | f16 => 9 | f32 => 10 | e4m3 => 11 | e5m2 => 12 | e2m1 => 13 | cb3 => 14 | cb4 => 15

/-- The type that a code names (R118). -/
def ofCode (c : BitVec 4) : ElemType :=
  match c.toNat with
  | 0 => i8 | 1 => i16 | 2 => i32 | 3 => i64 | 4 => n8 | 5 => n16 | 6 => n32 | 7 => n64
  | 8 => bf16 | 9 => f16 | 10 => f32 | 11 => e4m3 | 12 => e5m2 | 13 => e2m1 | 14 => cb3 | _ => cb4

/-- Bits of one element (R118). -/
def bits : ElemType → Nat
  | i8 | n8 | e4m3 | e5m2 => 8
  | i16 | n16 | bf16 | f16 => 16
  | i32 | n32 | f32 => 32
  | i64 | n64 => 64
  | e2m1 | cb4 => 4
  | cb3 => 3

/-- Codes 0 to 7: INT (R185). -/
def isInt (t : ElemType) : Bool := t.code.toNat < 8

/-- Codes 0 to 3: signed integers (R118). -/
def isSigned (t : ElemType) : Bool := t.code.toNat < 4

/-- Codes 8 to 10: FLT (R185). -/
def isFlt (t : ElemType) : Bool := 8 ≤ t.code.toNat ∧ t.code.toNat ≤ 10

/-- Codes 0 to 12: ANY (R185). -/
def isAny (t : ElemType) : Bool := t.code.toNat < 13

/-- The narrow block-scaled formats (R196). -/
def isNarrow (t : ElemType) : Bool := t = e4m3 ∨ t = e5m2 ∨ t = e2m1

/-- The codebook formats (R130). -/
def isCodebook (t : ElemType) : Bool := t = cb3 ∨ t = cb4

/-- The types of VRDM, VATOM and their like for integers (R211, R212). -/
def isAtomic (t : ElemType) : Bool := t = i32 ∨ t = n32 ∨ t = i64 ∨ t = n64

end ElemType

/-- How an engine word uses a register field (R140, R185). -/
inductive Use where
  /-- unused: must be zero -/
  | none
  /-- a group of 2^w vector registers (R141) -/
  | vec
  /-- one vector register -/
  | vec1
  /-- a span of vector registers that holds so many bits (R185) -/
  | span (bits : Nat)
  /-- a scalar register, read at issue (R29) -/
  | scal
  /-- four scalar registers from a multiple of 4 (R26) -/
  | quad
  /-- a mask register -/
  | mask
  /-- a mask register that may not be k0 (R191, R192) -/
  | maskDst
  /-- a value up to a bound, not a register -/
  | num (max : Nat)
  deriving DecidableEq, Repr

/-- Registers of a span of so many bits (R185). -/
def spanRegs (bits : Nat) : Nat := (bits + 2047) / 2048

/-- `p` rounded up to a power of two, for p up to 8 (R185). -/
def pow2Up (p : Nat) : Nat := if p ≤ 1 then 1 else if p ≤ 2 then 2 else if p ≤ 4 then 4 else 8

namespace Use

/-- How many registers from the named one the field stands for. -/
def count (u : Use) (w : BitVec 2) : Nat :=
  match u with
  | none | num _ => 0
  | vec => 2 ^ w.toNat
  | vec1 | scal | mask | maskDst => 1
  | span bits => spanRegs bits
  | quad => 4

/-- The field admits this number (R140, R141, R185, R191, R192). -/
def ok (u : Use) (w : BitVec 2) (r : Reg) : Bool :=
  match u with
  | none => r = 0
  | vec => r.toNat % 2 ^ w.toNat = 0
  | vec1 | scal => true
  | span bits => spanRegs bits ≤ 8 ∧ r.toNat % pow2Up (spanRegs bits) = 0
  | quad => r.toNat % 4 = 0
  | mask => r.toNat < 16
  | maskDst => r.toNat < 16 ∧ r ≠ 0
  | num m => r.toNat ≤ m

end Use

/-- What an engine word of one mnemonic uses (R140, R142). `types` is the set that its type field admits; an
instruction without a type admits code 0 alone. `immMask` marks the bits of the last twelve that it uses: those of c too,
where c names a register. -/
structure EShape where
  d       : Use := .none
  a       : Use := .none
  b       : Use := .none
  c       : Use := .none
  types   : ElemType → Bool := fun t => t = .i8
  wUsed   : Bool := true
  kUsed   : Bool := true
  rmUsed  : Bool := false
  satUsed : Bool := false
  altUsed : Bool := false
  immMask : BitVec 12 := 0
  extra   : Bool := true

namespace EOp

/-- The fourth register (R140). -/
def c (o : EOp) : Reg := o.imm.extractLsb' 6 6

/-- The aux field (R140). -/
def aux (o : EOp) : BitVec 6 := o.imm.extractLsb' 0 6

/-- The source type of a two-type instruction (R142). -/
def src (o : EOp) : ElemType := ElemType.ofCode (o.imm.extractLsb' 0 4)

/-- Registers of an operand governed by w (R141). -/
def regs (o : EOp) : Nat := 2 ^ o.w.toNat

/-- N: the elements of an operand governed by w, for a type (R185). -/
def elems (o : EOp) (t : ElemType) : Nat := 2 ^ o.w.toNat * 2048 / t.bits

end EOp

namespace MOp

/-- The fourth register of a tile word (R230). -/
def c (o : MOp) : Reg := o.imm.extractLsb' 6 6

/-- Registers of an operand governed by w (R141). -/
def regs (o : MOp) : Nat := 2 ^ o.w.toNat

/-- Bytes of an element. -/
def es (o : MOp) : Nat := o.ty.bits / 8

/-- N: the elements of an operand governed by w (R185). -/
def elems (o : MOp) : Nat := 2 ^ o.w.toNat * 2048 / o.ty.bits

end MOp

/-- The engine word obeys its shape (R140 to R142, R149). -/
def EShape.check (sh : EShape) (o : EOp) : Bool :=
  sh.d.ok o.w o.d && sh.a.ok o.w o.a && sh.b.ok o.w o.b && (sh.c = .none || sh.c.ok o.w o.c)
  && sh.types o.ty && (sh.wUsed || o.w = 0) && (sh.kUsed || o.k = 0)
  && (sh.rmUsed || o.rm = .rne) && (sh.satUsed || !o.sat) && (sh.altUsed || !o.alt)
  && ((o.imm &&& ~~~ sh.immMask) = 0) && sh.extra

namespace EShape

/-- VINT with two vector sources (R189). -/
def int2 (sat : Bool) : EShape := { d := .vec, a := .vec, b := .vec, types := ElemType.isInt, satUsed := sat }

/-- VINT with one vector source (R189). -/
def int1 (sat : Bool) : EShape := { d := .vec, a := .vec, types := ElemType.isInt, satUsed := sat }

/-- VINT with a vector and a scalar source (R189). -/
def intS : EShape := { d := .vec, a := .vec, b := .scal, types := ElemType.isInt, satUsed := true }

/-- The shifts: an amount vector, or with alt an amount in imm12[5:0] (R189). -/
def shift (sat : Bool) (o : EOp) : EShape :=
  { d := .vec, a := .vec, b := if o.alt then .none else .vec, types := ElemType.isInt, satUsed := sat,
    altUsed := true, immMask := if o.alt then 0x03F else 0 }

/-- VFLT with two sources that rounds (R190). -/
def flt2 : EShape :=
  { d := .vec, a := .vec, b := .vec, types := ElemType.isFlt, rmUsed := true, satUsed := true }

/-- VFMIN and VFMAX (R190). -/
def fltMM : EShape := { d := .vec, a := .vec, b := .vec, types := ElemType.isFlt }

/-- VFABS and VFNEG (R190). -/
def fltSign : EShape := { d := .vec, a := .vec, types := ElemType.isFlt }

/-- VFSQRT and VFRND (R190). -/
def fltRnd : EShape := { d := .vec, a := .vec, types := ElemType.isFlt, rmUsed := true }

/-- VFMA and its kin (R190). -/
def fma : EShape :=
  { d := .vec, a := .vec, b := .vec, c := .vec, types := ElemType.isFlt, rmUsed := true, satUsed := true,
    immMask := 0xFC0 }

/-- VCMP (R142, R191). -/
def cmp (o : EOp) : EShape :=
  { d := .maskDst, a := .vec, b := .vec, types := ElemType.isAny, immMask := 0x007,
    extra := o.imm.extractLsb' 0 3 ≠ 7 ∧ 2 ^ o.w.toNat ≤ o.ty.bits / 8 }

/-- The mask operations (R192). -/
def kop (d a b : Use) : EShape := { d := d, a := a, b := b, wUsed := false, kUsed := false }

/-- KSET (R192). -/
def kset (o : EOp) : EShape :=
  { d := .maskDst, wUsed := false, kUsed := false, immMask := 0x1FF, extra := o.imm.toNat ≤ 256 }

/-- VPERM of two sources (R193). -/
def perm2 (alt : Bool) : EShape := { d := .vec, a := .vec, b := .vec, types := ElemType.isAny, altUsed := alt }

/-- VPERM of one source (R193). -/
def perm1 : EShape := { d := .vec, a := .vec, types := ElemType.isAny }

/-- VBCAST: a scalar, or with alt an element (R193). -/
def bcast (o : EOp) : EShape :=
  { d := .vec, a := if o.alt then .vec else .scal, types := ElemType.isAny, altUsed := true,
    immMask := if o.alt then 0xFFF else 0, extra := !o.alt || o.imm.toNat < o.elems o.ty }

/-- VRED (R194). -/
def red (sum alt : Bool) (o : EOp) : EShape :=
  { d := .vec, a := .vec, types := fun t => t.isInt || t.isFlt, rmUsed := sum && o.ty.isFlt,
    satUsed := sum && o.ty.isInt, altUsed := alt }

/-- VRAND and VROR (R194). -/
def redBits : EShape := { d := .vec, a := .vec, types := ElemType.isInt }

/-- VCVT (R195). -/
def cvt (o : EOp) : EShape :=
  { d := .vec, a := .span (o.elems o.ty * o.src.bits), types := ElemType.isAny, rmUsed := true, satUsed := true,
    immMask := 0x00F, extra := o.src.isAny }

/-- VQNT (R196). -/
def qnt (o : EOp) : EShape :=
  { d := .span (o.elems o.src * o.ty.bits), a := .vec, c := .span (16 * (o.elems o.src / 32)),
    types := ElemType.isNarrow, rmUsed := true, satUsed := true, altUsed := o.ty = .e2m1, immMask := 0xFCF,
    extra := o.src.isFlt }

/-- VDQNT (R198). -/
def dqnt (o : EOp) : EShape :=
  { d := .vec, a := .span (o.elems o.ty * o.src.bits), c := .vec1, types := ElemType.isFlt,
    altUsed := o.src = .e2m1, immMask := 0xFCF, extra := o.src.isNarrow }

/-- VCBX (R199). -/
def cbx (o : EOp) : EShape :=
  { d := .vec, a := .span (o.elems o.ty * o.src.bits), c := .vec1, types := ElemType.isFlt, rmUsed := true,
    immMask := 0xFCF, extra := o.src.isCodebook ∧ o.elems o.ty % 128 = 0 }

/-- The packed side of VPACK and VUNPK (R200). -/
def packed (t : ElemType) : Bool := t.isInt || t = .e2m1 || t.isCodebook

/-- VPACK (R200). -/
def pack (o : EOp) : EShape :=
  { d := .span (o.elems o.src * o.ty.bits), a := .vec, types := packed, satUsed := true, immMask := 0x00F,
    extra := o.src.isInt ∧ o.ty.bits ≤ o.src.bits }

/-- VUNPK (R200). -/
def unpk (o : EOp) : EShape :=
  { d := .vec, a := .span (o.elems o.ty * o.src.bits), types := ElemType.isInt, immMask := 0x00F,
    extra := packed o.src ∧ o.src.bits ≤ o.ty.bits }

/-- An element number below N in imm12 (R202). -/
def elemNo (d a : Use) (o : EOp) : EShape :=
  { d := d, a := a, types := ElemType.isAny, kUsed := false, immMask := 0xFFF, extra := o.imm.toNat < o.elems o.ty }

/-- An instruction with scalar operands only and no type, mask or width: MLDB, MMA, MZERO and their like. -/
def plainS (d a b : Use) (alt : Bool) : EShape :=
  { d := d, a := a, b := b, wUsed := false, kUsed := false, altUsed := alt }

/-- GEMVH (R226). -/
def gemvh : EShape :=
  { d := .scal, a := .scal, b := .scal, c := .scal, types := ElemType.isFlt, wUsed := false, kUsed := false,
    immMask := 0xFC7 }

/-- RLOPEN (R234, R235): a spill region only under SPILL. -/
def rlopen (o : EOp) : EShape :=
  { a := .scal, b := if o.imm.extractLsb' 0 2 = 0 then .scal else .none, c := .scal, wUsed := false, kUsed := false,
    immMask := 0xFFF, extra := o.imm.extractLsb' 0 2 ≠ 3 ∧ (o.imm.extractLsb' 2 4).toNat ≤ 4 }

/-- A Reel word without a type or mask (R234). -/
def reel (d a : Use) (w : Bool) (immMask : BitVec 12) : EShape :=
  { d := d, a := a, wUsed := w, kUsed := false, immMask := immMask }

/-- VTRA (R203). -/
def tra : EShape := { d := .vec, a := .vec, types := ElemType.isFlt, rmUsed := true, satUsed := true }

end EShape

/-- What an L or S memory word uses beyond its tokens, scope, type and rebase selector (R143, R144). -/
structure MShape where
  d       : Use := .none
  a       : Use := .scal
  b       : Use := .none
  c       : Use := .none
  types   : ElemType → Bool := ElemType.isAny
  wUsed   : Bool := true
  kUsed   : Bool := true
  immMask : BitVec 12 := 0
  extra   : Bool := true

/-- The word obeys its shape. -/
def MShape.check (sh : MShape) (o : MOp) : Bool :=
  sh.d.ok o.w o.d && sh.a.ok o.w o.a && sh.b.ok o.w o.b && (sh.c = .none || sh.c.ok o.w o.c)
  && sh.types o.ty && (sh.wUsed || o.w = 0) && (sh.kUsed || o.k = 0)
  && ((o.imm &&& ~~~ sh.immMask) = 0) && sh.extra

/-- The scratchpad form of imm12: [10:9] only with [11] (R26). -/
def scrImmOk (imm : BitVec 12) : Bool := imm.getLsbD 11 || imm.extractLsb' 9 2 = 0

namespace MShape

/-- VLD and VST (R144, R208, R210). -/
def contiguous (o : MOp) : MShape :=
  { d := .vec, immMask := 0xFFF, extra := o.space = .global ∧ o.ord = .plain }

/-- VLDRO (R144). -/
def readOnly (o : MOp) : MShape :=
  { d := .vec, immMask := 0xFFF, extra := o.space = .global ∧ o.ord = .plain ∧ o.scope = .core }

/-- VLDS and VSTS: scratchpad by major (R144). -/
def scratch (o : MOp) : MShape :=
  { d := .vec, immMask := 0xFFF,
    extra := o.space = .global ∧ o.ord = .plain ∧ o.scope = .core ∧ scrImmOk o.imm }

/-- VGATH and VSCAT (R144, R207). -/
def indexed (o : MOp) : MShape :=
  { d := .vec, b := .span (32 * o.elems),
    extra := o.ord = .plain ∧ (o.space = .global ∨ (o.space = .scratch ∧ o.scope = .core)) }

/-- VRDM and VATOM (R144, R211, R212). -/
def atomic (ok : Bool) (o : MOp) : MShape :=
  { d := .vec, b := .num 63, types := fun t => t.isAtomic || t = .f32, immMask := 0xFFF,
    extra := ok ∧ o.ord = .plain ∧
      (o.space = .global ∨ (o.space = .scratch ∧ o.scope = .core ∧ scrImmOk o.imm)) }

/-- The b field of VRDM and its types (R211). -/
def vrdmOk (o : MOp) : Bool :=
  o.b.extractLsb' 3 2 = 0 ∧ (o.b.extractLsb' 0 3).toNat ≤ (if o.ty = .f32 then 2 else 5)

/-- The b field of VATOM and its types (R212). -/
def vatomOk (o : MOp) : Bool :=
  o.b.toNat ≤ 7 ∧ (o.ty ≠ .f32 ∨ o.b = 0 ∨ 5 ≤ o.b.toNat)

/-- The tile words (R26, R144, R230). -/
def tile (types : ElemType → Bool) (immOk : Bool) (o : MOp) : MShape :=
  { d := .scal, b := if o.space = .tensor then .quad else .none, c := .scal, types := types, wUsed := false,
    kUsed := false, immMask := 0xFC0,
    extra := (o.ord = .plain ∨ (immOk ∧ o.ord = .imm)) ∧
      (o.space = .global ∨ (o.space = .tensor ∧ !o.re)) }

end MShape

/-- The engine word of a C-class instruction, LDBLK or AGET, with its shape. -/
def Instr.eop? : Instr → Option (EOp × EShape)
  | .ldblk o => some (o, { d := .num 63, a := .scal, b := .num 63, wUsed := false, kUsed := false, immMask := 0xFFF })
  | .aget o => some (o, { d := .vec, kUsed := false })
  | .vadd o | .vsub o | .vmul o => some (o, .int2 true)
  | .vmulh o | .vmin o | .vmax o | .vand o | .vor o | .vxor o | .vandn o | .vavg o | .vsel o => some (o, .int2 false)
  | .vshl o => some (o, .shift true o)
  | .vshr o | .vshra o => some (o, .shift false o)
  | .vabs o | .vneg o => some (o, .int1 true)
  | .vadds o | .vsubs o => some (o, .intS)
  | .vclz o | .vpopc o => some (o, .int1 false)
  | .viota o => some (o, { d := .vec, types := ElemType.isInt, immMask := 0xFFF })
  | .vfadd o | .vfsub o | .vfmul o | .vfdiv o => some (o, .flt2)
  | .vfmin o | .vfmax o => some (o, .fltMM)
  | .vfabs o | .vfneg o => some (o, .fltSign)
  | .vfsqrt o | .vfrnd o => some (o, .fltRnd)
  | .vfma o | .vfms o | .vfnma o | .vfnms o => some (o, .fma)
  | .vcmp o => some (o, .cmp o)
  | .kand o | .kor o | .kxor o => some (o, .kop .maskDst .mask .mask)
  | .knot o | .kffs o | .kmov o => some (o, .kop .maskDst .mask .none)
  | .kpopc o => some (o, .kop .none .mask .none)
  | .kset o => some (o, .kset o)
  | .vperm o => some (o, .perm2 false)
  | .vzip o | .vunzip o | .vtrn o => some (o, .perm2 true)
  | .vshuf o => some (o, { EShape.perm1 with immMask := 0x0FF })
  | .vslide o => some (o, { EShape.perm2 false with immMask := 0xFFF, extra := o.imm.toNat ≤ o.elems o.ty })
  | .vbcast o => some (o, .bcast o)
  | .vcmpr o | .vexpd o => some (o, .perm1)
  | .vrsum o => some (o, .red true false o)
  | .vrmax o | .vrmin o => some (o, .red false false o)
  | .vrand o | .vror o => some (o, .redBits)
  | .vpsum o => some (o, .red true true o)
  | .vcvt o => some (o, .cvt o)
  | .vqnt o => some (o, .qnt o)
  | .vdqnt o => some (o, .dqnt o)
  | .vcbx o => some (o, .cbx o)
  | .vpack o => some (o, .pack o)
  | .vunpk o => some (o, .unpk o)
  | .vsit o => some (o, { d := .mask, a := .vec, b := .vec1, immMask := 0x00F })
  | .vsitc o => some (o, { d := .mask, a := .vec, b := .vec1, c := .vec1, immMask := 0xFC0 })
  | .vdrain o => some (o, { d := .vec, b := .vec1, kUsed := false, altUsed := true, immMask := 0x00F })
  | .vsitclr o => some (o, { wUsed := false, kUsed := false, altUsed := true, immMask := if o.alt then 0 else 0x00F })
  | .mldb o => some (o, .plainS .none .scal .scal true)
  | .mma o => some (o, .plainS .scal .scal .scal true)
  | .mzero o => some (o, .plainS .scal .none .scal false)
  | .mlease o | .mrel o => some (o, .plainS .none .none .none false)
  | .gemvh o => some (o, .gemvh)
  | .rlopen o => some (o, .rlopen o)
  | .rlrec o => some (o, .reel .none .vec true 0x00F)
  | .rlbr o | .rlchk o => some (o, .reel .none .mask false 0)
  | .rlmark o => some (o, .reel .none .scal false 0xFFF)
  | .rlseal o | .rlclose o => some (o, .reel .none .none false 0)
  | .rlrev o => some (o, .reel .none .none false 0xFFF)
  | .rlpop o => some (o, .reel .vec .none true 0x00F)
  | .rlbrp o => some (o, .reel .maskDst .none false 0)
  | .rlstat o => some (o, { EShape.reel .none .none false 0xFFF with extra := o.imm.toNat ≤ 0x41 })
  | .vmov o => some (o, .perm1)
  | .vins o => some (o, .elemNo .vec .scal o)
  | .vext o => some (o, .elemNo .none .vec o)
  | .vli o => some (o, { d := .vec, types := ElemType.isAny, rmUsed := true, immMask := 0xFFF })
  | .vexp2 o | .vlog2 o | .vrcp o | .vrsq o => some (o, .tra)
  | _ => none

/-- The memory word of an L-class or S-class instruction, with its shape. -/
def Instr.mop? : Instr → Option (MOp × MShape)
  | .vld o | .vst o => some (o, .contiguous o)
  | .vlds o | .vsts o => some (o, .scratch o)
  | .vgath o | .vscat o => some (o, .indexed o)
  | .vldro o => some (o, .readOnly o)
  | .tld o | .tst o => some (o, .tile ElemType.isAny true o)
  | .tacc o => some (o, .tile (fun t => t = .f32 || t = .i32 || t = .n32) false o)
  | .vrdm o => some (o, .atomic (MShape.vrdmOk o) o)
  | .vatom o => some (o, .atomic (MShape.vatomOk o) o)
  | _ => none

/-- The async word of an instruction, with which of a, b, c it uses, its id6 bound, the bits of imm24 it uses and
its width (R145). -/
structure AShape where
  a       : Bool := false
  b       : Bool := false
  c       : Bool := false
  idMax   : Nat := 0
  immMask : BitVec 24 := 0
  w       : BitVec 2 := 0
  deriving DecidableEq, Repr

/-- The word obeys its shape (R141, R145). -/
def AShape.check (sh : AShape) (o : AOp) : Bool :=
  (sh.a || o.a = 0) && (sh.b || o.b = 0) && (sh.c || o.c = 0) && o.id.toNat ≤ sh.idMax
  && ((o.imm &&& ~~~ sh.immMask) = 0) && o.w = sh.w && o.a.toNat % 2 ^ sh.w.toNat = 0

/-- The async word of an instruction, with its shape. -/
def Instr.aop? : Instr → Option (AOp × AShape)
  | .cpy o => some (o, { a := true, b := true, c := true, idMax := 31, immMask := 0x3F })
  | .fload o => some (o, { a := true, idMax := 63 })
  | .fst o => some (o, { a := true, b := true, c := true, idMax := 63, immMask := 0x3F })
  | .crun o => some (o, { a := true, idMax := 63, immMask := 0x1FF, w := 3 })
  | .gjoin o | .gprop o | .rshd o => some (o, { a := true, immMask := 0x1FF })
  | .gleave o => some (o, { immMask := 0x1FF })
  | .gver o => some (o, { a := true })
  | .rshq o => some (o, { a := true, b := true })
  | .hseq o => some (o, { a := true, b := true, c := true })
  | _ => none

/-- A scalar memory word: the scratchpad form is plain, and a pair of registers is even (R137). -/
def MemOp.ok (store : Bool) (o : MemOp) : Bool :=
  (o.place ≠ .scratch || o.ord = .plain) && (if store then o.ord ≠ .acq else o.ord ≠ .rel)
  && (o.size ≠ .q || o.d.toNat % 2 = 0)

/-- An element type that a collective word may combine in (R150, R119; DEDUCED, log entry 12). -/
def combinable (t : ElemType) : Bool := t.isAny

/-- An instruction that the encoding admits (R149). The events of the device have no encoding and are all admitted. -/
def Instr.wf (i : Instr) : Bool :=
  match i with
  | .clz o | .ctz o | .popc o | .bswp o => o.b = 0
  | .ld o | .ldn o => o.ok false
  | .st o => o.ok true
  | .aadd o | .asub o | .aand o | .aor o | .axor o | .amin o | .amax o | .aminn o | .amaxn o | .aswp o
  | .ainc o | .adec o => o.b = 0
  | .afadd o | .afmin o | .afmax o => o.b = 0 ∧ o.w32
  | .waita _ a _ => a.toNat % 4 = 0
  | .fmtpush a => a.toNat % 2 = 0
  | .tblrun a _ cnt _ _ => a = 0 ∨ cnt = 0
  | .evcfg a _ => a.toNat % 2 = 0
  | .baset a target _ => a = 0 ∨ target = 0
  | .rrs _ _ _ ty _ | .rred _ _ _ ty _ => combinable ty
  | .loop _ cnt => cnt ≠ 0
  | .hloop back _ => back ≠ 0
  | i =>
    match i.eop?, i.mop?, i.aop? with
    | some (o, sh), _, _ => sh.check o
    | _, some (o, sh), _ => sh.check o
    | _, _, some (o, sh) => sh.check o
    | _, _, _ => true

end Sys2Proof
end

