-- ==== Sys2Proof/Decode.lean ====
section
/-! DEFINITION. Decoding and encoding (R135 to R151): a total decoder from bytes to an instruction or a named
rejection, the decoders of collective and helper words, and the encoder that writes every encodable instruction from
the same tables. Words are natural numbers below 2^32; bit 0 is the least significant. -/

namespace Sys2Proof

/-- Why bytes are not an instruction (R149): every reason is the same illegal encoding to the machine. -/
inductive DecodeError where
  /-- fewer bytes than the instruction has -/
  | short
  /-- a reserved major (R147) -/
  | reservedMajor
  /-- an unassigned minor (R148) -/
  | unassignedMinor
  /-- a field value that R136 to R146 or the instruction's own rule does not accept -/
  | badField
  deriving DecidableEq, Repr

/-- Bits [lo + n - 1 : lo] of a word. -/
def fld (w lo n : Nat) : BitVec n := BitVec.ofNat n (w / 2 ^ lo)

/-- The little-endian word at the head of a list of bytes. -/
def wordOf (b0 b1 b2 b3 : Byte) : Nat := b0.toNat + 256 * b1.toNat + 65536 * b2.toNat + 16777216 * b3.toNat

/-- The four bytes of a word, lowest address first (R135). -/
def bytesOf (w : Nat) : List Byte :=
  [BitVec.ofNat 8 w, BitVec.ofNat 8 (w / 256), BitVec.ofNat 8 (w / 65536), BitVec.ofNat 8 (w / 16777216)]

/-- The instruction with this first word has two words (R135). -/
def isLong (w0 : Nat) : Bool := 0x18 ≤ w0 / 2 ^ 26 % 64 ∨ (w0 / 2 ^ 26 % 64 = 0x17 ∧ w0 % 64 = 0)

namespace Rounding

/-- The rm field (R122). -/
def code : Rounding → BitVec 2 | rne => 0 | rtz => 1 | rsr => 2 | rna => 3

/-- The mode that the rm field names. -/
def ofCode (c : BitVec 2) : Rounding := match c.toNat with | 0 => rne | 1 => rtz | 2 => rsr | _ => rna

end Rounding

namespace Scope

/-- The scope field (R30). -/
def code : Scope → BitVec 3 | core => 0 | clu => 1 | die => 2 | dev => 3 | grp => 4 | sys => 5

/-- The scope that a value 0 to 5 names. -/
def ofCode? (n : Nat) : Option Scope :=
  match n with
  | 0 => some core | 1 => some clu | 2 => some die | 3 => some dev | 4 => some grp | 5 => some sys | _ => none

end Scope

namespace Ord

/-- The ord field (R30). -/
def code : Ord → BitVec 2 | plain => 0 | acq => 1 | rel => 2 | imm => 3

/-- The ordering that the ord field names. -/
def ofCode (c : BitVec 2) : Ord := match c.toNat with | 0 => plain | 1 => acq | 2 => rel | _ => imm

end Ord

namespace Space

/-- The space field (R143). -/
def code : Space → BitVec 3 | global => 0 | scratch => 1 | tensor => 2

/-- The space that a value 0 to 2 names. -/
def ofCode? (n : Nat) : Option Space := match n with | 0 => some global | 1 => some scratch | 2 => some tensor | _ => none

end Space

namespace Size

/-- The size field (R137). -/
def code : Size → BitVec 3 | b => 0 | h => 1 | w => 2 | d => 3 | q => 4

/-- The size that a value 0 to 4 names. -/
def ofCode? (n : Nat) : Option Size :=
  match n with
  | 0 => some b | 1 => some h | 2 => some w | 3 => some d | 4 => some q | _ => none

/-- Bytes of the access (R159). -/
def bytes : Size → Nat | b => 1 | h => 2 | w => 4 | d => 8 | q => 16

end Size

namespace Queue

/-- The queue number (R139, R146). -/
def code : Queue → BitVec 2 | l => 0 | c => 1 | s => 2

/-- The queue that a value 0 to 2 names. -/
def ofCode? (n : Nat) : Option Queue := match n with | 0 => some l | 1 => some c | 2 => some s | _ => none

end Queue

namespace ShiftKind

/-- imm14[13:12] of SHI (R136). -/
def code : ShiftKind → BitVec 2 | sll => 0 | srl => 1 | sra => 2 | rol => 3

/-- The kind that a value names. -/
def ofCode (c : BitVec 2) : ShiftKind := match c.toNat with | 0 => sll | 1 => srl | 2 => sra | _ => rol

end ShiftKind

namespace Rop

/-- The ROP field (R150). -/
def code : Rop → BitVec 2 | sum => 0 | max => 1 | min => 2

/-- The reduction that a value 0 to 2 names. -/
def ofCode? (n : Nat) : Option Rop := match n with | 0 => some sum | 1 => some max | 2 => some min | _ => none

end Rop

namespace PeerMode

/-- The MODE field of PEER (R150). -/
def code : PeerMode → BitVec 2 | plus => 0 | minus => 1 | xor => 2 | abs => 3

/-- The mode that a value names. -/
def ofCode (c : BitVec 2) : PeerMode := match c.toNat with | 0 => plus | 1 => minus | 2 => xor | _ => abs

end PeerMode

namespace KSrc

/-- The KSRC field of PEER (R150). -/
def code : KSrc → BitVec 2 | imm => 0 | plusC => 1 | shiftC => 2

/-- The source that a value 0 to 2 names. -/
def ofCode? (n : Nat) : Option KSrc := match n with | 0 => some imm | 1 => some plusC | 2 => some shiftC | _ => none

end KSrc

/-- The number of a truth value in a one-bit field. -/
def bit (b : Bool) : Nat := if b then 1 else 0

/-- One bit of a word. -/
def bitAt (w lo : Nat) : Bool := w / 2 ^ lo % 2 = 1

/-- The minors of ALU (R148). -/
def aluTable : List (RegOp → Instr) :=
  [.add, .sub, .and, .or, .xor, .andn, .sll, .srl, .sra, .rol, .ror, .mul, .mulh, .mulhn, .div, .divn, .rem, 
   .remn, .min, .max, .minn, .maxn, .slt, .sltn, .seq, .clz, .ctz, .popc, .ext, .ins, .sel, .bswp]

/-- The minors of ATOM (R148). -/
def atomTable : List (AtomOp → Instr) :=
  [.aadd, .asub, .aand, .aor, .axor, .amin, .amax, .aminn, .amaxn, .aswp, .acas, .ainc, .adec, .afadd, .afmin, 
   .afmax]

/-- The minors of the C-class majors, LDBLK and AGET (R148). -/
def eTable (major : Nat) : List (EOp → Instr) :=
  match major with
  | 0x1C => [.ldblk]
  | 0x1D => [.aget]
  | 0x20 => [.vadd, .vsub, .vmul, .vmulh, .vmin, .vmax, .vand, .vor, .vxor, .vandn, .vshl, .vshr, .vshra, .vabs,
      .vneg, .vadds, .vsubs, .vavg, .vclz, .vpopc, .vsel, .viota]
  | 0x21 => [.vfadd, .vfsub, .vfmul, .vfmin, .vfmax, .vfabs, .vfneg, .vfdiv, .vfsqrt, .vfrnd]
  | 0x22 => [.vfma, .vfms, .vfnma, .vfnms]
  | 0x23 => [.vcmp, .kand, .kor, .kxor, .knot, .kpopc, .kffs, .kmov, .kset]
  | 0x24 => [.vperm, .vshuf, .vslide, .vbcast, .vzip, .vunzip, .vtrn, .vcmpr, .vexpd]
  | 0x25 => [.vrsum, .vrmax, .vrmin, .vrand, .vror, .vpsum]
  | 0x26 => [.vcvt, .vqnt, .vdqnt, .vcbx, .vpack, .vunpk]
  | 0x27 => [.vsit, .vsitc, .vdrain, .vsitclr]
  | 0x28 => [.mldb, .mma, .mzero]
  | 0x29 => [.mlease, .mrel]
  | 0x2A => [.gemvh]
  | 0x2B => [.rlopen, .rlrec, .rlbr, .rlmark, .rlseal, .rlrev, .rlpop, .rlbrp, .rlchk, .rlstat, .rlclose]
  | 0x2C => [.vmov, .vins, .vext, .vli]
  | 0x2D => [.vexp2, .vlog2, .vrcp, .vrsq]
  | _ => []

/-- The L-class and S-class memory majors (R147). -/
def mTable (major : Nat) : Option (MOp → Instr) :=
  match major with
  | 0x18 => some .vld
  | 0x19 => some .vlds
  | 0x1A => some .vgath
  | 0x1B => some .tld
  | 0x1E => some .vldro
  | 0x30 => some .vst
  | 0x31 => some .vsts
  | 0x32 => some .vscat
  | 0x33 => some .tst
  | 0x34 => some .tacc
  | 0x35 => some .vrdm
  | 0x36 => some .vatom
  | _ => none

/-- The async majors that use the plain A layout (R145). -/
def aTable (major op : Nat) : Option (AOp → Instr) :=
  match major, op with
  | 0x38, 0 => some .cpy
  | 0x39, 0 => some .fload
  | 0x39, 1 => some .fst
  | 0x3A, 0 => some .crun
  | 0x3A, 1 => some .gjoin
  | 0x3A, 2 => some .gleave
  | 0x3A, 3 => some .gprop
  | 0x3A, 4 => some .gver
  | 0x3B, 0 => some .rshd
  | 0x3B, 1 => some .rshq
  | 0x3C, 0 => some .hseq
  | _, _ => none

/-- The SI majors with a signed immediate (R136). -/
def iTable (major : Nat) : Option (ImmOp → Instr) :=
  match major with
  | 0x02 => some .addi
  | 0x03 => some .andi
  | 0x04 => some .ori
  | 0x05 => some .xori
  | 0x07 => some .slti
  | 0x10 => some .jalr
  | _ => none

/-- The SB majors (R136). -/
def bTable (major : Nat) : Option (BranchOp → Instr) :=
  match major with
  | 0x09 => some .beq
  | 0x0A => some .bne
  | 0x0B => some .blt
  | 0x0C => some .bge
  | 0x0D => some .bltn
  | 0x0E => some .bgen
  | _ => none

/-- SR fields of ALU: sz 0 or 1 (R137). -/
def regOp (w : Nat) : Option RegOp :=
  if w / 2 ^ 7 % 2 = 0 then some ⟨fld w 20 6, fld w 14 6, fld w 8 6, bitAt w 6⟩ else none

/-- SI fields (R136). -/
def immOp (w : Nat) : ImmOp := ⟨fld w 20 6, fld w 14 6, fld w 0 14⟩

/-- SB fields (R136). -/
def branchOp (w : Nat) : BranchOp := ⟨fld w 20 6, fld w 14 6, fld w 0 14⟩

/-- The address space of an SM word: 0 to 5 global, 6 scratchpad, 7 illegal (R137). -/
def placeOf (n : Nat) : Option Place := if n = 6 then some .scratch else (Scope.ofCode? n).map .global

/-- SM fields (R136, R137). -/
def memOp (w : Nat) : Option MemOp :=
  match placeOf (w / 2 ^ 11 % 8), Size.ofCode? (w / 2 ^ 6 % 8) with
  | some p, some sz => some ⟨fld w 20 6, fld w 14 6, p, Ord.ofCode (fld w 9 2), sz, fld w 0 6⟩
  | _, _ => none

/-- ATOM fields (R137): sz is width and space, fn[5] the no-return bit. -/
def atomOp (w : Nat) : AtomOp := ⟨fld w 20 6, fld w 14 6, fld w 8 6, bitAt w 6, bitAt w 7, bitAt w 5⟩

/-- The token bits of word 0 (R28). -/
def tokens (w0 : Nat) : Tokens := ⟨bitAt w0 25, bitAt w0 24, bitAt w0 23, bitAt w0 22⟩

/-- The E layout of a C-class word pair (R140). -/
def eOp (w0 w1 : Nat) : EOp :=
  ⟨tokens w0, fld w0 16 6, fld w0 10 6, fld w0 4 6, fld w0 2 2, ElemType.ofCode (fld w1 20 4), fld w1 16 4,
   Rounding.ofCode (fld w1 14 2), bitAt w1 13, bitAt w1 12, fld w1 0 12⟩

/-- The E layout of a memory word pair (R143). -/
def mOp (w0 w1 : Nat) : Option MOp :=
  match Scope.ofCode? (w1 / 2 ^ 29 % 8), Space.ofCode? (w1 / 2 ^ 24 % 8) with
  | some sc, some sp =>
    some ⟨tokens w0, fld w0 16 6, fld w0 10 6, fld w0 4 6, fld w0 2 2, sc, Ord.ofCode (fld w1 27 2), sp,
      ElemType.ofCode (fld w1 20 4), fld w1 16 4, bitAt w1 15, fld w1 12 3, fld w1 0 12⟩
  | _, _ => none

/-- The A layout (R145). -/
def aOp (w0 w1 : Nat) : AOp := ⟨fld w0 20 6, fld w0 14 6, fld w0 8 6, fld w0 6 2, fld w0 0 6, fld w1 0 24⟩

/-- `i` when the condition holds, else a bad field. -/
def accept (ok : Bool) (i : Instr) : Except DecodeError Instr := if ok then .ok i else .error .badField

/-- A field reading, or a bad field. -/
def need {α : Type} (x : Option α) (f : α → Instr) : Except DecodeError Instr :=
  match x with
  | some v => .ok (f v)
  | none => .error .badField

/-- SYNC (R139): sz is zero, and every field that an instruction does not use is zero. -/
def decodeSync (w : Nat) : Except DecodeError Instr :=
  let d := w / 2 ^ 20 % 64
  let a := w / 2 ^ 14 % 64
  let b := w / 2 ^ 8 % 64
  let z := w / 2 ^ 6 % 4 = 0
  match w % 64 with
  | 0x00 => if z ∧ d = 0 ∧ a = 0 then need (Scope.ofCode? b) .fence else .error .badField
  | 0x01 => if z ∧ d = 0 ∧ a = 0 then need (Scope.ofCode? b) .pub else .error .badField
  | 0x02 => if z ∧ d = 0 ∧ a = 0 then need (Scope.ofCode? b) .opn else .error .badField
  | 0x03 => accept (z ∧ d = 0 ∧ a = 0 ∧ 1 ≤ b ∧ b ≤ 4) (.phase (BitVec.ofNat 2 (b - 1)))
  | 0x04 => accept z (.waita (fld w 20 6) (fld w 14 6) (fld w 8 6))
  | 0x05 => accept (z ∧ d = 0 ∧ b = 0) (.waitt (fld w 14 6))
  | 0x06 => accept (z ∧ d = 0 ∧ b = 0) (.twany (fld w 14 6))
  | 0x07 => accept (z ∧ d = 0 ∧ b = 0) (.twall (fld w 14 6))
  | 0x08 => accept (z ∧ b = 0) (.tffr (fld w 20 6) (fld w 14 6))
  | 0x09 => if z ∧ d = 0 ∧ a = 0 then need (Queue.ofCode? b) .sqwait else .error .badField
  | 0x0A => accept (z ∧ d = 0 ∧ a = 0 ∧ b = 0) .roinv
  | 0x0B => accept (z ∧ d = 0 ∧ b = 0) (.disc (fld w 14 6))
  | 0x0C => accept (z ∧ a = 0 ∧ b = 0) (.agets (fld w 20 6))
  | _ => .error .unassignedMinor

/-- SYS (R138). -/
def decodeSys (w : Nat) : Except DecodeError Instr :=
  let r := w / 2 ^ 20 % 64
  let n := w / 2 ^ 8 % 4096
  let z := w / 2 ^ 6 % 4 = 0
  match w % 64 with
  | 0x00 => accept (z ∧ r = 0) (.trap (fld w 8 12))
  | 0x01 => accept (z ∧ r = 0 ∧ n = 0) .eret
  | 0x02 => accept z (.srd (fld w 20 6) (fld w 8 12))
  | 0x03 => accept z (.swr (fld w 20 6) (fld w 8 12))
  | 0x04 => accept (z ∧ r = 0) (.brk (fld w 8 12))
  | 0x05 => accept (z ∧ r = 0 ∧ n = 0) .exit
  | 0x06 => accept (z ∧ r = 0 ∧ n = 0) .tail
  | _ => .error .unassignedMinor

/-- MISC (R176); LIW takes word 1. -/
def decodeMisc (w w1 : Nat) : Except DecodeError Instr :=
  let d := w / 2 ^ 20 % 64
  let b := w / 2 ^ 8 % 64
  let a := w / 2 ^ 14 % 64
  let z := w / 2 ^ 6 % 4 = 0
  match w % 64 with
  | 0x00 => accept (z ∧ a = 0 ∧ b = 0) (.liw (fld w 20 6) (fld w1 0 32))
  | 0x01 => accept (z ∧ d = 0 ∧ b = 0) (.fmtpush (fld w 14 6))
  | 0x02 => accept (z ∧ d < 16 ∧ b = 0) (.mapld (fld w 20 4) (fld w 14 6))
  | 0x03 => accept (z ∧ d < 16 ∧ b = 0) (.mapst (fld w 20 4) (fld w 14 6))
  | 0x04 => accept (z ∧ d = 0 ∧ b = 0) (.tdld (fld w 14 6))
  | 0x05 => accept (z ∧ d = 0) (.mcset (fld w 14 6) (fld w 8 6))
  | 0x06 => accept (z ∧ d = 0 ∧ b = 0) (.mcqui (fld w 14 6))
  | 0x07 => accept (z ∧ d = 0) (.mslot (fld w 14 6) (fld w 8 6))
  | _ => .error .unassignedMinor

/-- The TBL major (R146). -/
def decodeTbl (w0 w1 : Nat) : Except DecodeError Instr :=
  let rest := w0 % 2 ^ 26
  let q := Queue.ofCode? (w1 / 2 ^ 17 % 4)
  let hi := w1 / 2 ^ 19 % 32 = 0
  match w1 / 2 ^ 24 % 256 with
  | 0x00 =>
    if hi ∧ w0 / 2 ^ 16 % 16 = 0 ∧ w0 / 2 ^ 6 % 4 = 0 then
      need q (.tblrun (fld w0 20 6) (fld w0 8 8) (fld w0 0 6) (fld w1 0 17))
    else .error .badField
  | 0x01 => if hi ∧ rest = 0 ∧ w1 % 2 ^ 17 = 0 then need q .tblstop else .error .badField
  | 0x02 =>
    if hi ∧ w0 / 2 ^ 3 % 2 ^ 17 = 0 ∧ w1 % 2 ^ 17 = 0 then need q (.tblbase (fld w0 20 6) (fld w0 0 3))
    else .error .badField
  | _ => .error .unassignedMinor

/-- The EVX major: a term 0 to 31 in id6, imm24 zero; EVCFG names a pair (R145, R258). -/
def decodeEvx (w0 w1 : Nat) : Except DecodeError Instr :=
  let ok := w0 / 2 ^ 5 % 2 = 0 ∧ w0 / 2 ^ 8 % 2 ^ 12 = 0 ∧ w1 % 2 ^ 24 = 0
  let bare := w0 / 2 ^ 20 % 64 = 0 ∧ w0 / 2 ^ 6 % 4 = 0
  match w1 / 2 ^ 24 % 256 with
  | 0x00 => accept (ok ∧ w0 / 2 ^ 6 % 4 = 1) (.evcfg (fld w0 20 6) (fld w0 0 5))
  | 0x01 => accept (ok ∧ bare) (.evarm (fld w0 0 5))
  | 0x02 => accept (ok ∧ bare) (.evoff (fld w0 0 5))
  | _ => .error .unassignedMinor

/-- The BAR major (R145, R172). -/
def decodeBar (w0 w1 : Nat) : Except DecodeError Instr :=
  let low := w0 % 2 ^ 20 = 0
  let a0 := w0 / 2 ^ 20 % 64 = 0
  let hi := w1 / 2 ^ 9 % 2 ^ 15 = 0
  match w1 / 2 ^ 24 % 256 with
  | 0x00 => accept (low ∧ a0 ∧ hi) (.barv (fld w1 0 9))
  | 0x01 => accept (low ∧ a0 ∧ hi) (.bawt (fld w1 0 9))
  | 0x02 => accept (low ∧ a0 ∧ hi) (.barw (fld w1 0 9))
  | 0x03 => accept low (.baset (fld w0 20 6) (fld w1 9 15) (fld w1 0 9))
  | 0x04 => accept (low ∧ hi) (.bagrp (fld w0 20 6) (fld w1 0 9))
  | 0x05 => accept (low ∧ hi) (.batst (fld w0 20 6) (fld w1 0 9))
  | _ => .error .unassignedMinor

/-- The async words without operands: FQUI, GINV, HSTOP (R145). -/
def bareAsync (major op : Nat) : Option Instr :=
  match major, op with
  | 0x39, 2 => some .fqui
  | 0x3A, 5 => some .ginv
  | 0x3C, 1 => some .hstop
  | _, _ => none

/-- The async majors (R145 to R148). -/
def decodeAsync (major w0 w1 : Nat) : Except DecodeError Instr :=
  if major = 0x3D then decodeTbl w0 w1
  else if major = 0x3E then decodeEvx w0 w1
  else if major = 0x3F then decodeBar w0 w1
  else
    match aTable major (w1 / 2 ^ 24 % 256), bareAsync major (w1 / 2 ^ 24 % 256) with
    | some f, _ => .ok (f (aOp w0 w1))
    | none, some i => accept (w0 % 2 ^ 26 = 0 ∧ w1 % 2 ^ 24 = 0) i
    | none, none => .error .unassignedMinor

/-- A C-class word pair, LDBLK or AGET: word 0 bits [1:0] are zero (R140). -/
def decodeEngine (major w0 w1 : Nat) : Except DecodeError Instr :=
  match (eTable major)[w1 / 2 ^ 24 % 256]? with
  | some f => accept (w0 % 4 = 0) (f (eOp w0 w1))
  | none => .error .unassignedMinor

/-- An L-class or S-class memory word pair (R143). -/
def decodeMemory (f : MOp → Instr) (w0 w1 : Nat) : Except DecodeError Instr :=
  if w0 % 4 = 0 then need (mOp w0 w1) f else .error .badField

/-- A scalar-class word (R136 to R139); LIW takes word 1. -/
def decodeScalar (major w0 w1 : Nat) : Except DecodeError Instr :=
  match major with
  | 0x01 => match aluTable[w0 % 64]? with | some f => need (regOp w0) f | none => .error .unassignedMinor
  | 0x06 => accept (w0 / 2 ^ 6 % 64 = 0) (.shi (fld w0 20 6) (fld w0 14 6) (ShiftKind.ofCode (fld w0 12 2)) (fld w0 0 6))
  | 0x08 => .ok (.lui (fld w0 20 6) (fld w0 0 20))
  | 0x0F => .ok (.jal (fld w0 0 26))
  | 0x11 => need (memOp w0) .ld
  | 0x12 => need (memOp w0) .ldn
  | 0x13 => need (memOp w0) .st
  | 0x14 => match atomTable[w0 % 32]? with | some f => .ok (f (atomOp w0)) | none => .error .unassignedMinor
  | 0x15 => decodeSync w0
  | 0x16 => decodeSys w0
  | 0x17 => decodeMisc w0 w1
  | m =>
    match iTable m, bTable m with
    | some f, _ => .ok (f (immOp w0))
    | none, some f => .ok (f (branchOp w0))
    | none, none => .error .reservedMajor

/-- The fields of a word pair, before the checks of the instruction's own rule. -/
def decodeRaw (w0 w1 : Nat) : Except DecodeError Instr :=
  let major := w0 / 2 ^ 26 % 64
  if major < 0x18 then decodeScalar major w0 w1
  else if 0x38 ≤ major then decodeAsync major w0 w1
  else
    match mTable major with
    | some f => decodeMemory f w0 w1
    | none => if (eTable major).isEmpty then .error .reservedMajor else decodeEngine major w0 w1

/-- The instruction of a word pair; word 1 counts only for a two-word instruction (R135, R149). -/
def decodeWords (w0 w1 : Nat) : Except DecodeError Instr :=
  match decodeRaw w0 w1 with
  | .ok i => accept i.wf i
  | .error e => .error e

/-- Decodes the instruction at the head of a list of bytes and returns the rest (R135). -/
def decode (bs : List Byte) : Except DecodeError (Instr × List Byte) :=
  match bs with
  | b0 :: b1 :: b2 :: b3 :: rest =>
    let w0 := wordOf b0 b1 b2 b3
    if isLong w0 then
      match rest with
      | c0 :: c1 :: c2 :: c3 :: rest' => (decodeWords w0 (wordOf c0 c1 c2 c3)).map (·, rest')
      | _ => .error .short
    else (decodeWords w0 0).map (·, rest)
  | _ => .error .short

/-- A word of a collective program (R150). -/
def decodeCollective (w : Nat) : Except DecodeError Instr :=
  let rop := Rop.ofCode? (w / 2 ^ 20 % 4)
  let ty := ElemType.ofCode (fld w 16 4)
  let plain := w / 2 ^ 16 % 64 = 0
  let chk (x : Except DecodeError Instr) : Except DecodeError Instr :=
    match x with | .ok i => accept i.wf i | .error e => .error e
  match w / 2 ^ 28 % 16 with
  | 0x0 => accept (plain ∧ w / 2 ^ 22 % 8 = 0) (.send (fld w 25 3) (fld w 0 16))
  | 0x1 => accept (plain ∧ w / 2 ^ 25 % 8 = 0) (.recv (fld w 22 3) (fld w 0 16))
  | 0x2 => chk (need rop fun r => .rrs (fld w 25 3) (fld w 22 3) r ty (fld w 0 16))
  | 0x3 => chk (need rop fun r => .rred (fld w 25 3) (fld w 22 3) r ty (fld w 0 16))
  | 0x4 => accept plain (.copy (fld w 25 3) (fld w 22 3) (fld w 0 16))
  | 0x5 => accept (w % 2 ^ 28 = 0) .wait
  | 0x6 => chk (accept (w / 2 ^ 16 % 1024 = 0) (.loop (fld w 26 2) (fld w 0 16)))
  | 0x7 => accept (w % 2 ^ 26 = 0) (.endl (fld w 26 2))
  | 0x8 => need (KSrc.ofCode? (w / 2 ^ 24 % 4)) fun k =>
      .peer (PeerMode.ofCode (fld w 26 2)) k (fld w 22 2) (fld w 0 22)
  | 0x9 => accept (w / 2 ^ 9 % 2 ^ 19 = 0) (.sig (fld w 0 9))
  | 0xA => .ok (.offs (fld w 25 3) (fld w 23 2) (fld w 0 23))
  | 0xB => accept (w % 2 ^ 28 = 0) .halt
  | _ => .error .unassignedMinor

/-- A word of a helper program (R151). -/
def decodeHelper (w : Nat) : Except DecodeError Instr :=
  match w / 2 ^ 28 % 16 with
  | 0x0 => accept (w % 2 ^ 14 = 0) (.hcpy (fld w 23 5) (fld w 17 6) (bitAt w 16) (fld w 14 2))
  | 0x1 => accept (w % 2 ^ 22 = 0) (.hwtag (fld w 22 6))
  | 0x2 => .ok (.hadd (fld w 26 2) (fld w 0 26))
  | 0x3 => accept (w / 2 ^ 20 % 2 ^ 8 ≠ 0) (.hloop (fld w 20 8) (fld w 0 20))
  | 0x4 => accept (w % 2 ^ 28 = 0) .hend
  | 0x5 => accept (w / 2 ^ 26 % 4 = 0) (.hflag (fld w 8 18) (fld w 0 8))
  | _ => .error .unassignedMinor

/-- The bytes of a table word: `nbits` bits of `w`, lowest first, and zeros up to the longest instruction. -/
def tableBytes (nbits w : Nat) : List Byte :=
  let v := w % 2 ^ nbits
  bytesOf v ++ bytesOf (v / 2 ^ 32)

/-- The instruction that the sequencer's decoder reads from a table word. The words of collective and helper programs
(R150, R151) are no sequencer words: `decodeCollective` and `decodeHelper` read those. -/
def decodeTableWord (nbits w : Nat) : Option Instr :=
  match decode (tableBytes nbits w) with
  | .ok (i, _) => some i
  | .error _ => none

/-! The encoder. -/

/-- Word 0 and the low 24 bits of word 1 of an E word pair (R140). -/
def EOp.word0 (major : Nat) (o : EOp) : Nat :=
  major * 2 ^ 26 + bit o.tok.wp * 2 ^ 25 + bit o.tok.wn * 2 ^ 24 + bit o.tok.sp * 2 ^ 23 + bit o.tok.sn * 2 ^ 22
  + o.d.toNat * 2 ^ 16 + o.a.toNat * 2 ^ 10 + o.b.toNat * 2 ^ 4 + o.w.toNat * 2 ^ 2

/-- Word 1 of a C-class word pair (R140). -/
def EOp.word1 (op : Nat) (o : EOp) : Nat :=
  op * 2 ^ 24 + o.ty.code.toNat * 2 ^ 20 + o.k.toNat * 2 ^ 16 + o.rm.code.toNat * 2 ^ 14 + bit o.sat * 2 ^ 13
  + bit o.alt * 2 ^ 12 + o.imm.toNat

/-- Word 0 of a memory word pair (R143). -/
def MOp.word0 (major : Nat) (o : MOp) : Nat :=
  major * 2 ^ 26 + bit o.tok.wp * 2 ^ 25 + bit o.tok.wn * 2 ^ 24 + bit o.tok.sp * 2 ^ 23 + bit o.tok.sn * 2 ^ 22
  + o.d.toNat * 2 ^ 16 + o.a.toNat * 2 ^ 10 + o.b.toNat * 2 ^ 4 + o.w.toNat * 2 ^ 2

/-- Word 1 of a memory word pair (R143). -/
def MOp.word1 (o : MOp) : Nat :=
  o.scope.code.toNat * 2 ^ 29 + o.ord.code.toNat * 2 ^ 27 + o.space.code.toNat * 2 ^ 24 + o.ty.code.toNat * 2 ^ 20
  + o.k.toNat * 2 ^ 16 + bit o.re * 2 ^ 15 + o.rbn.toNat * 2 ^ 12 + o.imm.toNat

/-- Word 0 of an async word pair (R145). -/
def AOp.word0 (major : Nat) (o : AOp) : Nat :=
  major * 2 ^ 26 + o.a.toNat * 2 ^ 20 + o.b.toNat * 2 ^ 14 + o.c.toNat * 2 ^ 8 + o.w.toNat * 2 ^ 6 + o.id.toNat

/-- Word 1 of an async word pair (R145). -/
def AOp.word1 (op : Nat) (o : AOp) : Nat := op * 2 ^ 24 + o.imm.toNat

/-- An ALU word (R136). -/
def RegOp.word (fn : Nat) (o : RegOp) : Nat :=
  0x01 * 2 ^ 26 + o.d.toNat * 2 ^ 20 + o.a.toNat * 2 ^ 14 + o.b.toNat * 2 ^ 8 + bit o.w32 * 2 ^ 6 + fn

/-- An SI word (R136). -/
def ImmOp.word (major : Nat) (o : ImmOp) : Nat :=
  major * 2 ^ 26 + o.d.toNat * 2 ^ 20 + o.a.toNat * 2 ^ 14 + o.imm.toNat

/-- An SB word (R136). -/
def BranchOp.word (major : Nat) (o : BranchOp) : Nat :=
  major * 2 ^ 26 + o.a.toNat * 2 ^ 20 + o.b.toNat * 2 ^ 14 + o.off.toNat

/-- The scope field of an SM word (R137). -/
def Place.code : Place → Nat
  | .global s => s.code.toNat
  | .scratch => 6

/-- An SM word (R136). -/
def MemOp.word (major : Nat) (o : MemOp) : Nat :=
  major * 2 ^ 26 + o.d.toNat * 2 ^ 20 + o.base.toNat * 2 ^ 14 + o.place.code * 2 ^ 11 + o.ord.code.toNat * 2 ^ 9
  + o.size.code.toNat * 2 ^ 6 + o.off.toNat

/-- An ATOM word (R136, R137). -/
def AtomOp.word (fn : Nat) (o : AtomOp) : Nat :=
  0x14 * 2 ^ 26 + o.d.toNat * 2 ^ 20 + o.a.toNat * 2 ^ 14 + o.b.toNat * 2 ^ 8 + bit o.scratch * 2 ^ 7
  + bit o.w32 * 2 ^ 6 + bit o.nr * 2 ^ 5 + fn

/-- An SR word of SYNC or MISC (R139, R176). -/
def srWord (major d a b fn : Nat) : Nat := major * 2 ^ 26 + d * 2 ^ 20 + a * 2 ^ 14 + b * 2 ^ 8 + fn

/-- An SX word (R138). -/
def sxWord (r n fn : Nat) : Nat := 0x16 * 2 ^ 26 + r * 2 ^ 20 + n * 2 ^ 8 + fn

/-- A transfer word of a collective program (R150). -/
def transferWord (op sa sb rop ty len : Nat) : Nat :=
  op * 2 ^ 28 + sa * 2 ^ 25 + sb * 2 ^ 22 + rop * 2 ^ 20 + ty * 2 ^ 16 + len

/-- A BAR word pair (R145). -/
def barWords (a op target n : Nat) : List Nat := [0x3F * 2 ^ 26 + a * 2 ^ 20, op * 2 ^ 24 + target * 2 ^ 9 + n]

/-- The words of an instruction that has an encoding, from the tables of R136 to R151. The events of the device have
none. -/
def encode (i : Instr) : Option (List Nat) :=
  match i with
  | .add o => some [o.word 0x00]
  | .sub o => some [o.word 0x01]
  | .and o => some [o.word 0x02]
  | .or o => some [o.word 0x03]
  | .xor o => some [o.word 0x04]
  | .andn o => some [o.word 0x05]
  | .sll o => some [o.word 0x06]
  | .srl o => some [o.word 0x07]
  | .sra o => some [o.word 0x08]
  | .rol o => some [o.word 0x09]
  | .ror o => some [o.word 0x0A]
  | .mul o => some [o.word 0x0B]
  | .mulh o => some [o.word 0x0C]
  | .mulhn o => some [o.word 0x0D]
  | .div o => some [o.word 0x0E]
  | .divn o => some [o.word 0x0F]
  | .rem o => some [o.word 0x10]
  | .remn o => some [o.word 0x11]
  | .min o => some [o.word 0x12]
  | .max o => some [o.word 0x13]
  | .minn o => some [o.word 0x14]
  | .maxn o => some [o.word 0x15]
  | .slt o => some [o.word 0x16]
  | .sltn o => some [o.word 0x17]
  | .seq o => some [o.word 0x18]
  | .clz o => some [o.word 0x19]
  | .ctz o => some [o.word 0x1A]
  | .popc o => some [o.word 0x1B]
  | .ext o => some [o.word 0x1C]
  | .ins o => some [o.word 0x1D]
  | .sel o => some [o.word 0x1E]
  | .bswp o => some [o.word 0x1F]
  | .addi o => some [o.word 0x02]
  | .andi o => some [o.word 0x03]
  | .ori o => some [o.word 0x04]
  | .xori o => some [o.word 0x05]
  | .slti o => some [o.word 0x07]
  | .jalr o => some [o.word 0x10]
  | .shi d a k n => some [0x06 * 2 ^ 26 + d.toNat * 2 ^ 20 + a.toNat * 2 ^ 14 + k.code.toNat * 2 ^ 12 + n.toNat]
  | .lui d v => some [0x08 * 2 ^ 26 + d.toNat * 2 ^ 20 + v.toNat]
  | .liw d v => some [srWord 0x17 d.toNat 0 0 0, v.toNat]
  | .beq o => some [o.word 0x09]
  | .bne o => some [o.word 0x0A]
  | .blt o => some [o.word 0x0B]
  | .bge o => some [o.word 0x0C]
  | .bltn o => some [o.word 0x0D]
  | .bgen o => some [o.word 0x0E]
  | .jal off => some [0x0F * 2 ^ 26 + off.toNat]
  | .ld o => some [o.word 0x11]
  | .ldn o => some [o.word 0x12]
  | .st o => some [o.word 0x13]
  | .aadd o => some [o.word 0x00]
  | .asub o => some [o.word 0x01]
  | .aand o => some [o.word 0x02]
  | .aor o => some [o.word 0x03]
  | .axor o => some [o.word 0x04]
  | .amin o => some [o.word 0x05]
  | .amax o => some [o.word 0x06]
  | .aminn o => some [o.word 0x07]
  | .amaxn o => some [o.word 0x08]
  | .aswp o => some [o.word 0x09]
  | .acas o => some [o.word 0x0A]
  | .ainc o => some [o.word 0x0B]
  | .adec o => some [o.word 0x0C]
  | .afadd o => some [o.word 0x0D]
  | .afmin o => some [o.word 0x0E]
  | .afmax o => some [o.word 0x0F]
  | .fence s => some [srWord 0x15 0 0 s.code.toNat 0x00]
  | .pub s => some [srWord 0x15 0 0 s.code.toNat 0x01]
  | .opn s => some [srWord 0x15 0 0 s.code.toNat 0x02]
  | .phase l => some [srWord 0x15 0 0 (l.toNat + 1) 0x03]
  | .waita d a b => some [srWord 0x15 d.toNat a.toNat b.toNat 0x04]
  | .waitt a => some [srWord 0x15 0 a.toNat 0 0x05]
  | .twany a => some [srWord 0x15 0 a.toNat 0 0x06]
  | .twall a => some [srWord 0x15 0 a.toNat 0 0x07]
  | .tffr d a => some [srWord 0x15 d.toNat a.toNat 0 0x08]
  | .sqwait q => some [srWord 0x15 0 0 q.code.toNat 0x09]
  | .roinv => some [srWord 0x15 0 0 0 0x0A]
  | .disc a => some [srWord 0x15 0 a.toNat 0 0x0B]
  | .agets d => some [srWord 0x15 d.toNat 0 0 0x0C]
  | .trap n => some [sxWord 0 n.toNat 0x00]
  | .eret => some [sxWord 0 0 0x01]
  | .srd r n => some [sxWord r.toNat n.toNat 0x02]
  | .swr r n => some [sxWord r.toNat n.toNat 0x03]
  | .brk n => some [sxWord 0 n.toNat 0x04]
  | .exit => some [sxWord 0 0 0x05]
  | .tail => some [sxWord 0 0 0x06]
  | .fmtpush a => some [srWord 0x17 0 a.toNat 0 0x01]
  | .mapld m a => some [srWord 0x17 m.toNat a.toNat 0 0x02]
  | .mapst m a => some [srWord 0x17 m.toNat a.toNat 0 0x03]
  | .tdld a => some [srWord 0x17 0 a.toNat 0 0x04]
  | .mcset a b => some [srWord 0x17 0 a.toNat b.toNat 0x05]
  | .mcqui a => some [srWord 0x17 0 a.toNat 0 0x06]
  | .mslot a b => some [srWord 0x17 0 a.toNat b.toNat 0x07]
  | .vld o => some [o.word0 0x18, o.word1]
  | .vlds o => some [o.word0 0x19, o.word1]
  | .vgath o => some [o.word0 0x1A, o.word1]
  | .tld o => some [o.word0 0x1B, o.word1]
  | .vldro o => some [o.word0 0x1E, o.word1]
  | .vst o => some [o.word0 0x30, o.word1]
  | .vsts o => some [o.word0 0x31, o.word1]
  | .vscat o => some [o.word0 0x32, o.word1]
  | .tst o => some [o.word0 0x33, o.word1]
  | .tacc o => some [o.word0 0x34, o.word1]
  | .vrdm o => some [o.word0 0x35, o.word1]
  | .vatom o => some [o.word0 0x36, o.word1]
  | .ldblk o => some [o.word0 0x1C, o.word1 0x00]
  | .aget o => some [o.word0 0x1D, o.word1 0x00]
  | .vadd o => some [o.word0 0x20, o.word1 0x00]
  | .vsub o => some [o.word0 0x20, o.word1 0x01]
  | .vmul o => some [o.word0 0x20, o.word1 0x02]
  | .vmulh o => some [o.word0 0x20, o.word1 0x03]
  | .vmin o => some [o.word0 0x20, o.word1 0x04]
  | .vmax o => some [o.word0 0x20, o.word1 0x05]
  | .vand o => some [o.word0 0x20, o.word1 0x06]
  | .vor o => some [o.word0 0x20, o.word1 0x07]
  | .vxor o => some [o.word0 0x20, o.word1 0x08]
  | .vandn o => some [o.word0 0x20, o.word1 0x09]
  | .vshl o => some [o.word0 0x20, o.word1 0x0A]
  | .vshr o => some [o.word0 0x20, o.word1 0x0B]
  | .vshra o => some [o.word0 0x20, o.word1 0x0C]
  | .vabs o => some [o.word0 0x20, o.word1 0x0D]
  | .vneg o => some [o.word0 0x20, o.word1 0x0E]
  | .vadds o => some [o.word0 0x20, o.word1 0x0F]
  | .vsubs o => some [o.word0 0x20, o.word1 0x10]
  | .vavg o => some [o.word0 0x20, o.word1 0x11]
  | .vclz o => some [o.word0 0x20, o.word1 0x12]
  | .vpopc o => some [o.word0 0x20, o.word1 0x13]
  | .vsel o => some [o.word0 0x20, o.word1 0x14]
  | .viota o => some [o.word0 0x20, o.word1 0x15]
  | .vfadd o => some [o.word0 0x21, o.word1 0x00]
  | .vfsub o => some [o.word0 0x21, o.word1 0x01]
  | .vfmul o => some [o.word0 0x21, o.word1 0x02]
  | .vfmin o => some [o.word0 0x21, o.word1 0x03]
  | .vfmax o => some [o.word0 0x21, o.word1 0x04]
  | .vfabs o => some [o.word0 0x21, o.word1 0x05]
  | .vfneg o => some [o.word0 0x21, o.word1 0x06]
  | .vfdiv o => some [o.word0 0x21, o.word1 0x07]
  | .vfsqrt o => some [o.word0 0x21, o.word1 0x08]
  | .vfrnd o => some [o.word0 0x21, o.word1 0x09]
  | .vfma o => some [o.word0 0x22, o.word1 0x00]
  | .vfms o => some [o.word0 0x22, o.word1 0x01]
  | .vfnma o => some [o.word0 0x22, o.word1 0x02]
  | .vfnms o => some [o.word0 0x22, o.word1 0x03]
  | .vcmp o => some [o.word0 0x23, o.word1 0x00]
  | .kand o => some [o.word0 0x23, o.word1 0x01]
  | .kor o => some [o.word0 0x23, o.word1 0x02]
  | .kxor o => some [o.word0 0x23, o.word1 0x03]
  | .knot o => some [o.word0 0x23, o.word1 0x04]
  | .kpopc o => some [o.word0 0x23, o.word1 0x05]
  | .kffs o => some [o.word0 0x23, o.word1 0x06]
  | .kmov o => some [o.word0 0x23, o.word1 0x07]
  | .kset o => some [o.word0 0x23, o.word1 0x08]
  | .vperm o => some [o.word0 0x24, o.word1 0x00]
  | .vshuf o => some [o.word0 0x24, o.word1 0x01]
  | .vslide o => some [o.word0 0x24, o.word1 0x02]
  | .vbcast o => some [o.word0 0x24, o.word1 0x03]
  | .vzip o => some [o.word0 0x24, o.word1 0x04]
  | .vunzip o => some [o.word0 0x24, o.word1 0x05]
  | .vtrn o => some [o.word0 0x24, o.word1 0x06]
  | .vcmpr o => some [o.word0 0x24, o.word1 0x07]
  | .vexpd o => some [o.word0 0x24, o.word1 0x08]
  | .vrsum o => some [o.word0 0x25, o.word1 0x00]
  | .vrmax o => some [o.word0 0x25, o.word1 0x01]
  | .vrmin o => some [o.word0 0x25, o.word1 0x02]
  | .vrand o => some [o.word0 0x25, o.word1 0x03]
  | .vror o => some [o.word0 0x25, o.word1 0x04]
  | .vpsum o => some [o.word0 0x25, o.word1 0x05]
  | .vcvt o => some [o.word0 0x26, o.word1 0x00]
  | .vqnt o => some [o.word0 0x26, o.word1 0x01]
  | .vdqnt o => some [o.word0 0x26, o.word1 0x02]
  | .vcbx o => some [o.word0 0x26, o.word1 0x03]
  | .vpack o => some [o.word0 0x26, o.word1 0x04]
  | .vunpk o => some [o.word0 0x26, o.word1 0x05]
  | .vsit o => some [o.word0 0x27, o.word1 0x00]
  | .vsitc o => some [o.word0 0x27, o.word1 0x01]
  | .vdrain o => some [o.word0 0x27, o.word1 0x02]
  | .vsitclr o => some [o.word0 0x27, o.word1 0x03]
  | .mldb o => some [o.word0 0x28, o.word1 0x00]
  | .mma o => some [o.word0 0x28, o.word1 0x01]
  | .mzero o => some [o.word0 0x28, o.word1 0x02]
  | .mlease o => some [o.word0 0x29, o.word1 0x00]
  | .mrel o => some [o.word0 0x29, o.word1 0x01]
  | .gemvh o => some [o.word0 0x2A, o.word1 0x00]
  | .rlopen o => some [o.word0 0x2B, o.word1 0x00]
  | .rlrec o => some [o.word0 0x2B, o.word1 0x01]
  | .rlbr o => some [o.word0 0x2B, o.word1 0x02]
  | .rlmark o => some [o.word0 0x2B, o.word1 0x03]
  | .rlseal o => some [o.word0 0x2B, o.word1 0x04]
  | .rlrev o => some [o.word0 0x2B, o.word1 0x05]
  | .rlpop o => some [o.word0 0x2B, o.word1 0x06]
  | .rlbrp o => some [o.word0 0x2B, o.word1 0x07]
  | .rlchk o => some [o.word0 0x2B, o.word1 0x08]
  | .rlstat o => some [o.word0 0x2B, o.word1 0x09]
  | .rlclose o => some [o.word0 0x2B, o.word1 0x0A]
  | .vmov o => some [o.word0 0x2C, o.word1 0x00]
  | .vins o => some [o.word0 0x2C, o.word1 0x01]
  | .vext o => some [o.word0 0x2C, o.word1 0x02]
  | .vli o => some [o.word0 0x2C, o.word1 0x03]
  | .vexp2 o => some [o.word0 0x2D, o.word1 0x00]
  | .vlog2 o => some [o.word0 0x2D, o.word1 0x01]
  | .vrcp o => some [o.word0 0x2D, o.word1 0x02]
  | .vrsq o => some [o.word0 0x2D, o.word1 0x03]
  | .cpy o => some [o.word0 0x38, o.word1 0x00]
  | .fload o => some [o.word0 0x39, o.word1 0x00]
  | .fst o => some [o.word0 0x39, o.word1 0x01]
  | .crun o => some [o.word0 0x3A, o.word1 0x00]
  | .gjoin o => some [o.word0 0x3A, o.word1 0x01]
  | .gleave o => some [o.word0 0x3A, o.word1 0x02]
  | .gprop o => some [o.word0 0x3A, o.word1 0x03]
  | .gver o => some [o.word0 0x3A, o.word1 0x04]
  | .rshd o => some [o.word0 0x3B, o.word1 0x00]
  | .rshq o => some [o.word0 0x3B, o.word1 0x01]
  | .hseq o => some [o.word0 0x3C, o.word1 0x00]
  | .fqui => some [0x39 * 2 ^ 26, 0x02 * 2 ^ 24]
  | .ginv => some [0x3A * 2 ^ 26, 0x05 * 2 ^ 24]
  | .hstop => some [0x3C * 2 ^ 26, 0x01 * 2 ^ 24]
  | .tblrun a len cnt off q =>
    some [0x3D * 2 ^ 26 + a.toNat * 2 ^ 20 + len.toNat * 2 ^ 8 + cnt.toNat, q.code.toNat * 2 ^ 17 + off.toNat]
  | .tblstop q => some [0x3D * 2 ^ 26, 0x01 * 2 ^ 24 + q.code.toNat * 2 ^ 17]
  | .tblbase a n q => some [0x3D * 2 ^ 26 + a.toNat * 2 ^ 20 + n.toNat, 0x02 * 2 ^ 24 + q.code.toNat * 2 ^ 17]
  | .evcfg a t => some [0x3E * 2 ^ 26 + a.toNat * 2 ^ 20 + 2 ^ 6 + t.toNat, 0]
  | .evarm t => some [0x3E * 2 ^ 26 + t.toNat, 0x01 * 2 ^ 24]
  | .evoff t => some [0x3E * 2 ^ 26 + t.toNat, 0x02 * 2 ^ 24]
  | .barv n => some (barWords 0 0 0 n.toNat)
  | .bawt n => some (barWords 0 1 0 n.toNat)
  | .barw n => some (barWords 0 2 0 n.toNat)
  | .baset a t n => some (barWords a.toNat 3 t.toNat n.toNat)
  | .bagrp a n => some (barWords a.toNat 4 0 n.toNat)
  | .batst a n => some (barWords a.toNat 5 0 n.toNat)
  | .send sa len => some [transferWord 0x0 sa.toNat 0 0 0 len.toNat]
  | .recv sb len => some [transferWord 0x1 0 sb.toNat 0 0 len.toNat]
  | .rrs sa sb r t len => some [transferWord 0x2 sa.toNat sb.toNat r.code.toNat t.code.toNat len.toNat]
  | .rred sa sb r t len => some [transferWord 0x3 sa.toNat sb.toNat r.code.toNat t.code.toNat len.toNat]
  | .copy sa sb len => some [transferWord 0x4 sa.toNat sb.toNat 0 0 len.toNat]
  | .wait => some [0x5 * 2 ^ 28]
  | .loop n cnt => some [0x6 * 2 ^ 28 + n.toNat * 2 ^ 26 + cnt.toNat]
  | .endl n => some [0x7 * 2 ^ 28 + n.toNat * 2 ^ 26]
  | .peer m k n v =>
    some [0x8 * 2 ^ 28 + m.code.toNat * 2 ^ 26 + k.code.toNat * 2 ^ 24 + n.toNat * 2 ^ 22 + v.toNat]
  | .sig b => some [0x9 * 2 ^ 28 + b.toNat]
  | .offs s n st => some [0xA * 2 ^ 28 + s.toNat * 2 ^ 25 + n.toNat * 2 ^ 23 + st.toNat]
  | .halt => some [0xB * 2 ^ 28]
  | .hcpy t g e r => some [t.toNat * 2 ^ 23 + g.toNat * 2 ^ 17 + bit e * 2 ^ 16 + r.toNat * 2 ^ 14]
  | .hwtag g => some [0x1 * 2 ^ 28 + g.toNat * 2 ^ 22]
  | .hadd r v => some [0x2 * 2 ^ 28 + r.toNat * 2 ^ 26 + v.toNat]
  | .hloop b cnt => some [0x3 * 2 ^ 28 + b.toNat * 2 ^ 20 + cnt.toNat]
  | .hend => some [0x4 * 2 ^ 28]
  | .hflag off v => some [0x5 * 2 ^ 28 + off.toNat * 2 ^ 8 + v.toNat]
  | _ => none

/-- The bytes of an instruction's words, lowest address first. -/
def encodeBytes (i : Instr) : Option (List Byte) := (encode i).map fun ws => ws.flatMap bytesOf

end Sys2Proof
end

