-- ==== Sys2Proof/Machine/Flags.lean ====
section
/-! DEFINITION. Number formats, rounding and the FPSTAT flags (R118 to R134): floats as exact values, one rounding
function, integer clamps, block scales and codebooks, and the Philox words of stochastic rounding (R124). -/

namespace Sys2Proof.Machine

/-- The FPSTAT bits (R125). -/
abbrev Flags := BitVec 6

def Flags.nv : Flags := 1
def Flags.dz : Flags := 2
def Flags.of : Flags := 4
def Flags.uf : Flags := 8
def Flags.nx : Flags := 16
def Flags.sat : Flags := 32

/-- The layout and limits of a float type (R120): exponent and fraction bits, bias, the greatest exponent of a finite
value, the greatest significand at that exponent, and whether the type has infinities. -/
structure FloatFmt where
  ew   : Nat
  fw   : Nat
  bias : Nat
  emax : Nat
  mmax : Nat
  inf  : Bool

/-- The float layouts (R120); integers and codebooks answer f32, which is never read for them. -/
def fmtOf : ElemType → FloatFmt
  | .bf16 => ⟨8, 7, 127, 127, 255, true⟩
  | .f16  => ⟨5, 10, 15, 15, 2047, true⟩
  | .e4m3 => ⟨4, 3, 7, 8, 14, false⟩
  | .e5m2 => ⟨5, 2, 15, 15, 7, true⟩
  | .e2m1 => ⟨2, 1, 1, 2, 3, false⟩
  | _     => ⟨8, 23, 127, 127, 2 ^ 24 - 1, true⟩

/-- A float value: a NaN, an infinity, or (-1)^neg * m * 2^e. -/
inductive FVal where
  | nan
  | inf (neg : Bool)
  | fin (neg : Bool) (m : Nat) (e : Int)
  deriving DecidableEq, Repr

/-- A result before rounding: as FVal, with a mark that a positive part below m's last bit was dropped. -/
inductive Exact where
  | nan
  | inf (neg : Bool)
  | num (neg : Bool) (m : Nat) (e : Int) (sticky : Bool)
  deriving DecidableEq, Repr

/-- How a result is rounded: mode, sat bit, and the random 16 bits that rsr takes (R122 to R124). -/
structure RoundCtl where
  rm  : Rounding
  sat : Bool
  rnd : Nat

/-- Round to nearest even, no saturation. -/
def RoundCtl.rne : RoundCtl := ⟨.rne, false, 0⟩

/-- The canonical NaN of a float type (R120). -/
def canonNaN : ElemType → Nat
  | .bf16 => 0x7FC0 | .f16 => 0x7E00 | .e4m3 => 0x7F | .e5m2 => 0x7E | .e2m1 => 0 | _ => 0x7FC00000

/-- Reads a code of a float type (R120, R121). -/
def unpackFloat (t : ElemType) (w : Nat) : FVal :=
  let f := fmtOf t
  let neg := w / 2 ^ (f.ew + f.fw) % 2 = 1
  let ex := w / 2 ^ f.fw % 2 ^ f.ew
  let fr := w % 2 ^ f.fw
  if f.inf ∧ ex = 2 ^ f.ew - 1 then (if fr = 0 then .inf neg else .nan)
  else if t = .e4m3 ∧ ex = 15 ∧ fr = 7 then .nan
  else if ex = 0 then .fin neg fr (1 - (f.bias : Int) - f.fw)
  else .fin neg (2 ^ f.fw + fr) ((ex : Int) - f.bias - f.fw)

/-- Rounds m * 2^e (and a sticky part) to a whole number of units 2^q: the units and whether the value was inexact
(R122, R124). -/
def roundUnits (c : RoundCtl) (m : Nat) (e q : Int) (sticky : Bool) : Nat × Bool :=
  if q ≤ e then
    let t := m * 2 ^ (e - q).toNat
    (t, sticky)
  else
    let k := (q - e).toNat
    let t := m / 2 ^ k
    let r := m % 2 ^ k
    let half := 2 ^ (k - 1)
    let up : Bool :=
      match c.rm with
      | .rtz => false
      | .rne => r > half ∨ (r = half ∧ (sticky ∨ t % 2 = 1))
      | .rna => r ≥ half
      | .rsr => r * 2 ^ 16 / 2 ^ k + c.rnd ≥ 2 ^ 16
    (if up then t + 1 else t, r ≠ 0 ∨ sticky)

/-- The code of a finite magnitude `t` units of 2^q, with t below 2^(fw+1) or equal to it. -/
def packUnits (f : FloatFmt) (neg : Bool) (t : Nat) (q : Int) : Nat :=
  let (t, q) := if t = 2 ^ (f.fw + 1) then (2 ^ f.fw, q + 1) else (t, q)
  let s := if neg then 2 ^ (f.ew + f.fw) else 0
  if t < 2 ^ f.fw then s + t
  else s + ((q + f.fw + f.bias).toNat * 2 ^ f.fw + (t - 2 ^ f.fw))

/-- The code of the largest finite value (R120). -/
def maxFinite (f : FloatFmt) (neg : Bool) : Nat := packUnits f neg f.mmax ((f.emax : Int) - f.fw)

/-- The code of an infinity. -/
def infCode (f : FloatFmt) (neg : Bool) : Nat :=
  (if neg then 2 ^ (f.ew + f.fw) else 0) + (2 ^ f.ew - 1) * 2 ^ f.fw

/-- What an overflow delivers, with its flags (R123). -/
def overflow (t : ElemType) (c : RoundCtl) (neg : Bool) : Nat × Flags :=
  let f := fmtOf t
  let base := Flags.of ||| Flags.nx
  if t = .e2m1 then (maxFinite f neg, base ||| Flags.sat)
  else if c.sat then (maxFinite f neg, base ||| Flags.sat)
  else if c.rm = .rtz then (maxFinite f neg, base)
  else if t = .e4m3 then (canonNaN t, base)
  else (infCode f neg, base)

/-- What an exactly infinite result delivers, with its flags (R123). -/
def exactInf (t : ElemType) (c : RoundCtl) (neg : Bool) : Nat × Flags :=
  let f := fmtOf t
  if t = .e2m1 ∨ c.sat then (maxFinite f neg, Flags.sat ||| Flags.nx)
  else if t = .e4m3 then (canonNaN t, Flags.nv)
  else (infCode f neg, 0)

/-- Rounds a result once to a float type (R121 to R125): its code and the flags of the rounding. -/
def deliver (t : ElemType) (c : RoundCtl) (x : Exact) : Nat × Flags :=
  let f := fmtOf t
  match x with
  | .nan => (canonNaN t, 0)
  | .inf neg => exactInf t c neg
  | .num neg m e sticky =>
    if m = 0 ∧ !sticky then (if neg then 2 ^ (f.ew + f.fw) else 0, 0)
    else
      let ex : Int := e + (Nat.log2 m : Nat)
      let emin : Int := 1 - (f.bias : Int)
      let q := max ex emin - f.fw
      let (u, inexact) := roundUnits c m e q sticky
      let big : Bool := q > (f.emax : Int) - f.fw ∨ (q = (f.emax : Int) - f.fw ∧ u > f.mmax)
      if big then overflow t c neg
      else
        let (v, _) := roundUnits c m e (ex - f.fw) sticky
        let tiny : Bool := ex < emin ∧ ¬ (ex + 1 = emin ∧ v = 2 ^ (f.fw + 1))
        (packUnits f neg u q,
         (if inexact then Flags.nx else 0) ||| (if inexact ∧ tiny then Flags.uf else 0))

/-- The value of a finite operand as an exact result. -/
def FVal.toExact : FVal → Exact
  | .nan => .nan
  | .inf n => .inf n
  | .fin n m e => .num n m e false

/-- The negated value. -/
def FVal.neg : FVal → FVal
  | .nan => .nan
  | .inf n => .inf (!n)
  | .fin n m e => .fin (!n) m e

/-- The magnitude. -/
def FVal.abs : FVal → FVal
  | .nan => .nan
  | .inf _ => .inf false
  | .fin _ m e => .fin false m e

/-- The value is a zero of either sign. -/
def FVal.isZero : FVal → Bool
  | .fin _ 0 _ => true
  | _ => false

/-- Signed integer of a sign and magnitude. -/
def signed (neg : Bool) (m : Nat) : Int := if neg then -(m : Int) else m

/-- Exact sum of two finite values; the zero of x + (-x) is +0, and -0 + -0 is -0 (R122). -/
def addFinite (n1 : Bool) (m1 : Nat) (e1 : Int) (n2 : Bool) (m2 : Nat) (e2 : Int) : FVal :=
  let e := min e1 e2
  let v := signed n1 (m1 * 2 ^ (e1 - e).toNat) + signed n2 (m2 * 2 ^ (e2 - e).toNat)
  if v = 0 then .fin (n1 && n2) 0 e else .fin (v < 0) v.natAbs e

/-- Exact sum with the invalid flag of ∞ − ∞ (R121, R125). -/
def fAdd (x y : FVal) : FVal × Flags :=
  match x, y with
  | .nan, _ | _, .nan => (.nan, 0)
  | .inf a, .inf b => if a = b then (.inf a, 0) else (.nan, Flags.nv)
  | .inf a, _ => (.inf a, 0)
  | _, .inf b => (.inf b, 0)
  | .fin n1 m1 e1, .fin n2 m2 e2 => (addFinite n1 m1 e1 n2 m2 e2, 0)

/-- Exact product with the invalid flag of 0 × ∞. -/
def fMul (x y : FVal) : FVal × Flags :=
  match x, y with
  | .nan, _ | _, .nan => (.nan, 0)
  | .inf a, .inf b => (.inf (a != b), 0)
  | .inf a, .fin b m _ => if m = 0 then (.nan, Flags.nv) else (.inf (a != b), 0)
  | .fin a m _, .inf b => if m = 0 then (.nan, Flags.nv) else (.inf (a != b), 0)
  | .fin n1 m1 e1, .fin n2 m2 e2 => (.fin (n1 != n2) (m1 * m2) (e1 + e2), 0)

/-- x * y + z, exact: the product's flags count only when no operand is a NaN. -/
def fFma (x y z : FVal) : FVal × Flags :=
  let (p, f1) := fMul x y
  if p = .nan then (.nan, f1) else
  let (r, f2) := fAdd p z
  (r, f1 ||| f2)

/-- Quotient to 80 bits below the divisor's scale with the rest as sticky, and its flags: 0 ÷ 0 and ∞ ÷ ∞ are invalid,
a finite non-zero value divided by zero sets DZ (R125). -/
def fDiv (x y : FVal) : Exact × Flags :=
  match x, y with
  | .nan, _ | _, .nan => (.nan, 0)
  | .inf _, .inf _ => (.nan, Flags.nv)
  | .inf a, .fin b _ _ => (.inf (a != b), 0)
  | .fin a _ _, .inf b => (.num (a != b) 0 0 false, 0)
  | .fin n1 m1 e1, .fin n2 m2 e2 =>
    if m2 = 0 then (if m1 = 0 then (.nan, Flags.nv) else (.inf (n1 != n2), Flags.dz))
    else
      let a := m1 * 2 ^ 80
      (.num (n1 != n2) (a / m2) (e1 - e2 - 80) (a % m2 ≠ 0), 0)

/-- Whole square root by bisection on bits: the greatest r with r * r ≤ n, for n below 4^k. -/
def isqrt (n : Nat) : Nat → Nat
  | 0 => 0
  | k + 1 =>
    let r := 2 * isqrt (n / 4) k
    if (r + 1) * (r + 1) ≤ n then r + 1 else r

/-- Square root with the rest as sticky; a negative non-zero value is invalid, and −0 gives −0 (R125). -/
def fSqrt (x : FVal) : Exact × Flags :=
  match x with
  | .nan => (.nan, 0)
  | .inf n => if n then (.nan, Flags.nv) else (.inf false, 0)
  | .fin n m e =>
    if m = 0 then (.num n 0 0 false, 0)
    else if n then (.nan, Flags.nv)
    else
      let (m, e) := if e % 2 = 0 then (m, e) else (2 * m, e - 1)
      let a := m * 2 ^ 80
      let r := isqrt a 64
      (.num false r (e / 2 - 40) (r * r ≠ a), 0)

/-- −1, 0 or 1 as x < y, x = y or x > y, zeros of both signs equal; none when either is a NaN. -/
def fCmp (x y : FVal) : Option Int :=
  match x, y with
  | .nan, _ | _, .nan => none
  | .inf a, .inf b => some (if a = b then 0 else if a then -1 else 1)
  | .inf a, _ => some (if a then -1 else 1)
  | _, .inf b => some (if b then 1 else -1)
  | .fin n1 m1 e1, .fin n2 m2 e2 =>
    let e := min e1 e2
    let d := signed n1 (m1 * 2 ^ (e1 - e).toNat) - signed n2 (m2 * 2 ^ (e2 - e).toNat)
    some d.sign

/-- The sign of a value; NaN counts as positive. -/
def FVal.sgn : FVal → Bool
  | .nan => false
  | .inf n => n
  | .fin n _ _ => n

/-- Strictly below, with −0 below +0 (R161, R190). -/
def fLess (x y : FVal) : Bool :=
  match fCmp x y with
  | none => false
  | some d => d < 0 ∨ (d = 0 ∧ x.sgn ∧ !y.sgn)

/-- Rounds an exact FVal to a type. -/
def deliverVal (t : ElemType) (c : RoundCtl) (x : FVal) : Nat × Flags := deliver t c x.toExact

/-- RoundNE of a value to f32 with sat clear, flags dropped (R134, R161). -/
def roundF32 (x : FVal) : Nat := (deliverVal .f32 .rne x).1

/-- The whole part of a rational m * 2^e rounded to an integer by the mode, and whether it was inexact. -/
def roundInt (c : RoundCtl) (neg : Bool) (m : Nat) (e : Int) : Int × Bool :=
  let (u, ix) := roundUnits c m e 0 false
  (signed neg u, ix)

/-- The least value of an integer type. -/
def intMin (t : ElemType) : Int := if t.isSigned then -(2 ^ (t.bits - 1) : Nat) else 0

/-- The greatest value of an integer type. -/
def intMax (t : ElemType) : Int := if t.isSigned then (2 ^ (t.bits - 1) : Nat) - 1 else (2 ^ t.bits : Nat) - 1

/-- Reads a code of an integer type. -/
def unpackInt (t : ElemType) (w : Nat) : Int :=
  let w := w % 2 ^ t.bits
  if t.isSigned ∧ 2 ^ (t.bits - 1) ≤ w then (w : Int) - (2 ^ t.bits : Nat) else w

/-- The code of an integer, wrapped to the type. -/
def packInt (t : ElemType) (v : Int) : Nat := (v % ((2 ^ t.bits : Nat) : Int)).toNat

/-- Sat(v, type), with the SAT flag when it clamps (R126). -/
def satInt (t : ElemType) (v : Int) : Nat × Flags :=
  if v < intMin t then (packInt t (intMin t), Flags.sat)
  else if intMax t < v then (packInt t (intMax t), Flags.sat)
  else (packInt t v, 0)

/-- An integer result: wrapped, or clamped under sat (R126). -/
def deliverInt (t : ElemType) (sat : Bool) (v : Int) : Nat × Flags :=
  if sat then satInt t v else (packInt t v, 0)

/-- Float to integer (R126): a NaN gives 0 and an out-of-range value the nearer bound, both with NV; sat is ignored. Whether a
value is out of range is tested after its rounding, and NX does not go with NV (DESIGN CHOICE, log entry 49). -/
def floatToInt (t : ElemType) (c : RoundCtl) (x : FVal) : Nat × Flags :=
  match x with
  | .nan => (0, Flags.nv)
  | .inf n => (packInt t (if n then intMin t else intMax t), Flags.nv)
  | .fin n m e =>
    let (v, ix) := roundInt c n m e
    if v < intMin t then (packInt t (intMin t), Flags.nv)
    else if intMax t < v then (packInt t (intMax t), Flags.nv)
    else (packInt t v, if ix then Flags.nx else 0)

/-- A number of any element type as a value: integers are exact. -/
def readNum (t : ElemType) (w : Nat) : FVal :=
  if t.isInt then
    let v := unpackInt t w
    .fin (v < 0) v.natAbs 0
  else unpackFloat t w

/-- Conversion of one element (R126). -/
def convert (dst src : ElemType) (c : RoundCtl) (w : Nat) : Nat × Flags :=
  if src.isInt then
    if dst.isInt then deliverInt dst c.sat (unpackInt src w)
    else deliverVal dst c (readNum src w)
  else if dst.isInt then floatToInt dst c (unpackFloat src w)
  else deliverVal dst c (unpackFloat src w)

/-- One round of Philox4x32 (R124; the rounds are the published algorithm's, PRESUMED, log entry 6). -/
def philoxRound (c : Nat × Nat × Nat × Nat) (k0 k1 : Nat) : Nat × Nat × Nat × Nat :=
  let (c0, c1, c2, c3) := c
  let p0 := 0xD2511F53 * c0
  let p1 := 0xCD9E8D57 * c2
  ((p1 / 2 ^ 32) ^^^ c1 ^^^ k0, p1 % 2 ^ 32, (p0 / 2 ^ 32) ^^^ c3 ^^^ k1, p0 % 2 ^ 32)

/-- So many rounds with the key bumped after each. -/
def philoxRounds : Nat → (Nat × Nat × Nat × Nat) → Nat → Nat → Nat × Nat × Nat × Nat
  | 0, c, _, _ => c
  | n + 1, c, k0, k1 =>
    philoxRounds n (philoxRound c k0 k1) ((k0 + 0x9E3779B9) % 2 ^ 32) ((k1 + 0xBB67AE85) % 2 ^ 32)

/-- Word 0 of Philox4x32-10 for a 64-bit seed as the key, low word first (R58, R124). -/
def philox (seed : Word) (c0 c1 c2 c3 : Nat) : Nat :=
  (philoxRounds 10 (c0 % 2 ^ 32, c1 % 2 ^ 32, c2 % 2 ^ 32, c3 % 2 ^ 32)
    (seed.toNat % 2 ^ 32) (seed.toNat / 2 ^ 32)).1

/-- The 16 random bits of element e (R124): task index, ISN, the micro-order's k. -/
def rndBits (seed : Word) (task isn k e : Nat) : Nat :=
  philox seed task (isn % 2 ^ 32) k (e * 2 ^ 20 + isn / 2 ^ 32 % 2 ^ 20) % 2 ^ 16

/-- The canonical tree over the contributing terms in their order (R132): terms are combined pairwise in runs whose
length is a power of two. `fuel` bounds the depth. -/
def canonTree {α : Type} (combine : α → α → α) : Nat → List α → Option α
  | _, [] => none
  | _, [x] => some x
  | 0, x :: _ => some x
  | fuel + 1, xs =>
    let n := xs.length
    let m := 2 ^ Nat.log2 (n - 1)
    match canonTree combine fuel (xs.take m), canonTree combine fuel (xs.drop m) with
    | some a, some b => some (combine a b)
    | some a, none => some a
    | none, r => r

/-- The block scale of a side word (R127): none for a NaN block. -/
def blockScale (side : Nat) : Option FVal :=
  let e := side / 4 % 256
  if e = 255 then none else some (.fin false (4 + side % 4) ((e : Int) - 129))

/-- The special magnitude of a side word (R127). -/
def specialMag (side : Nat) : FVal :=
  .fin (side / 2 ^ 15 % 2 = 1) (4 + side / 2 ^ 13 % 4) ((side / 2 ^ 10 % 8 : Nat) - 4)

/-- The value of a code of a block (R128): with the special magnitude enabled, e2m1 1000b is S. -/
def blockCode (t : ElemType) (special : Bool) (side code : Nat) : FVal :=
  if t = .e2m1 ∧ special ∧ code = 8 then specialMag side else readNum t code

/-- One element of a block-scaled operand, rounded with rne to the expanded type, and the flags of its rounding (R128). -/
def blockElem (t dst : ElemType) (special : Bool) (side code : Nat) : Nat × Flags :=
  match blockScale side with
  | none => (canonNaN dst, 0)
  | some sc => deliverVal dst .rne (fMul (blockCode t special side code) sc).1

/-- Index i of a codebook block's bit string (R130). -/
def cbIndex (t : ElemType) (bits : Nat) (i : Nat) : Nat := bits / 2 ^ (t.bits * i) % 2 ^ t.bits

/-- A codebook entry, a bf16 code, in the expanded type (R130). -/
def cbExpand (dst : ElemType) (entry : Nat) : Nat := (convert dst .bf16 .rne entry).1

end Sys2Proof.Machine
end

