-- ==== Sys2Proof/Config.lean ====
section
/-! DEFINITION. The constants of every device (R14, R76 to R79, R344) and the open values of the manual:
constants without a body, of which nothing can be proved but what holds of every value. -/

namespace Sys2Proof.Config

/-- Entries of the L, C and S queues each (R14). -/
def queueDepth : Nat := 32

/-- Entries of the return queue (R14, R51). -/
def returnDepth : Nat := 32

/-- Entries of the format queue (R14, R177). -/
def formatDepth : Nat := 16

/-- Entries of the sit-out queue (R14, R55). -/
def sitOutDepth : Nat := 2048

/-- Tokens that one FIFO holds (R48). -/
def tokenMax : Nat := 15

/-- Commands that the copy channel holds (R245). -/
def copyDepth : Nat := 32

/-- Streams that a cluster's stream queue holds (R251). -/
def streamDepth : Nat := 16

/-- Elements that a Farandole link holds (R249). -/
def linkDepth : Nat := 16

/-- Clk that a queue may wait in its pop stage, and a stream without progress (R50, R249). -/
def starveClk : Nat := 2 ^ 20

/-- Clk that a sequencer wait may last (R329). -/
def watchdogClk : Nat := 2 ^ 32

/-- Bytes of staging that the LLC holds for one core (R342). -/
def stagingLlc : Nat := 2 ^ 20

/-- Outstanding operations of one tag (R73). -/
def tagMax : Nat := 255

/-- Bytes of one scratchpad (R12). -/
def scratchBytes : Nat := 2 ^ 20

/-- Entries of a core's TLB (R14, R81). -/
def tlbDepth : Nat := 64

/-- Entries of a cluster's TLB (R14, R81). -/
def tlbDepthClu : Nat := 1024

/-- Entries of a die's TLB (R14, R81). -/
def tlbDepthDie : Nat := 16384

/-- Ways of a set of the L1, and its sets (R69). -/
def l1Ways : Nat := 8
def l1Sets : Nat := 256

/-- Flits of a port's retry buffer (R14, R280). -/
def retryDepth : Nat := 512

/-- Entries of the scoreboard (R14, R272). -/
def scoreDepth : Nat := 256

/-- An open 64-bit value: the manual fixes that a value results and not which (DESIGN CHOICE, log entry 5). The argument is the
state's counter of free values. -/
opaque freeWord : Nat → Word

/-- An open choice between two permitted outcomes (DESIGN CHOICE, log entry 5). -/
opaque freeBool : Nat → Bool

/-- Parts of collective data that may be on their way to a device unacknowledged, beyond the first (R261; DESIGN CHOICE, log entry 5):
the manual names the credits and not their number. -/
opaque collCredit : Nat → Nat

/-- The public key that a device's Dorsaby certificate names, root and seed (R285, R304; DESIGN CHOICE, log entry 7). -/
opaque certifiedKey : Nat → List Byte

/-- Dorsaby's firmware key (R304; DESIGN CHOICE, log entry 7). -/
opaque firmwareKey : List Byte

/-- The secret, the public seed and the random key of the device's own signing key (R304; DESIGN CHOICE, log entry 7). -/
opaque signSecret : List Byte
opaque signSeed : List Byte
opaque signRandom : List Byte

/-- The encapsulation key of a device's attestation report (R307; DESIGN CHOICE, log entry 7). -/
opaque kemKey : Nat → List Byte

/-- The device's own decapsulation key (R307; DESIGN CHOICE, log entry 7). -/
opaque kemSecret : List Byte

end Sys2Proof.Config
end

