-- ==== Sys2Proof/Machine/Parts.lean ====
section
/-! DEFINITION. The parts of the state that belong to the task on the core in focus: its registers, launch, queues,
tags, barriers and the memory it reaches (03, 04, 05, 08, 20). -/

namespace Sys2Proof.Machine

/-- Bytes by location, in canonical form: locations strictly rise and no entry is zero, which is what an unlisted
location reads as (DESIGN CHOICE, log entry 4). -/
abbrev Mem := List Host.Cell

/-- A partial map from locations to bytes: locations strictly rise; zero bytes are listed. -/
abbrev Overlay := List Host.Cell

/-- The trap causes (R321). -/
inductive Cause where
  | undef | regbound | scrbound | barbound | tagbound | idivz | misalign | xlate | prot | tilepage | partialT
  | tensor | fmtunder | fmtbad | qfault | tokstarve | reelfull | reeldiv | detviol | fabric | groupver | eccunc
  | syscall | brk | lease | watchdog
  deriving DecidableEq, Repr

/-- What a fault carries: cause, detail and address (R321, R322). -/
structure Trap where
  cause  : Cause
  detail : Nat := 0
  va     : Word := 0
  deriving DecidableEq, Repr

/-- A wait whose instruction has made an effect that it must not make again (R371). -/
inductive Wait where
  /-- BARW has set WATCH and arrived. -/
  | barw (n : BitVec 9)
  /-- PHASE has published and, with the flag, arrived. -/
  | phase (level : BitVec 2) (upTo : Nat) (arrived : Bool)
  /-- AGETS has matched this return-queue entry. -/
  | agets (slot : Nat)
  /-- A publication has been made; what it sent has the requests below this number (R99). -/
  | pub (upTo : Nat)
  /-- EXIT has committed, and waits for what it sent (R63). -/
  | exit (upTo : Nat)
  /-- WAITA has armed its counts. -/
  | waita (counts : List (Option Lane32))
  /-- FLOAD has taken its place in the stream queue (R251). -/
  | fload
  deriving DecidableEq, Repr

/-- The registers of one trap level (R174, R183) with its resume mark (R371). -/
structure TrapLevel where
  pc    : Word
  cause : Byte
  va    : Word
  sts   : BitVec 22
  mark  : Option Wait
  deriving DecidableEq, Repr

/-- The fields of a kernel header that bind the task (R43). -/
structure Header where
  ns      : Nat
  nv      : Nat
  nk      : Nat
  nm      : Nat
  scratch : Nat
  nbar    : Nat
  ntag    : Nat
  ndom    : Nat
  lease   : Nat
  detok   : Bool
  tailm   : Bool
  ckpt    : Bool
  tape    : Nat
  entry   : Nat
  tables  : List (Nat × Nat)
  nfg     : Nat
  nct     : Nat
  ncp     : Nat
  nmc     : Nat
  deriving DecidableEq, Repr

/-- A copy template as its 64 bytes give it (R243). -/
structure Template where
  dirIn  : Bool
  far    : BitVec 2
  fgr    : Bool
  qnt    : Bool
  mc     : Bool
  scv    : Bool
  graph  : Nat
  codeT  : BitVec 4
  srcT   : BitVec 4
  rm     : BitVec 2
  sat    : Bool
  spec   : Bool
  mcg    : Nat
  scope  : BitVec 3
  fbase  : Word
  soff   : Nat
  n      : Vector Nat 4
  fs     : Vector Int 4
  ts     : Vector Int 3
  deriving DecidableEq, Repr

/-- A cell entry (R247). -/
structure Cell where
  row  : Nat
  col  : Nat
  op   : Nat
  inap : Bool
  inar : Nat
  inac : Nat
  inav : Bool
  inbr : Nat
  inbc : Nat
  inbv : Bool
  ot   : BitVec 4
  inbp : Bool
  p0   : Lane32
  p1   : Lane32
  p2   : Lane32
  deriving DecidableEq, Repr

/-- A Farandole graph with its header's CRC (R247). -/
structure Graph where
  crc   : Lane32
  cells : List Cell
  deriving DecidableEq, Repr

/-- The tables of the image that the engines use, as the launch made them resident (R242, R243, R246, R247, R256,
R259, R274). -/
structure ImageTables where
  templates : List Template
  graphs    : List Graph
  progs     : List (List Nat)
  terms     : List (BitVec 128)
  mcast     : List Word
  deriving DecidableEq, Repr

/-- The launch that the task belongs to (R37 to R41, R269, R270). -/
structure Launch where
  header : Header
  tables : ImageTables
  image  : Word
  /-- CHECK of its image's header (R274) -/
  check  : List Byte
  root   : Word
  asn    : BitVec 16
  ttab   : Word
  group  : Word
  mesh   : Word
  save   : Word
  crec   : Word
  tpriv  : Word
  data   : Word
  args   : List Word
  seed   : Word
  det    : Bool
  ntask  : Nat
  m1     : Nat
  m2     : Nat
  m3     : Nat
  task   : Nat
  level  : Nat
  entry  : Nat
  rank4  : Nat
  gsize  : Nat
  deriving DecidableEq, Repr

/-- What the task in focus is doing (R59, R63, R64, R225, R276, R315, R333): `retired` after EXIT's wait and `tailed` after
TAIL, until the completion signal rises. -/
inductive Status where
  | none | running | leaseWait | halted | debug | saved | retired | tailed | killed
  deriving DecidableEq, Repr

/-- The three stages of an entry at the head of its queue (R48); a micro-order that has popped checks and binds before it runs
(R152). -/
inductive Stage where
  | pop | start | run | push (sp sn : Bool)
  deriving DecidableEq, Repr

/-- Where a micro-order stands: step, iteration, and the counter word k of its random bits (R52, R124). -/
structure Micro where
  step : Nat
  iter : Nat
  k    : Nat
  deriving DecidableEq, Repr

/-- One entry of a queue: the instruction, what it read at issue (R29), and its stage. A micro-order has the step
number and the iteration of its table pass (R52). -/
structure Entry where
  instr : Instr
  pc    : Word
  isn   : Nat
  tl    : Fin 3
  regs  : Vector Word 64
  slot  : Option Nat
  fmt   : Option (BitVec 128)
  stage : Stage
  micro : Option Micro
  deriving DecidableEq, Repr

/-- The table that a queue runs (R52, R152). -/
structure TableRun where
  base : Nat
  len  : Nat
  cnt  : Nat
  step : Nat
  iter : Nat
  stop : Bool
  cur  : Option Entry
  deriving DecidableEq, Repr

/-- A halted queue (R324 to R328). -/
structure Halt where
  trap     : Trap
  entryNo  : Nat
  tl       : Fin 3
  order    : Nat
  reported : Option (Fin 3)
  deriving DecidableEq, Repr

/-- One of the L, C and S queues (R47 to R52). -/
structure QueueState where
  entries : List Entry
  table   : Option TableRun
  halt    : Option Halt
  stall   : Nat
  qfpc    : Word
  deriving DecidableEq, Repr

/-- The three queues with the six token FIFOs (R48), QFLT.QSEL (R325) and the order of halts. -/
structure Queues where
  l    : QueueState
  c    : QueueState
  s    : QueueState
  lc   : Nat
  cs   : Nat
  sl   : Nat
  ls   : Nat
  cl   : Nat
  sc   : Nat
  qsel : BitVec 2
  halts : Nat
  deriving DecidableEq, Repr

/-- A value of the return queue: 64 bits, or the old values of a VATOM, register by register (R209, R212). -/
inductive RetValue where
  | scalar (w : Word)
  | vector (regs : List VReg)
  deriving DecidableEq, Repr

/-- One entry of the return queue (R51). -/
structure RetEntry where
  id      : Nat
  matched : Bool
  value   : Option RetValue
  /-- a returning atomic that was given up: what its pop traps (R355) -/
  bad     : Option Trap
  /-- the interval of the ordered access that delivers the value (R297) -/
  interval : Option Nat
  deriving DecidableEq, Repr

/-- One word of the format queue (R177). -/
structure FmtEntry where
  id      : Nat
  matched : Bool
  word    : BitVec 128
  deriving DecidableEq, Repr

/-- One deferred element of the sit-out queue (R55, R201). -/
structure SitOut where
  path  : Nat
  index : Nat
  width : BitVec 2
  words : List Nat
  deriving DecidableEq, Repr

/-- The copy tags (R72, R73). -/
structure Tags where
  rdy : Word
  err : Word
  out : Vector Nat 64
  deriving DecidableEq, Repr

/-- One named barrier (R170): its image, the failed generations with the engine's trap (R262), and the members of its domain that
have executed BAGRP for it with a level (R173). -/
structure Barrier where
  count  : BitVec 15
  target : BitVec 15
  level  : BitVec 2
  gen    : BitVec 16
  watch  : BitVec 16
  failed : List (BitVec 16 × Trap)
  joined : List (BitVec 2)
  deriving DecidableEq, Repr

/-- One entry of the core's TLB (R81): the leaf and the bytes it maps (64 KiB, 32 MiB or 16 GiB). -/
structure TlbEntry where
  asn  : BitVec 16
  base : Nat
  size : Nat
  leaf : Word
  deriving DecidableEq, Repr

/-- A load-block of the L1 (R70, R71): line addresses are virtual, `locs` has the location of each line. -/
structure Block where
  id     : Nat
  tag    : BitVec 6
  base   : Nat
  lines  : Nat
  open_  : Bool
  stale  : Bool
  locs   : List Nat
  deriving DecidableEq, Repr

/-- What the L1 holds (R69, R71): a line by its virtual line number, or a block as a whole. -/
inductive L1Item where
  | line (n : Nat)
  | block (id : Nat)
  deriving DecidableEq, Repr

/-- An atomic on one location: the function of R161, the width, the datum and ACAS's comparand. -/
structure AtomicOp where
  fn  : Nat
  w32 : Bool
  v   : Word
  cmp : Word
  deriving DecidableEq, Repr

/-- What completed the engine writes that a task may wait for (R109). -/
inductive Completion where
  | tag (n : Nat)
  | bar (n : Nat)
  deriving DecidableEq, Repr

/-- A level-3 domain of the device whose tasks make ordered accesses (R295): its launch's scoreboard entry, its first task and
how many it has. -/
structure OrdDomain where
  launch : Nat
  first  : Nat
  count  : Nat
  deriving DecidableEq, Repr

/-- One ordered access held at its homes (R296): domain, key, interval, class, the locations with the atomic on each, and the
return-queue entry that takes the old values, for an access of the task in focus. -/
structure Held where
  dom      : OrdDomain
  task     : Nat
  elem     : Nat
  isn      : Nat
  interval : Nat
  seqd     : Bool
  ops      : List (Nat × AtomicOp)
  slot     : Option Nat
  /-- the access is an element of the task's VATOM -/
  vec      : Bool
  /-- the access is one of the task in focus -/
  mine     : Bool
  deriving DecidableEq, Repr

/-- The ordered accesses of DET launches (R295, R296): those held, the end markers that the homes hold (domain, interval, task),
and the task's own interval number. -/
structure Ordered where
  held     : List Held
  markers  : List (OrdDomain × Nat × Nat)
  interval : Nat
  deriving DecidableEq, Repr

/-- What a task of another core does to state that this core shares (R164, R171, R173, R181), and the uncorrectable errors that
arise inside the core (R336): data of the schedule. -/
inductive MateAct where
  /-- a member arrives at the level-l domain barrier -/
  | phase (level : BitVec 2)
  /-- a member arrives at a shared barrier -/
  | arrive (n : BitVec 9)
  /-- a member sets the target of a shared barrier -/
  | baset (n : BitVec 9) (target : BitVec 15)
  /-- a member executes BAGRP -/
  | bagrp (n : BitVec 9) (level : BitVec 2)
  /-- bytes installed at their homes by another core's commit or immediate -/
  | install (pa : Nat) (bytes : List Byte)
  /-- bytes written to a scratchpad of the cluster by its core -/
  | scratch (rank : BitVec 2) (off : Nat) (bytes : List Byte)
  /-- an atomic of a peer core reaches a bank (R68) -/
  | scrAtomic (rank : BitVec 2) (off : Nat) (op : AtomicOp)
  /-- another core of the launch translates an address, through the TLBs that it shares with this one (R81) -/
  | walk (core : Byte) (va : Word)
  /-- a task of the cluster sets an entry of its channel's multicast table, or quiesces one (R180, R246) -/
  | mcset (ix : BitVec 4) (value : Word)
  | mcqui (ix : BitVec 4)
  /-- copies of tasks on other cores begin to name a multicast group, or none of them does any more (R180) -/
  | mccopy (ix : BitVec 4) (on : Bool)
  /-- an ordered access of another task of the level-3 domain reaches its homes -/
  | hold (h : Held)
  /-- another task's end marker for an interval of its domain -/
  | marker (dom : OrdDomain) (interval task : Nat)
  /-- a core of the cluster writes the matrix slot table -/
  | mslot (slot : BitVec 4) (value : BitVec 3)
  /-- a core of the cluster has an MLEASE at the head of its C queue, or its lease ends (R216, R217) -/
  | lease (rank : BitVec 2) (asks : Bool)
  /-- a core of the cluster loads a weight buffer -/
  | mldb (rank : BitVec 2) (buf : Bool)
  /-- the sequencer's instruction reads a register with an uncorrectable error -/
  | regError
  /-- the entry at the head of a queue reads a register, a token or a queue word with an uncorrectable error -/
  | queueError (q : Queue)
  /-- an uncorrectable error in a bank word of the cluster's scratchpads -/
  | scrError (rank : BitVec 2) (off : Nat)
  deriving DecidableEq, Repr

/-- A part of the data of a collective transfer (R260, R261): instance, sending and receiving rank, number of the transfer between
the two, number of its word, where the part lies from the start of its slot, bytes of the whole transfer, and the part's bytes. -/
structure CollData where
  inst  : Nat
  rank  : Nat
  dest    : Nat
  seq   : Nat
  word  : Nat
  off   : Nat
  total : Nat
  bytes : List Byte
  deriving DecidableEq, Repr

/-- What the core asks of another device or of the host's memory (R106, R282): a unit of 64 B to read, bytes to write, an atomic;
or what it tells another device. -/
inductive RemoteOp where
  | read (imm : Bool)
  | write (bytes : List Byte)
  | atomic (op : AtomicOp) (old : Bool)
  /-- several units, read as one access (R112) -/
  | reads (units : List Nat)
  /-- several runs of bytes, installed as one (R92, R112) -/
  | writes (parts : List (Nat × List Byte))
  /-- several atomics, performed as one (R112) -/
  | adds (ops : List (Nat × AtomicOp))
  /-- data of a collective -/
  | data (d : CollData)
  /-- an instance tells a rank that its own has aborted, with the ranks of the two (R261) -/
  | notice (inst rank dest : Nat)
  deriving DecidableEq, Repr

/-- Who waits for a request: the task, for its publication or for an access of its own, a copy of the channel, a collective
instance, another engine, or a transfer of the command core (R97, R272, R355). -/
inductive ReqOwner where
  | task
  | pub
  | copy (id : Nat)
  | coll (id : Nat)
  | engine
  /-- a stream transfer to the host (R272) -/
  | xfer (id : Nat)
  deriving DecidableEq, Repr

/-- A request of the core that no reply has ended (R282). `slot` is the return-queue entry that the old value goes
to; `seq`, `sends` and `at_` are its sequence number, the times it was sent and TIME at the last. -/
structure RemoteReq where
  id    : Nat
  loc   : Nat
  va    : Word
  op    : RemoteOp
  slot  : Option Nat
  sent  : Bool
  owner : ReqOwner := .task
  seq   : Nat := 0
  sends : Nat := 0
  at_   : Nat := 0
  /-- pieces of the answer that have come: number and bytes -/
  got   : List (Nat × List Byte) := []
  deriving DecidableEq, Repr

/-- One tensor descriptor with its shadow entry in the descriptor cache (R87, R179). -/
structure DescEntry where
  id    : Nat
  bytes : List Byte
  deriving DecidableEq, Repr

/-- The memory that the task reaches. -/
structure Memory where
  /-- bytes at their homes (R91), by location -/
  home    : Mem
  /-- the homes at the task's last open (R100) -/
  snap    : Mem
  /-- own writes pending (R94) -/
  own     : Overlay
  /-- plain writes staged and not yet committed (R60) -/
  staging : Overlay
  /-- an uncorrectable error has hit the staging (R342) -/
  stagingBad : Bool
  /-- the homes when the launch was accepted, or the snapshot when the last ROINV was performed (R95) -/
  roBase  : Mem
  /-- own writes that precede the last ROINV (R95) -/
  roOwn   : Overlay
  /-- the task's own writes since its start, whatever has opened (R95) -/
  wrote   : Overlay
  /-- TIME at the last open (R100), and the spans that a collective's completion has acquired since, with its TIME (R108) -/
  openTime : Nat
  acquired : List ((Nat × Nat) × Nat)
  /-- what the homes held before each installation, with its TIME, the latest first: the versions that plain reads of other
  devices are served from (R100) -/
  past    : List (Nat × Mem)
  /-- units of peer or host memory that arrived for plain reads of this snapshot -/
  peerSnap : Overlay
  /-- units that arrived for an immediate read in progress -/
  peerImm  : Overlay
  /-- fabric-cached copies (R76, R106), and the launch that fetched them -/
  cached  : Overlay
  cachedBy : Nat
  /-- Count of each line that has been written (R166) -/
  counts  : List (Nat × Lane32)
  /-- poisoned 64-B units of global memory, by location of their first byte (R337) -/
  poison  : List Nat
  /-- the cluster's four scratchpads by level-1 rank: rank * 2^20 + offset (R65) -/
  scratch : Mem
  /-- poisoned bank words of the scratchpads -/
  scrPoison : List Nat
  /-- the TLB of the core in focus, and those of the clusters and of the dies by number (R81) -/
  tlb     : List TlbEntry
  tlbClu  : List (Nat × TlbEntry)
  tlbDie  : List (Nat × TlbEntry)
  /-- what the L1 holds, the last used first (R69, R71) -/
  l1      : List L1Item
  blocks  : List Block
  nextBlock : Nat
  descs   : List DescEntry
  /-- requests to other devices and to the host -/
  reqs    : List RemoteReq
  nextReq : Nat
  /-- writes given up and not yet reported to the task (R107, R355, R357) -/
  uncertain : List Trap
  /-- the VATOM that the S queue has begun: for each element the old value, or the request that brings it (R212) -/
  vatom   : Option (List (Nat × Option Nat × Option Nat))
  /-- units whose read was given up, with what their consumer traps (R355) -/
  failed  : List (Nat × Trap)
  /-- pages of other devices in use: page of the location, page of the virtual address -/
  vaPages : List (Nat × Nat)
  /-- engine writes whose completion the task may wait for before its next open (R109) -/
  engDone : List (Completion × List (Nat × Byte) × List (Nat × Nat))
  deriving DecidableEq, Repr

/-- The phase checkpoint (R62). -/
structure Checkpoint where
  pc     : Word
  regs   : Vector Word 64
  kregs  : Vector KReg 16
  mregs  : Vector MReg 16
  rebase : Vector Word 24
  fpstat : BitVec 6
  trapen : Bool
  isn    : Nat
  bars   : Vector Barrier 512
  ranges : List (Nat × Nat)
  arms   : List Bool
  /-- arrivals at the interval barrier since its binding (R295), which is part of the barriers' state -/
  interval : Nat
  deriving DecidableEq, Repr

/-- One event of the device with what arrives with it, or an instruction that another order of the agents runs. -/
structure Event where
  row   : Instr
  input : Input
  deriving DecidableEq, Repr

end Sys2Proof.Machine
end

