-- ==== Sys2Proof/Machine/Memory.lean ====
section
/-! DEFINITION. Memory as lists of (location, byte) pairs in one canonical form, partial overlays, and the byte order
of wider values (04, R4). -/

namespace Sys2Proof.Machine

namespace Mem

/-- The byte at a location; an unlisted one reads zero (DESIGN CHOICE, log entry 4). -/
def read (m : Mem) (a : Nat) : Byte :=
  match m with
  | [] => 0
  | (k, b) :: r => if k = a then b else if a < k then 0 else Mem.read r a

/-- The memory with one byte written; a zero byte is not listed. -/
def write (m : Mem) (a : Nat) (v : Byte) : Mem :=
  match m with
  | [] => if v = 0 then [] else [(a, v)]
  | (k, b) :: r =>
    if k = a then (if v = 0 then r else (a, v) :: r)
    else if a < k then (if v = 0 then (k, b) :: r else (a, v) :: (k, b) :: r)
    else (k, b) :: Mem.write r a v

/-- The canonical form: locations strictly rise and no byte is zero. -/
def wf (m : Mem) : Bool :=
  match m with
  | [] => true
  | [(_, b)] => b ≠ 0
  | (k, b) :: (k', b') :: r => b ≠ 0 ∧ k < k' ∧ Mem.wf ((k', b') :: r)

/-- Several bytes from a location upwards. -/
def readBytes (m : Mem) (a n : Nat) : List Byte := (List.range n).map fun i => Mem.read m (a + i)

/-- Writes of single bytes, in order. -/
def writeAll (m : Mem) (ws : List (Nat × Byte)) : Mem := ws.foldl (fun m w => Mem.write m w.1 w.2) m

/-- Writes bytes from a location upwards. -/
def writeBytes (m : Mem) (a : Nat) (bs : List Byte) : Mem :=
  Mem.writeAll m (bs.zipIdx.map fun p => (a + p.2, p.1))

end Mem

namespace Overlay

/-- The byte that a partial map holds at a location. -/
def get? (m : Overlay) (a : Nat) : Option Byte :=
  match m with
  | [] => none
  | (k, b) :: r => if k = a then some b else if a < k then none else Overlay.get? r a

/-- The partial map with one byte set. -/
def set (m : Overlay) (a : Nat) (v : Byte) : Overlay :=
  match m with
  | [] => [(a, v)]
  | (k, b) :: r =>
    if k = a then (a, v) :: r
    else if a < k then (a, v) :: (k, b) :: r
    else (k, b) :: Overlay.set r a v

/-- Several bytes set, in order. -/
def setAll (m : Overlay) (ws : List (Nat × Byte)) : Overlay := ws.foldl (fun m w => Overlay.set m w.1 w.2) m

/-- Locations strictly rise. -/
def wf (m : Overlay) : Bool :=
  match m with
  | [] => true
  | [_] => true
  | (k, _) :: (k', b') :: r => k < k' ∧ Overlay.wf ((k', b') :: r)

/-- The map without the locations of one range. -/
def dropRange (m : Overlay) (a n : Nat) : Overlay := m.filter fun c => ¬ (a ≤ c.1 ∧ c.1 < a + n)

end Overlay

/-- The little-endian number of a list of bytes. -/
def bytesToNat : List Byte → Nat
  | [] => 0
  | b :: r => b.toNat + 256 * bytesToNat r

/-- The little-endian bytes of a number. -/
def natToBytes : Nat → Nat → List Byte
  | 0, _ => []
  | n + 1, v => BitVec.ofNat 8 v :: natToBytes n (v / 256)

/-- The addresses of the n bytes from one. -/
def bytesAt (ea n : Nat) : List Nat := (List.range n).map (ea + ·)

/-- The regions of locations: what lies above bit 48 of a location. Region 0 is the device's own physical memory,
n + 1 the memory of device n, 16,385 the host's frames, 16,386 + n the fabric-cached copies of device n's lines, and
40,000 + 16 s + f the expanded view of packed frames under
PKFMTf, of a leaf of 64 KiB, 32 MiB or 16 GiB for s = 0, 1, 2 (R78 to R85, R106). -/
def regionBase (r : Nat) : Nat := r * 2 ^ 48

/-- The region of a location. -/
def regionOf (l : Nat) : Nat := l / 2 ^ 48

/-- The address of a location within its region. -/
def addrOf (l : Nat) : Nat := l % 2 ^ 48

/-- The region of device n's memory. -/
def peerRegion (n : Nat) : Nat := n + 1

/-- The region of the host's frames. -/
def hostRegion : Nat := 16385

/-- The region of the fabric-cached copies of device n's lines (R76). -/
def cachedRegion (n : Nat) : Nat := 16386 + n

/-- The first region of packed views. -/
def packRegion : Nat := 40000

/-- The location is a fabric-cached copy (R106). -/
def isCached (l : Nat) : Bool := cachedRegion 0 ≤ regionOf l ∧ regionOf l < packRegion

/-- The location at the peer's home of a fabric-cached copy; any other location itself. -/
def peerOf (l : Nat) : Nat := if isCached l then l - (cachedRegion 0 - peerRegion 0) * 2 ^ 48 else l

/-- The location is served by another device or by the host. -/
def isRemote (l : Nat) : Bool := 1 ≤ regionOf l ∧ regionOf l ≤ hostRegion

end Sys2Proof.Machine
end

