-- ==== Sys2Proof/Machine/Blocks.lean ====
section
/-! DEFINITION. Block quantisation and packed pages (R83 to R85, R127 to R130, R196, R197). -/

namespace Sys2Proof.Machine

/-- The block scale with index k = 4 e + f (R127, R196). -/
def scaleOf (k : Nat) : FVal := .fin false (4 + k % 4) ((k / 4 : Nat) - 129)

/-- The largest finite value of a narrow format (R196). -/
def narrowMax : ElemType → FVal
  | .e4m3 => .fin false 448 0
  | .e5m2 => .fin false 57344 0
  | _ => .fin false 6 0

/-- a < b, for values of which none is a NaN. -/
def valLt (a b : FVal) : Bool := fCmp a b = some (-1)

/-- The index of the smallest scale s with amax ≤ Q s, or the largest scale (R196). -/
def scaleIndex (t : ElemType) (amax : FVal) : Nat :=
  let below (k : Nat) : Bool := valLt (fMul (narrowMax t) (scaleOf k)).1 amax
  let lo := [512, 256, 128, 64, 32, 16, 8, 4, 2, 1].foldl
    (fun lo b => if lo + b ≤ 1020 ∧ below (lo + b - 1) then lo + b else lo) 0
  min lo 1019

/-- The greatest magnitude of a block. -/
def maxAbs (xs : List FVal) : FVal := xs.foldl (fun a x => if valLt a x.abs then x.abs else a) (.fin false 0 0)

/-- |x - v s| for the element's own comparison of errors (R197); an infinite element's is infinite. -/
def quantErr (x v s : FVal) : FVal := (fAdd x (fMul v s).1.neg).1.abs

/-- The special magnitudes in ascending order, as (SX, SM) with their value (R127, R197). -/
def specials : List (Nat × Nat × FVal) :=
  (List.range 32).map fun k => (k / 4, k % 4, .fin false (4 + k % 4) ((k / 4 : Nat) - 4))

/-- The special magnitude nearest to |x| ÷ s, even m on a tie (R197). -/
def nearestSpecial (x s : FVal) : Nat × Nat × FVal :=
  match x with
  | .inf _ => (7, 3, .fin false 7 3)
  | _ =>
    let d (c : Nat × Nat × FVal) : FVal := quantErr x.abs c.2.2 s
    specials.foldl
      (fun best c =>
        match fCmp (d c) (d best) with
        | some r => if r < 0 ∨ (r = 0 ∧ c.2.1 % 2 = 0) then c else best
        | none => best)
      (0, 0, .fin false 4 (-4))

/-- Codes and side word of one block (R196, R197) with the flags of its roundings; the special field is e2m1's alone (R127).
`rnds` gives each element's random bits. -/
def quantBlock (t : ElemType) (rm : Rounding) (sat alt : Bool) (rnds : List Nat) (xs : List FVal) :
    List Nat × Nat × Flags :=
  if xs.any (· == FVal.nan) then (xs.map fun _ => 0, 255 * 4, 0)
  else
    let amax := maxAbs xs
    let k := if amax.isZero then 127 * 4 else scaleIndex t amax
    let s := scaleOf k
    let rs := (xs.zip rnds).map fun p =>
      let (q, f) := fDiv p.1 s
      let (c, g) := deliver t ⟨rm, sat, p.2⟩ q
      (if t = ElemType.e2m1 ∧ c = 8 then 0 else c, f ||| g)
    let codes := rs.map (·.1)
    let flags := rs.foldl (fun a r => a ||| r.2) 0
    if t = ElemType.e2m1 ∧ alt then
      let errs := (xs.zip codes).map fun p => quantErr p.1 (readNum t p.2) s
      let (best, at_) := (errs.zip xs).foldl (fun (b : FVal × FVal) p => if valLt b.1 p.1 then p else b)
        (errs.headD (.fin false 0 0), xs.headD (.fin false 0 0))
      if best.isZero then (codes, k + 2 * 2 ^ 10, flags)
      else
        let (sx, sm, mag) := nearestSpecial at_ s
        let neg := at_.sgn
        let sv := if neg then mag.neg else mag
        let codes := ((xs.zip errs).zip codes).map fun p =>
          if valLt (quantErr p.1.1 sv s) p.1.2 then 8 else p.2
        (codes, k + sx * 2 ^ 10 + sm * 2 ^ 13 + (if neg then 2 ^ 15 else 0), flags)
    else (codes, k, flags)

/-- A packing format (R83). -/
structure PackFmt where
  pt   : ElemType
  et   : ElemType
  blk  : Nat
  rm   : Rounding
  satu : Bool

namespace PackFmt

/-- Bytes of codes of one block (R84). -/
def codeBytes (f : PackFmt) : Nat := f.blk * f.pt.bits / 8

/-- Bytes of side data of one block (R84). -/
def sideBytes (f : PackFmt) : Nat :=
  match f.pt with
  | .e2m1 | .e4m3 | .e5m2 => 2
  | .cb3 => 16
  | .cb4 => 32
  | _ => 0

/-- Bytes of one packed block. -/
def packed (f : PackFmt) : Nat := f.codeBytes + f.sideBytes

/-- Bytes of one expanded block. -/
def expanded (f : PackFmt) : Nat := f.blk * (f.et.bits / 8)

/-- The format that a PKFMT register holds, if it is valid (R83, R84). -/
def ofWord (w : Word) : Option PackFmt :=
  let pt := ElemType.ofCode (w.extractLsb' 0 4)
  let et := ElemType.ofCode (w.extractLsb' 4 4)
  let code := (w.extractLsb' 8 2).toNat
  let rm : Rounding := match (w.extractLsb' 10 2).toNat with | 0 => .rne | 1 => .rtz | 2 => .rsr | _ => .rna
  let f : PackFmt := ⟨pt, et, if code = 0 then 16 else if code = 1 then 32 else 128, rm, w.getLsbD 12⟩
  let okP := pt.isNarrow ∨ pt.isCodebook ∨ pt = .i8 ∨ pt = .n8
  let okE := et.isFlt ∨ (et = .i32 ∧ (pt = .i8 ∨ pt = .n8))
  if okP ∧ okE ∧ code ≠ 3 ∧ (pt.isCodebook → code = 2) ∧ 65536 / f.expanded * f.packed ≤ 65536 then some f else none

/-- The expanded elements of a packed block (R84, R128, R130). -/
def expand (f : PackFmt) (bytes : List Byte) : List Nat :=
  let codes := bytesToNat (bytes.take f.codeBytes)
  let side := bytes.drop f.codeBytes
  (List.range f.blk).map fun i =>
    let c := codes / 2 ^ (f.pt.bits * i) % 2 ^ f.pt.bits
    if f.pt.isNarrow then (blockElem f.pt f.et false (bytesToNat side) c).1
    else if f.pt.isCodebook then cbExpand f.et (bytesToNat ((side.drop (2 * c)).take 2))
    else (convert f.et f.pt .rne c).1

/-- The packed block of expanded elements (R85): the scale is chosen as VQNT does. A codebook block keeps its table;
which indices re-packing picks is not stated, so they are open (`rnds`, DESIGN CHOICE, log entry 5). -/
def pack (f : PackFmt) (rnds : List Nat) (old : List Byte) (elems : List Nat) : List Byte :=
  if f.pt.isNarrow then
    let (codes, side, _) := quantBlock f.pt f.rm f.satu false (rnds.map (· % 2 ^ 16)) (elems.map (readNum f.et))
    natToBytes f.codeBytes (codes.zipIdx.foldl (fun a c => a + c.1 * 2 ^ (f.pt.bits * c.2)) 0) ++ natToBytes 2 side
  else if f.pt.isCodebook then
    natToBytes f.codeBytes (rnds.zipIdx.foldl (fun a c => a + c.1 % 2 ^ f.pt.bits * 2 ^ (f.pt.bits * c.2)) 0)
      ++ old.drop f.codeBytes
  else
    ((elems.zip rnds).map fun p => BitVec.ofNat 8 (convert f.pt f.et ⟨f.rm, f.satu, p.2 % 2 ^ 16⟩ p.1).1)

end PackFmt

/-- The bytes of a run of elements. -/
def elemsToBytes (t : ElemType) (xs : List Nat) : List Byte := xs.flatMap (natToBytes (t.bits / 8))

/-- The elements of a run of bytes, `n` of them. -/
def bytesToElems (t : ElemType) (n : Nat) (bs : List Byte) : List Nat :=
  (List.range n).map fun i => bytesToNat ((bs.drop (i * (t.bits / 8))).take (t.bits / 8))

/-- The number of the packing format of a packed location. -/
def packNo (l : Nat) : Nat := (regionOf l - packRegion) % 16

/-- Bytes of the page that a packed location lies in (R78). -/
def packSize (l : Nat) : Nat :=
  match (regionOf l - packRegion) / 16 with
  | 0 => 65536
  | 1 => 2 ^ 25
  | _ => 2 ^ 34

/-- The region of the packed view of a leaf: its format and the bytes that it maps. -/
def packView (pkf size : Nat) : Nat := packRegion + pkf + (if size = 65536 then 0 else if size = 2 ^ 25 then 16 else 32)

/-- Where the packed block of an expanded location starts in its page's frame, and the byte in the expanded block (R84). -/
def packPlace (f : PackFmt) (l : Nat) : Nat × Nat :=
  let a := addrOf l
  let o := a % packSize l
  (a - o + o / f.expanded * f.packed, o % f.expanded)

/-- Reads one byte of a home, expanding a packed view (R85). -/
def homeRead (pk : Vector Word 16) (m : Mem) (l : Nat) : Byte :=
  if packRegion ≤ regionOf l then
    match PackFmt.ofWord (pk.getD (packNo l) 0) with
    | none => 0
    | some f =>
      let (base, o) := packPlace f l
      (elemsToBytes f.et (f.expand (Mem.readBytes m base f.packed))).getD o 0
  else Mem.read m l

/-- One byte goes to a packed view. -/
def isPacked (l : Nat) : Bool := packRegion ≤ regionOf l

/-- Installs into the block of a packed view that `key` names every byte of `ws` that lies in it: expanded, merged and
re-packed in one step (R85).
DESIGN CHOICE: log entry 32. -/
def packWrite (pk : Vector Word 16) (rnd : Nat → Nat) (ws : List (Nat × Byte)) (m : Mem) (key : Nat × Nat) : Mem :=
  match PackFmt.ofWord (pk.getD (key.1 % 16) 0) with
  | none => m
  | some f =>
    let mine := ws.filter fun w => isPacked w.1 ∧ regionOf w.1 - packRegion = key.1 ∧ (packPlace f w.1).1 = key.2
    let old := Mem.readBytes m key.2 f.packed
    let view := mine.foldl (fun v w => v.set (packPlace f w.1).2 w.2) (elemsToBytes f.et (f.expand old))
    Mem.writeBytes m key.2 (f.pack ((List.range f.blk).map rnd) old (bytesToElems f.et f.blk view))

/-- The block of a packed location: its view and the address of its packed image. -/
def packKey (pk : Vector Word 16) (l : Nat) : Nat × Nat :=
  match PackFmt.ofWord (pk.getD (packNo l) 0) with
  | none => (regionOf l - packRegion, 0)
  | some f => (regionOf l - packRegion, (packPlace f l).1)

/-- The units of 64 B that hold what a read of a location needs: those of the whole packed block for a packed view. -/
def unitsOf (pk : Vector Word 16) (l : Nat) : List Nat :=
  if isPacked l then
    match PackFmt.ofWord (pk.getD (packNo l) 0) with
    | none => [addrOf l / 64 * 64]
    | some f =>
      let b := (packPlace f l).1
      ((List.range f.packed).map fun i => (b + i) / 64 * 64).eraseDups
  else [l / 64 * 64]

/-- Installs bytes at their homes: plain locations byte by byte, packed views block by block (R85). `rnd` gives the open
bits of re-packing. -/
def homeWrite (pk : Vector Word 16) (rnd : Nat → Nat) (m : Mem) (ws : List (Nat × Byte)) : Mem :=
  let m := Mem.writeAll m (ws.filter fun w => !isPacked w.1)
  let keys := ((ws.filter fun w => isPacked w.1).map fun w => packKey pk w.1).eraseDups
  keys.foldl (packWrite pk rnd ws) m

end Sys2Proof.Machine
end

