-- ==== Sys2Proof/Machine/Units.lean ====
section
/-! DEFINITION. The parts of the state that belong to the engines beside the task and to the rest of the device: matrix
array, Reel, copy channel, Farandole grid, helper, Caller, collectives, groups, reshards, scheduler, fabric, masters,
security, log (10 to 15, 22 to 24). -/

namespace Sys2Proof.Machine

/-! The cluster's matrix array (R216 to R225) -/

/-- One weight buffer (R221): the core rank that loaded it, what the load recorded, and the 256 columns as bytes. -/
structure WeightBuf where
  owner  : Option (BitVec 2)
  src    : Nat
  k      : Nat
  stride : Nat
  word   : BitVec 128
  cols   : List Byte
  deriving DecidableEq, Repr

/-- A slot write that waits for its boundary (R181): the slot period in which it takes effect, slot, value. -/
structure SlotWrite where
  period : Nat
  slot   : BitVec 4
  value  : BitVec 3
  deriving DecidableEq, Repr

/-- The array, its slot table and the core's invalid ranges (R216, R224). -/
structure MatrixState where
  holder  : Option (BitVec 2)
  used    : Nat
  last    : BitVec 2
  slots   : Vector (BitVec 3) 16
  pending : List SlotWrite
  bufs    : Vector WeightBuf 2
  /-- start and length -/
  invalid : List (Nat × Nat)
  /-- the task waits for a lease after its resumption, to reload its buffers (R225) -/
  reload  : Bool
  /-- ranks of other cores of the cluster whose C queue has an MLEASE at its head (R216) -/
  asking  : List (BitVec 2)
  deriving DecidableEq, Repr

/-! The Reel (R233 to R241) -/

/-- The states of the Reel, in the order of their codes (R233). -/
inductive ReelMode where
  | closed | recording | sealed | playing
  deriving DecidableEq, Repr

/-- One record of the tape, with its value decoded: 256 * 2^w bytes, 32 mask bytes, or a checkpoint's payload. -/
structure ReelRecord where
  kind  : Nat
  slot  : Nat
  w     : Nat
  drop  : Bool
  value : List Byte
  deriving DecidableEq, Repr

/-- The Reel of the core. `frame` holds the records of the current frame as bytes, `lastVals` the last value of each
slot in it; `records` are the decoded records in playback, up to `broken` at the front. -/
structure ReelState where
  mode     : ReelMode
  pol      : BitVec 2
  drop     : Bool
  dv       : Bool
  spill    : Bool
  seg      : Nat
  pos      : Nat
  quota    : Nat
  tape     : Nat
  spillVa  : Nat
  start    : Nat
  back     : Nat
  seg0     : Nat
  nrec     : Nat
  frame    : List Byte
  lastVals : List (Nat × Nat × List Byte)
  records  : List ReelRecord
  broken   : Option Trap
  cursor   : Nat
  opening  : Option Nat
  forward  : Nat
  deriving DecidableEq, Repr

/-! The copy channel (R243 to R246) -/

/-- One command of the channel, with what it captured at issue (R245). -/
structure CopyCmd where
  id      : Nat
  tpl     : Template
  sa      : Word
  sb      : Word
  n3      : Nat
  es      : Nat
  tag     : BitVec 6
  isn     : Nat
  mcast   : Word
  helper  : Bool
  term    : Bool
  started : Bool
  /-- units of the box moved, and all of them are, or the copy has stopped at a fault -/
  moved   : Nat
  ended   : Bool
  fault   : Option Trap
  left    : Nat
  ws      : List (Nat × Byte)
  deriving DecidableEq, Repr

/-- The multicast table of a launch (R180, R246): its entries, the quiesced groups, and those that copies of its tasks on other
cores name. -/
structure McastTable where
  entries  : Vector Word 16
  quiesced : BitVec 16
  others   : BitVec 16
  deriving DecidableEq, Repr

/-- The channel, the table of the launch in focus with the scoreboard entry of that launch, the tables of launches that have been
in focus before and have not ended, and the groups that the task in focus has quiesced (R180, R246). -/
structure Channel where
  cmds     : List CopyCmd
  nextId   : Nat
  table    : McastTable
  tableOf  : Option Nat
  tables   : List (Nat × McastTable)
  mine     : BitVec 16
  deriving DecidableEq, Repr

/-! The Farandole grid (R247 to R252) -/

/-- A running cell: the elements on its two links, what it has gathered, and how far it is. -/
structure CellRun where
  cell  : Cell
  a     : List Nat
  b     : List Nat
  /-- bits held by UNPK and PACK; JOIN's side -/
  bits  : Nat
  /-- their number; indices left in a block of LUT or SCALE; elements of JOIN's chunk -/
  nbits : Nat
  /-- entries of LUT, the scale of SCALE, the group of QNT and TRN, the bytes of ZEXP -/
  hold  : List Nat
  /-- elements formed and not yet emitted -/
  out   : List Nat
  /-- elements taken from A, or chunks of SRC read -/
  taken : Nat
  /-- elements emitted or written -/
  made  : Nat
  /-- its output has ended (R370) -/
  done  : Bool
  deriving DecidableEq, Repr

/-- Where a stream came from and goes to: FST with addresses, or a routed copy (R251). -/
inductive StreamKind where
  | fst (src len dst : Nat)
  | routed (cmd : CopyCmd)
  deriving DecidableEq, Repr

/-- One stream of the cluster's queue. -/
structure Stream where
  graph : Nat
  kind  : StreamKind
  tag   : BitVec 6
  isn   : Nat
  term  : Bool
  deriving DecidableEq, Repr

/-- A running stream: the source bytes of a routed copy, the elements of its primary input taken, its cells, the clk
without a firing (R249), and the bytes that DST 0 sinks of a routed copy have written, by offset in the box. -/
structure StreamRun where
  stream : Stream
  input  : List Byte
  pos    : Nat
  cells  : List CellRun
  idle   : Nat
  dst    : List (Nat × Byte)
  /-- how the stream has ended, while the descriptor of its destination is still on its way -/
  ending : Option (Option Trap) := none
  deriving DecidableEq, Repr

/-- The grid of the cluster. `resident` names the graph and holds its cells with the header's CRC. -/
structure Farandole where
  queue    : List Stream
  run      : Option StreamRun
  resident : Option (Nat × List Cell × Lane32)
  /-- CRC mismatches of the load in progress -/
  misses   : Nat
  /-- an FLOAD of the sequencer waits in the queue: graph, and streams of the queue before it -/
  fload    : Option (Nat × Nat)
  /-- how the FLOAD that waits has ended: rolled back or not -/
  floaded  : Option Bool
  deriving DecidableEq, Repr

/-! Helper and Caller (R253 to R258) -/

/-- The helper sequencer. `counters` are HLOOP's, by word address; `issued` its copies since the last flag. -/
structure Helper where
  running  : Bool
  stopping : Bool
  pc       : Word
  offs     : Vector Word 4
  counters : List (Nat × Nat)
  issued   : List Nat
  fault    : Option Trap
  deriving DecidableEq, Repr

/-- One Caller term with its state (R256, R257). -/
structure Term where
  word    : BitVec 128
  armed   : Bool
  cnt     : Nat
  fa      : Bool
  fb      : Bool
  /-- the word of an action that has not started yet -/
  pending : Option (BitVec 128)
  deriving DecidableEq, Repr

/-- A pulse (R257): source kind and number, and its clk. -/
structure Pulse where
  kind : Nat
  num  : Nat
  clk  : Nat
  deriving DecidableEq, Repr

/-- The Caller: its terms and the pulses that they have not seen yet. -/
structure Caller where
  terms  : Vector Term 32
  pulses : List Pulse
  deriving DecidableEq, Repr

/-! Collectives, groups, reshards (R259 to R267, R284 to R292) -/

/-- A transfer of an instance that has not completed locally (R260): its regions as VA and bytes, its reduction, the peer
that it sends to and the one that it receives from, each with the transfer's number for the pair (R261), TIME at its issue, its
word, the start of what it sends in its slot, and once its engine has done its part the requests that still have to leave or to be
acknowledged. -/
structure Transfer where
  sa    : Option (Nat × Nat)
  sb    : Option (Nat × Nat)
  rop   : Option (Rop × ElemType)
  dst   : Option (Nat × Nat)
  src   : Option (Nat × Nat)
  since : Nat
  word  : Nat := 0
  off   : Nat := 0
  asked : Option (Nat × Nat) := none
  deriving DecidableEq, Repr

/-- One instance at this rank (R259 to R261). `loops` are the remembered starts by counter: number, word after the LOOP,
pass count; `sent` and `got` count the transfers by peer. -/
structure Instance where
  id     : Nat
  prog   : Nat
  at_    : Nat
  bar    : BitVec 9
  slots  : Vector Word 8
  offs   : Vector Nat 8
  c      : Vector Nat 4
  peerT  : Option Nat
  peerF  : Option Nat
  rank   : Nat
  n      : Nat
  loops  : List (Nat × Nat × Nat)
  pend   : List Transfer
  sent   : List (Nat × Nat)
  got    : List (Nat × Nat)
  ws     : List (Nat × Byte)
  /-- the requests of the commit at its CRUN have lower numbers (R108) -/
  after  : Nat
  deriving DecidableEq, Repr

/-- The collective engine of the die, as the task uses it. An instance's number is its program plus 64 times the count of
the program's CRUNs before it (R259). -/
structure Collectives where
  live    : List Instance
  /-- CRUNs by program -/
  counts  : List (Nat × Nat)
  /-- data that arrived before their receive -/
  inbox   : List CollData
  /-- data that left for ranks of this device -/
  outbox  : List CollData
  /-- abort notices that left for ranks of this device: instance and rank (R261) -/
  notices : List (Nat × Nat)
  deriving DecidableEq, Repr

/-- A group instruction that waits for a round (R265). -/
inductive RoundWait where
  | join | leave | prop
  deriving DecidableEq, Repr

/-- The agreement round that this device proposes (R285). -/
structure Round where
  desc     : Descriptor
  hash     : BitVec 256
  members  : List (BitVec 14)
  all      : List (BitVec 14)
  sigs     : List (BitVec 14 × List Byte)
  deadline : Nat
  deriving DecidableEq, Repr

/-- A decision that recipients have not all acknowledged. -/
structure Decision where
  adopt  : Bool
  round  : Round
  secret : List Byte
  unacked : List (BitVec 14)
  deriving DecidableEq, Repr

/-- The messages of an agreement round (R285). -/
inductive GroupMsg where
  | propose (hash : BitVec 256) (desc : Descriptor)
  | refuse (hash : BitVec 256)
  | signature (hash : BitVec 256) (sig : List Byte)
  | adopt (hash : BitVec 256) (desc : Descriptor) (sigs : List (BitVec 14 × List Byte)) (box : List Byte)
  | abort (hash : BitVec 256)
  | ack (hash : BitVec 256)
  deriving DecidableEq, Repr

/-- The group state of the device (R264, R265, R285, R367). `sent` holds the round messages that left, by recipient, newest
last. -/
structure GroupState where
  cached   : Option Descriptor
  lock     : Option (Word × BitVec 256)
  released : List (BitVec 256)
  round    : Option Round
  decisions : List Decision
  waits    : List (RoundWait × BitVec 9 × Descriptor)
  sent     : List (BitVec 14 × GroupMsg)
  deriving DecidableEq, Repr

/-- A reshard in progress (R266): the number under which its devices exchange data, the pieces that have not landed, what it has
written, the messages that have left by rank and number, and TIME since when it waits for data (R358). -/
structure Reshard where
  tensor : Nat
  id     : Nat
  bar    : BitVec 9
  todo   : List Nat
  ws     : List (Nat × Byte)
  sent   : List (Nat × Nat)
  since  : Nat
  deriving DecidableEq, Repr

/-! Scheduler (R268 to R277) -/

/-- One command stream's registers (R268). -/
structure CmdStream where
  base : Word
  log2 : Nat
  own  : Bool
  en   : Bool
  serr : Bool
  ridx : Lane32
  widx : Lane32
  /-- the entry of the record decoded last, until that is done (R269, R272) -/
  prev : Option Nat
  deriving DecidableEq, Repr

/-- The states of a scoreboard entry (R272). -/
inductive EntryState where
  | waiting | issued | done
  deriving DecidableEq, Repr

/-- A gang that has been placed (R42, R276): its first task, the cores of its tasks in order, its number in the order of
placement, or of saving while it is parked; whether it is a victim, the tasks saved so far, whether all are and it waits to resume, and
for each task that has halted for its save TIME at the halt and the overrun records made (R363). -/
structure Gang where
  first  : Nat
  cores  : List Nat
  order  : Nat
  saving : Bool
  saved  : List Nat
  parked : Bool
  halts  : List (Nat × Nat × Nat)
  deriving DecidableEq, Repr

/-- One entry of the scoreboard (R272): the stream and the kind, the predecessor that it waits for, its fence wait and
signal, its level with TIME since when it is ready there, its record's bytes; for a launch, what its tasks share, the homes
at its acceptance, the gangs placed so far, the tasks that have ended, NERR, STATUS, TEND and the available cores. -/
structure Score where
  id      : Nat
  stream  : Nat
  kind    : Nat
  state   : EntryState
  ord     : Option Nat
  wait    : Option (Nat × Word)
  signal  : Option (Nat × Word)
  level   : Nat
  joined  : Option Nat
  bytes   : List Byte
  launch  : Option Launch
  home    : Mem
  placed  : Nat
  gangs   : List Gang
  retired : List Nat
  nerr    : Nat
  status  : Nat
  tend    : Nat
  avail   : List Nat
  /-- the launch has been killed as a whole: no gang of it starts any more (R362) -/
  killed  : Bool
  /-- CRC mismatches of the image transfer in progress; with the third the launch places no more gangs (R274) -/
  misses  : Nat
  /-- the bytes of a transfer to the host have left (R272) -/
  moved   : Bool
  deriving DecidableEq, Repr

/-- One core's task: scoreboard entry and task index, and whether it has started. -/
structure Occupant where
  core    : Nat
  entry   : Nat
  task    : Nat
  started : Bool
  deriving DecidableEq, Repr

/-- An image at a dispatcher (R274): cluster, IMAGE, ASN, CHECK and its bytes. -/
structure Resident where
  cluster : Nat
  image   : Word
  asn     : BitVec 16
  check   : List Byte
  bytes   : List Byte
  deriving DecidableEq, Repr

/-- An entry of a core's retirement tracker (R64): the S queue's rest, or a copy tag, of a task. -/
structure Tracked where
  core  : Nat
  entry : Nat
  task  : Nat
  tag   : Option Nat
  deriving DecidableEq, Repr

/-- The command core and the stream controller. -/
structure Scheduler where
  streams   : Vector CmdStream 64
  fences    : Vector Word 64
  ageint    : Nat
  turn      : Nat
  board     : List Score
  /-- gangs placed so far -/
  nextGang  : Nat
  occupied  : List Occupant
  residents : List Resident
  tracker   : List Tracked
  /-- cores removed until the next device reset (R345) -/
  failed    : List Nat
  deriving DecidableEq, Repr

/-- The task's context as a save keeps it (R276). The layout in memory is private to the device; the model keeps the
values whole. -/
structure SavedContext where
  entry   : Nat
  task    : Nat
  pc      : Word
  regs    : Vector Word 64
  banks   : Vector Word 12
  tl      : Fin 3
  tvec    : Word
  l1      : TrapLevel
  l2      : TrapLevel
  trapen  : Bool
  vregs   : Vector VReg 64
  kregs   : Vector KReg 16
  mregs   : Vector MReg 16
  rebase  : Vector Word 24
  fpstat  : BitVec 6
  fpPend  : BitVec 6
  isn     : Nat
  wait    : Option Wait
  waitClk : Nat
  waitKind : Nat
  seen    : List (Nat × Lane32)
  launch  : Launch
  queues  : Queues
  ret     : List RetEntry
  nextRet : Nat
  fmt     : List FmtEntry
  nextFmt : Nat
  sitout  : List SitOut
  tags    : Tags
  bars    : Vector Barrier 512
  domArr  : Vector Nat 4
  scratch : List Host.Cell
  matrix  : MatrixState
  reel    : ReelState
  helper  : Helper
  caller  : Caller
  ordered : Ordered
  phased  : Bool
  ckpt    : Option Checkpoint
  /-- groups that the task has quiesced (R180) -/
  mine    : BitVec 16
  /-- an uncorrectable error has hit the staging, and no publishing instruction has reported it yet (R342) -/
  stagingBad : Bool
  deriving DecidableEq, Repr

/-! Fabric (R278 to R287, R352 to R357) -/

/-- A flit's worth of a packet that no flit has carried yet: whether it is the first, its bytes, and the packet with TIME when it
came to the port. -/
structure Chunk where
  first  : Bool
  data   : List Byte
  packet : Packet
  since  : Nat
  deriving DecidableEq, Repr

/-- One port (R280, R281, R352). `slots` are the free slots that the far side has advertised; `queue` holds what waits for a flit,
`retry` the unacknowledged flits, oldest first, each with the packet that it belongs to; `line` are the flits that went out, the
newest last, and `inbuf` the bytes of the packet that comes in. -/
structure Port where
  up       : Bool
  fseq     : BitVec 12
  expected : BitVec 12
  nakSent  : Bool
  slots    : Nat
  queue    : List Chunk
  retry    : List (Flit × Packet)
  line     : List Flit
  inbuf    : List Byte
  nakFor   : BitVec 12
  naks     : Nat
  progress : Nat
  retrains : List Nat
  deriving DecidableEq, Repr

/-- A deduplication window (R283), for one number of this device (R301): source, H, the set bits above it, the kept answers (number,
whether it met poison, bytes), the pieces of requests that have not all come, and since when a hole stands. -/
structure Window where
  own   : BitVec 14
  src   : BitVec 14
  high  : Nat
  bits  : List Nat
  olds  : List (Nat × Bool × List Byte)
  parts : List (Nat × List Byte)
  since : Nat
  deriving DecidableEq, Repr

/-- The gateways and ports of the device. -/
structure Fabric where
  ports   : Vector Port 36
  routes  : List (Nat × BitVec 36)
  /-- the next sequence number, by own and by target number (R282, R301) -/
  seqs    : List (BitVec 14 × BitVec 14 × Nat)
  windows : List Window
  /-- packets handed to the ports, newest last -/
  out     : List Packet
  /-- fragments of round messages that have not all come: source, place, whole length, bytes -/
  frags   : List (BitVec 14 × Nat × Nat × List Byte)
  inv     : Bool
  gvdrop  : BitVec 16
  authf   : BitVec 16
  badpk   : BitVec 16
  grto    : Nat
  devid   : BitVec 14
  devset  : Bool
  deriving DecidableEq, Repr

/-! Masters, security, time, power, log (R299 to R312, R360 to R368) -/

/-- The ownership registers and the election (R302, R303). -/
structure Ownership where
  owner   : BitVec 2
  elect   : Bool
  refused : Bool
  wrej    : Bool
  hpend   : Bool
  hfail   : Bool
  claims  : List (BitVec 2 × Byte)
  closes  : Nat
  succ    : BitVec 2
  expires : Nat
  deriving DecidableEq, Repr

/-- A key of the store: of a group at its VA, for one version (R306, R307). -/
structure GroupKey where
  group : Word
  ver : Word
  key : BitVec 256
  deriving DecidableEq, Repr

/-- The security processor (R304 to R309). `stage` counts the boot stages that have run, plus 8 after one has failed. -/
structure Security where
  alarm  : Bool
  nrange : BitVec 4
  ranges : Vector (Word × Word) 16
  meas   : Vector (BitVec 256) 8
  stage  : Nat
  keys   : List GroupKey
  leaf   : Nat
  report : List Byte
  /-- the nonce that the mailbox holds -/
  nonce  : List Byte
  frozen : Bool
  deriving DecidableEq, Repr

/-- The device error log (R360). -/
structure ErrorLog where
  base : Nat
  log2 : Nat
  en   : Bool
  lost : BitVec 16
  widx : Lane32
  ridx : Lane32
  made : Word
  deriving DecidableEq, Repr

/-- The rest of the device: bring-up, time unit, power, what the host last read, and the signals raised (R299, R310 to
R312). -/
structure Platform where
  ready   : Word
  error   : Word
  since   : Nat
  lock    : Bool
  offs    : Lane32
  pwrcap  : BitVec 12
  therm   : Byte
  /-- the value that the last host or window read returned -/
  lastRead : List Byte
  /-- the last host read met poison (R337) -/
  lastBad : Bool
  msix    : List Nat
  /-- a corrected-error record per unit: unit, time, errors since (R346) -/
  corrected : List (Nat × Nat × Nat)
  /-- corrected errors by HBM row since the scrub pass began (R341) -/
  rowErrors : List (Nat × Nat)
  /-- outside accesses that wait for a stack that is not ready (R311) -/
  waiting : List Event
  /-- the thermal halt stands (R312) -/
  hot : Bool
  /-- synchronisation intervals in a row whose offset lay within 25 ns (R310) -/
  near : Nat
  deriving DecidableEq, Repr

end Sys2Proof.Machine
end

