-- ==== Sys2Proof/Machine/State.lean ====
section
/-! DEFINITION. The state of the machine: one device, seen from one core in focus, and everything the manual gives it
(the list stands in INVENTORY.md under State), with the machine right after reset. -/

namespace Sys2Proof.Machine

/-- Why a step stops with a fault. The manual gives every illegal use an outcome of its own (R3, R332), so the one
reason is an outside access to an address that no part of the device answers. -/
inductive Fault where
  /-- An outside agent names a physical address that R74 reserves: raised by the host's accesses to memory. Safe: the
  manual gives the access no effect, and the model stops. -/
  | reservedAddress (pa : Nat)
  deriving DecidableEq, Repr

/-- Why a step has no meaning. -/
inductive Refusal where
  /-- The instruction has no meaning in this model yet: raised by its arm of the dispatch. Safe: nothing is claimed. -/
  | notModelled (mnemonic : String)
  deriving DecidableEq, Repr

/-- The registers of the trap levels (R174, R183), with the three banks of s56 to s59. -/
structure TrapRegs where
  tl     : Fin 3
  tvec   : Word
  l1     : TrapLevel
  l2     : TrapLevel
  banks  : Vector Word 12
  trapen : Bool
  deriving DecidableEq, Repr

/-- The device's registers that tasks depend on: packing formats (R83), stacked stores (R77), staging logs (R342), the
migration counters and pools (R82), and device time (R310). -/
structure DeviceRegs where
  pkfmt    : Vector Word 16
  sscfg    : Vector Word 4
  stglog   : Vector Word 4
  /-- die, index, ASN with the page's high bits, count -/
  migCount : List (Nat × Nat × Nat × Nat)
  migPool  : Vector (List Nat) 4
  /-- pages whose count has reached the threshold: die and VA -/
  migDue   : List (Nat × Nat)
  /-- pages that found their die's pool empty -/
  migEmpty : Nat
  /-- packed frames that page tables have named: first PA, bytes, PKF (R84, R85) -/
  packed   : List (Nat × Nat × Nat)
  time     : Nat
  timeFrac : Nat
  /-- ns by which TIME is still to be slewed, and TIME at the last of them (R310) -/
  slew     : Int
  slewed   : Nat
  deriving DecidableEq, Repr

/-- The machine. -/
structure State where
  -- the schedule as data (DESIGN CHOICE, log entry 1)
  agenda  : List Event
  input   : Input
  lag     : List Nat
  eager   : Bool
  mates   : List (Nat × MateAct)
  /-- even: the sequencer goes next; odd: an internal event does, in turn -/
  turn    : Nat
  /-- where free values are taken (DESIGN CHOICE, log entry 5) -/
  free    : Nat
  /-- CLK (R183) -/
  clk     : Nat
  -- the task in focus
  core    : BitVec 8
  status  : Status
  pc      : Word
  regs    : Vector Word 64
  trap    : TrapRegs
  vregs   : Vector VReg 64
  kregs   : Vector KReg 16
  mregs   : Vector MReg 16
  rebase  : Vector Word 24
  fpstat  : BitVec 6
  /-- flags that entries set and that no SQWAIT or FENCE has ordered before the sequencer yet (R125) -/
  fpPend  : BitVec 6
  isn     : Nat
  wait    : Option Wait
  /-- 1 and the clk that the sequencer's wait has lasted, or 0 with no wait in progress (R329) -/
  waitClk : Nat
  /-- the kind of the wait in progress (R329) -/
  waitKind : Nat
  seen    : List (Nat × Lane32)
  launch  : Launch
  queues  : Queues
  ret     : List RetEntry
  nextRet : Nat
  fmt     : List FmtEntry
  nextFmt : Nat
  sitout  : List SitOut
  tags    : Tags
  bars    : Vector Barrier 512
  /-- arrivals of the other members at the level-l domain barrier of the current generation (R164) -/
  domArr  : Vector Nat 4
  memory  : Memory
  device  : DeviceRegs
  ordered : Ordered
  /-- R61 -/
  revocable : Bool
  /-- the task has passed a PHASE boundary (R61) -/
  phased  : Bool
  ckpt    : Option Checkpoint
  /-- a spurious wake-up ends a WAITA (R166) -/
  wake    : Bool
  /-- the host debug interface has break enabled for the core (R175) -/
  breakOn : Bool
  /-- the trap that killed the context: TCAUSE, TVA, TSTS (R333) -/
  killed  : Option (Byte × Word × BitVec 22)
  -- the engines
  matrix  : MatrixState
  reel    : ReelState
  channel : Channel
  grid    : Farandole
  helper  : Helper
  caller  : Caller
  coll    : Collectives
  group   : GroupState
  reshards : List Reshard
  -- the rest of the device
  sched   : Scheduler
  saved   : List SavedContext
  fabric  : Fabric
  owner   : Ownership
  sec     : Security
  log     : ErrorLog
  plat    : Platform
  deriving DecidableEq, Repr

/-- No trap taken at this level (R183). -/
def TrapLevel.reset : TrapLevel := ⟨0, 0, 0, 0, none⟩

/-- No kernel: every field zero (DESIGN CHOICE, log entry 3). -/
def Header.reset : Header := ⟨0, 0, 0, 0, 0, 0, 0, 0, 0, false, false, false, 0, 0, [], 0, 0, 0, 0⟩

/-- No launch: every field zero (DESIGN CHOICE, log entry 3). -/
def Launch.reset : Launch :=
  { header := Header.reset, tables := ⟨[], [], [], [], []⟩, image := 0, check := [], root := 0, asn := 0, ttab := 0, group := 0, mesh := 0, save := 0, crec := 0,
    tpriv := 0, data := 0, args := [], seed := 0, det := false, ntask := 0, m1 := 0, m2 := 0, m3 := 0, task := 0,
    level := 0, entry := 0, rank4 := 0, gsize := 0 }

/-- An empty queue (R45). -/
def QueueState.reset : QueueState := ⟨[], none, none, 0, 0⟩

/-- The queues, their tokens and halts at task start (R45, R325). -/
def Queues.reset : Queues :=
  ⟨QueueState.reset, QueueState.reset, QueueState.reset, 0, 0, 0, 0, 0, 0, 0, 0⟩

/-- A barrier at task start (R170). -/
def Barrier.reset : Barrier := ⟨0, 1, 0, 0, 0, [], []⟩

/-- Memory with nothing listed, nothing staged and nothing cached. -/
def Memory.reset : Memory :=
  { home := [], snap := [], own := [], staging := [], stagingBad := false, roBase := [], roOwn := [], wrote := [],
    openTime := 0, acquired := [], past := [], peerSnap := [], peerImm := [], cached := [], cachedBy := 0, counts := [], poison := [],
    scratch := [], scrPoison := [], tlb := [], tlbClu := [], tlbDie := [], l1 := [], blocks := [], nextBlock := 0, descs := [], reqs := [], nextReq := 0, uncertain := [], vatom := none, failed := [], vaPages := [], engDone := [] }

/-- The device's own registers after reset (R77, R83, R342); TIME is log entry 3's, DESIGN CHOICE. -/
def DeviceRegs.reset : DeviceRegs :=
  { pkfmt := Vector.replicate 16 0, sscfg := Vector.replicate 4 0, stglog := Vector.replicate 4 0, migCount := [],
    migPool := Vector.replicate 4 [], migDue := [], migEmpty := 0, packed := [], time := 0, timeFrac := 0, slew := 0, slewed := 0 }

/-- No lease; HOLDER 3; every slot open; buffers owned by no core (R216, R218, R221). -/
def MatrixState.reset : MatrixState :=
  { holder := none, used := 0, last := 3, slots := Vector.replicate 16 4, pending := [],
    bufs := Vector.replicate 2 ⟨none, 0, 0, 0, 0, []⟩, invalid := [], reload := false, asking := [] }

/-- A closed Reel (R233). -/
def ReelState.reset : ReelState :=
  { mode := .closed, pol := 0, drop := false, dv := false, spill := false, seg := 0, pos := 0, quota := 0, tape := 0,
    spillVa := 0, start := 0, back := 0, seg0 := 0, nrec := 0, frame := [], lastVals := [], records := [],
    broken := none, cursor := 0, opening := none, forward := 0 }

/-- A multicast table with no entry. -/
def McastTable.reset : McastTable := ⟨Vector.replicate 16 0, 0, 0⟩

/-- An idle channel with no multicast entry. -/
def Channel.reset : Channel :=
  { cmds := [], nextId := 0, table := McastTable.reset, tableOf := none, tables := [], mine := 0 }

/-- An empty grid. -/
def Farandole.reset : Farandole :=
  { queue := [], run := none, resident := none, misses := 0, fload := none, floaded := none }

/-- An idle helper. -/
def Helper.reset : Helper :=
  { running := false, stopping := false, pc := 0, offs := Vector.replicate 4 0, counters := [], issued := [], fault := none }

/-- Terms all zero and not armed. -/
def Caller.reset : Caller := { terms := Vector.replicate 32 ⟨0, false, 0, false, false, none⟩, pulses := [] }

/-- A stream's registers after reset (R268). -/
def CmdStream.reset : CmdStream :=
  { base := 0, log2 := 4, own := false, en := false, serr := false, ridx := 0, widx := 0, prev := none }

/-- The scheduler after reset: an empty scoreboard, and AGEINT 10,000 (R268). -/
def Scheduler.reset : Scheduler :=
  { streams := Vector.replicate 64 CmdStream.reset, fences := Vector.replicate 64 0, ageint := 10000, turn := 0, board := [],
    nextGang := 0, occupied := [], residents := [], tracker := [], failed := [] }

/-- A port before its training (R311). -/
def Port.reset : Port :=
  { up := false, fseq := 0, expected := 0, nakSent := false, slots := 0, queue := [], retry := [], line := [], inbuf := [],
    nakFor := 0, naks := 0, progress := 0, retrains := [] }

/-- The fabric after reset: no route (DESIGN CHOICE, log entry 3), GRTO 50,000 (R284), DEVID 0 (R301). -/
def Fabric.reset : Fabric :=
  { ports := Vector.replicate 36 Port.reset, routes := [], seqs := [], windows := [], out := [], frags := [], inv := false,
    gvdrop := 0, authf := 0, badpk := 0, grto := 50000, devid := 0, devset := false }

/-- No owner (R302). -/
def Ownership.reset : Ownership :=
  { owner := 3, elect := false, refused := false, wrej := false, hpend := false, hfail := false, claims := [], closes := 0,
    succ := 3, expires := 0 }

/-- The security processor after reset (R304 to R306). -/
def Security.reset : Security :=
  { alarm := false, nrange := 0, ranges := Vector.replicate 16 (0, 0), meas := Vector.replicate 8 0, stage := 0, keys := [],
    leaf := 0, report := [], nonce := List.replicate 32 0, frozen := false }

/-- The log after reset (R360). -/
def ErrorLog.reset : ErrorLog := { base := 0, log2 := 6, en := false, lost := 0, widx := 0, ridx := 0, made := 0 }

/-- The platform after reset: nothing ready, PWRCAP 2,600 (R311, R312). -/
def Platform.reset : Platform :=
  { ready := 0, error := 0, since := 0, lock := false, offs := 0, pwrcap := 2600, therm := 0, lastRead := [],
    lastBad := false, msix := [], corrected := [], rowErrors := [], waiting := [], hot := false, near := 0 }

/-- The machine right after reset. -/
def State.reset : State :=
  { agenda := [], input := Input.none, lag := [], eager := true, mates := [], turn := 0, free := 0, clk := 0, core := 0,
    status := .none, pc := 0, regs := Vector.replicate 64 0,
    trap := { tl := 0, tvec := 0, l1 := TrapLevel.reset, l2 := TrapLevel.reset, banks := Vector.replicate 12 0,
              trapen := false },
    vregs := Vector.replicate 64 0, kregs := Vector.replicate 16 0, mregs := Vector.replicate 16 0,
    rebase := Vector.replicate 24 0, fpstat := 0, fpPend := 0, isn := 0, wait := none, waitClk := 0, waitKind := 0, seen := [],
    launch := Launch.reset, queues := Queues.reset, ret := [], nextRet := 0, fmt := [], nextFmt := 0, sitout := [],
    tags := ⟨0, 0, Vector.replicate 64 0⟩, bars := Vector.replicate 512 Barrier.reset, domArr := Vector.replicate 4 0,
    memory := Memory.reset, device := DeviceRegs.reset, ordered := ⟨[], [], 0⟩, revocable := false, phased := false,
    ckpt := none, wake := false, breakOn := false, killed := none,
    matrix := MatrixState.reset, reel := ReelState.reset, channel := Channel.reset, grid := Farandole.reset,
    helper := Helper.reset, caller := Caller.reset, coll := ⟨[], [], [], [], []⟩,
    group := ⟨none, none, [], none, [], [], []⟩, reshards := [], sched := Scheduler.reset, saved := [],
    fabric := Fabric.reset, owner := Ownership.reset, sec := Security.reset, log := ErrorLog.reset,
    plat := Platform.reset }

end Sys2Proof.Machine
end

