-- ==== Sys2Proof/Machine/Log.lean ====
section
/-! DEFINITION. Installing bytes at their homes (R91, R99, R104), the device error log and the completion signals (R299, R346, R347, R360, R361). -/

namespace Sys2Proof.Machine

namespace Cause

/-- The TCAUSE code (R321). -/
def code : Cause → Byte
  | undef => 0x01 | regbound => 0x02 | scrbound => 0x03 | barbound => 0x04 | tagbound => 0x05 | idivz => 0x08
  | misalign => 0x09 | xlate => 0x10 | prot => 0x11 | tilepage => 0x12 | partialT => 0x13 | tensor => 0x14
  | fmtunder => 0x18 | fmtbad => 0x19 | qfault => 0x20 | tokstarve => 0x21 | reelfull => 0x28 | reeldiv => 0x29
  | detviol => 0x30 | fabric => 0x38 | groupver => 0x39 | eccunc => 0x40 | syscall => 0x48 | brk => 0x49
  | lease => 0x4A | watchdog => 0x4B

end Cause

namespace State

/-- The Count of a line at its home (R166). -/
def lineCount (s : State) (l : Nat) : Lane32 :=
  match s.memory.counts.find? fun c => c.1 = l / 128 with
  | some c => c.2
  | none => 0

/-- The Counts after one installation in each of these lines. -/
def bumpCounts (cs : List (Nat × Lane32)) (lines : List Nat) : List (Nat × Lane32) :=
  lines.foldl (fun cs l =>
    match cs.find? fun c => c.1 = l with
    | some c => (l, c.2 + 1) :: cs.filter fun c => c.1 ≠ l
    | none => (l, 1) :: cs) cs

/-- The physical bytes that an installation touches: a packed view touches its frame. -/
def physOf (l : Nat) : Nat := if isPacked l then addrOf l else l

/-- The HBM stack of a location, if it lies in one (R75). -/
def stackOf (l : Nat) : Option Nat :=
  if regionOf (physOf l) = 0 ∧ physOf l < 0xC000000000 then some (physOf l / 4096 % 12) else none

/-- The location's stack has failed and is not ready: its accesses end (R368). -/
def stackFailed (s : State) (l : Nat) : Bool :=
  match stackOf l with
  | some k => ¬ s.plat.ready.getLsbD k ∧ s.plat.error.getLsbD k
  | none => false

/-- What of a write reaches its homes: that to a failed stack is discarded (R368). -/
def liveWrites (s : State) (ws : List (Nat × Byte)) : List (Nat × Byte) :=
  if s.plat.error.extractLsb' 0 12 = 0 then ws else ws.filter fun w => ¬ s.stackFailed w.1

/-- Poison after an installation: a unit that it covers whole is clean (R337). -/
def clearPoison (p : List Nat) (locs : List Nat) : List Nat :=
  p.filter fun u => ¬ (List.range 64).all fun i => locs.contains (u + i)

/-- Installs local bytes at their homes as one event (R91, R99, R104). What re-packing leaves open comes from the running counter
of free values; in a DET launch it is the same for each event, so that nothing timed decides it (R293).
DESIGN CHOICE: log entry 5. -/
def install (s : State) (ws : List (Nat × Byte)) : State :=
  let ws := s.liveWrites ws
  if ws.isEmpty then s else
  let rnd := fun i => (Config.freeWord (if s.launch.det then i else s.free + i)).toNat
  { s with
    free := if ws.any fun w => isPacked w.1 then s.free + 128 else s.free
    memory := { s.memory with
      home := homeWrite s.device.pkfmt rnd s.memory.home ws
      past := (s.device.time, s.memory.home) :: s.memory.past
      counts := bumpCounts s.memory.counts ((ws.map fun w => physOf w.1 / 128).eraseDups)
      poison := clearPoison s.memory.poison (ws.map (·.1)) } }

/-- The homes as they were at a TIME (R100). -/
def homeAt (s : State) (time : Nat) : Mem :=
  match (s.memory.past.filter fun p => time < p.1).getLast? with
  | some p => p.2
  | none => s.memory.home

/-- The scoreboard entry of a number (R272). -/
def score (s : State) (id : Nat) : Option Score := s.sched.board.find? fun e => e.id = id

/-- Replaces the scoreboard entry of the same number. -/
def setScore (s : State) (e : Score) : State :=
  { s with sched := { s.sched with board := s.sched.board.map fun x => if x.id = e.id then e else x } }

/-- An MSI-X vector is signalled (R299). -/
def signalHost (s : State) (v : Nat) : State := { s with plat := { s.plat with msix := s.plat.msix ++ [v] } }

/-- A record is made (R360, R361): the launch's scoreboard entry or none, and the 32-byte body. It is written while the log
is enabled and has room, and the security processor runs (R368); else LOST counts. -/
def record (s : State) (entry : Option Nat) (body : List Byte) : State :=
  let l := s.log
  let sc := entry.bind s.score
  let stream := match sc with | some e => e.stream | none => 0xFF
  let no := match sc with | some e => e.id % 256 | none => 0xFF
  let head := natToBytes 8 s.device.time ++ natToBytes 8 l.made.toNat ++ natToBytes 1 stream ++ natToBytes 1 no
    ++ natToBytes 14 0
  let slot := l.widx.toNat % 2 ^ l.log2
  if l.en ∧ (l.widx - l.ridx).toNat < 2 ^ l.log2 ∧ ¬ s.plat.error.getLsbD 57 then
    let s := s.install ((head ++ body).zipIdx.map fun p => (l.base * 4096 + slot * 64 + p.2, p.1))
    { s with log := { l with widx := l.widx + 1, made := l.made + 1 } }.signalHost
      (match sc with | some e => e.stream | none => 0)
  else { s with log := { l with lost := if l.lost = 0xFFFF then l.lost else l.lost + 1, made := l.made + 1 } }

/-- The launch of the task in focus, while one runs. -/
def ownEntry (s : State) : Option Nat := if s.status = .none then none else some s.launch.entry

/-- The body of an engine or fabric record (R347). -/
def engineBody (kind cause detail unit id : Nat) (va : Word) (peer count task : Nat) : List Byte :=
  natToBytes 1 kind ++ natToBytes 1 cause ++ natToBytes 1 detail ++ natToBytes 1 0 ++ natToBytes 2 unit ++ natToBytes 2 id
    ++ natToBytes 8 va.toNat ++ natToBytes 4 peer ++ natToBytes 4 count ++ natToBytes 4 task ++ natToBytes 4 0

/-- No device concerned. -/
def noPeer : Nat := 0xFFFFFFFF

/-- The body of a memory record (R346). -/
def memoryBody (kind detail unit count pa : Nat) (va : Word) (task : Nat) : List Byte :=
  natToBytes 1 kind ++ natToBytes 1 detail ++ natToBytes 2 unit ++ natToBytes 4 count ++ natToBytes 8 pa
    ++ natToBytes 8 va.toNat ++ natToBytes 4 task ++ natToBytes 4 0

/-- The body of a system record: KIND, byte 1, bytes 2 to 3, 4 to 7, and three words and a byte (R361). -/
def systemBody (kind b1 h2 w4 d8 d16 w24 b28 : Nat) : List Byte :=
  natToBytes 1 kind ++ natToBytes 1 b1 ++ natToBytes 2 h2 ++ natToBytes 4 w4 ++ natToBytes 8 d8 ++ natToBytes 8 d16
    ++ natToBytes 4 w24 ++ natToBytes 1 b28 ++ natToBytes 3 0

/-- The memory record of a fault that consumed an uncorrectable error (R346). -/
def consumedRecord (s : State) (t : Trap) : State :=
  if t.cause = .eccunc then
    s.record s.ownEntry (memoryBody 0x11 t.detail s.core.toNat 1 0 t.va s.launch.task)
  else s

/-- A record of one of the task's engines (R347), after that of an uncorrectable error that it consumed (R346). -/
def engineRecord (s : State) (kind : Nat) (t : Option Trap) (id : Nat) (peer count : Nat) : State :=
  let c := match t with | some t => t.cause.code.toNat | none => 0
  let d := match t with | some t => t.detail | none => 0
  let va := match t with | some t => t.va | none => 0
  let s := match t with | some t => s.consumedRecord t | none => s
  s.record s.ownEntry (engineBody kind c d s.core.toNat id va peer count s.launch.task)

end State

end Sys2Proof.Machine
end

