-- ==== Sys2Proof/Machine/Ops.lean ====
section
/-! DEFINITION. The named operations over the state: registers, trap entry and return (R174, R175, R371), translation
(R78 to R82), memory by kind of access (R91 to R107), and scratchpad (R65 to R68). -/

namespace Sys2Proof.Machine

/-- The outcome of an operation that may fault or have to wait. -/
inductive Res (α : Type) where
  | ok (a : α) (s : State)
  | trap (t : Trap)
  | wait (s : State)
  /-- a fault that leaves the effects that its rule names (R323) -/
  | fail (t : Trap) (s : State)

namespace Res

/-- One operation after another. -/
def bind {α β : Type} (r : Res α) (f : α → State → Res β) : Res β :=
  match r with
  | .ok a s => f a s
  | .trap t => .trap t
  | .wait s => .wait s
  | .fail t s => .fail t s

/-- The result of a check that can only fault. -/
def ofExcept {α : Type} (r : Except Trap α) (s : State) : Res α :=
  match r with
  | .ok a => .ok a s
  | .error t => .trap t

end Res

/-- The outcome type of a meaning. -/
abbrev Out := Host.Outcome State Fault Refusal

/-- TSTS of a fault: underlying cause, detail, queue and entry (R183, R322). -/
def stsOf (t : Trap) (q : Nat) (entryNo : Nat) : BitVec 22 :=
  BitVec.ofNat 22 (t.cause.code.toNat + t.detail % 16 * 2 ^ 8 + q * 2 ^ 12 + entryNo % 256 * 2 ^ 14)

namespace State

/-- Where s56 to s59 of the current trap level stand (R174). -/
def bankIx (s : State) (r : Reg) : Nat := 4 * s.trap.tl.val + (r.toNat - 56)

/-- Reads a scalar register: s0 is zero, and s56 to s59 name the current level's bank (R153, R174). -/
def getReg (s : State) (r : Reg) : Word :=
  if r = 0 then 0
  else if 56 ≤ r.toNat ∧ r.toNat < 60 then s.trap.banks.getD (s.bankIx r) 0
  else s.regs[r.toNat]'r.isLt

/-- Writes a scalar register; a write to s0 is discarded (R153). -/
def setReg (s : State) (r : Reg) (v : Word) : State :=
  if r = 0 then s
  else if 56 ≤ r.toNat ∧ r.toNat < 60 then
    { s with trap := { s.trap with banks := s.trap.banks.setIfInBounds (s.bankIx r) v } }
  else { s with regs := s.regs.set r.toNat v r.isLt }

/-- The scalar registers as a queue entry takes them at issue (R29). -/
def regFile (s : State) : Vector Word 64 := Vector.ofFn fun i => s.getReg (BitVec.ofNat 6 i.val)

/-- The header declares this scalar register (R153, R331). -/
def regOk (s : State) (r : Reg) : Bool := r.toNat < s.launch.header.ns ∨ 56 ≤ r.toNat

/-- All of these scalar registers are declared. -/
def regsOk (s : State) (rs : List Reg) : Bool := rs.all s.regOk

/-- The instruction is complete: the pc moves past its words, it counts once in ISN (R124), and no wait goes on. -/
def advance (s : State) (words : Nat) : State :=
  { s with pc := s.pc + BitVec.ofNat 64 (4 * words), isn := s.isn + 1, wait := none, waitClk := 0 }

/-- The instruction is complete and execution goes on at an address. -/
def jump (s : State) (target : Word) : State :=
  { s with pc := target, isn := s.isn + 1, wait := none, waitClk := 0 }

/-- A fresh open value (DESIGN CHOICE, log entry 5). -/
def freeWord (s : State) : Word := Config.freeWord s.free

/-- The next open value will be another one. -/
def bumpFree (s : State) : State := { s with free := s.free + 1 }

/-- What the marks of R371 keep of the wait in progress. -/
def keptWait (s : State) : Option Wait :=
  match s.wait with
  | some (.pub _) => none
  | some (.exit _) => none
  | some .fload => none
  | w => w

/-- The registers of a level. -/
def level (s : State) (n : Fin 3) : TrapLevel := if n = 2 then s.trap.l2 else s.trap.l1

/-- Replaces the registers of a level. -/
def setLevel (s : State) (n : Fin 3) (l : TrapLevel) : State :=
  if n = 2 then { s with trap := { s.trap with l2 := l } } else { s with trap := { s.trap with l1 := l } }

/-- An entry is an immediate tile access (R112, R116). -/
def isImmTile : Instr → Bool
  | .tld o | .tst o => o.ord = .imm
  | .tacc _ => true
  | _ => false

/-- The entry has started, and a kill lets it complete (R333): its tokens are popped, its queue is not halted at it, and it is no
immediate tile access, whose locks are released with no byte installed (R116). -/
def outlivesKill (q : QueueState) (e : Entry) : Bool := e.stage = .run ∧ q.halt.isNone ∧ ¬ isImmTile e.instr

/-- Entries of a queue that a kill leaves: the one that has started (R333); of a running table the micro-order that has, with
which the table ends.
DEDUCED: log entry 62. -/
def killQueue (q : QueueState) : QueueState :=
  match q.table with
  | some t =>
    if t.cur.any (outlivesKill q) then
      { q with entries := q.entries.take 1, table := some { t with stop := true }, halt := none }
    else { q with entries := [], table := none, halt := none }
  | none => { q with entries := q.entries.take 1 |>.filter (outlivesKill q), halt := none }

/-- The context is stopped (R333): the sequencer and the helper stop, entries that have not started are discarded, and staging is
discarded. -/
def stopContext (s : State) (cause : Byte) (va : Word) (sts : BitVec 22) : State :=
  { s with
    status := .killed
    killed := some (cause, va, sts)
    wait := none
    waitClk := 0
    helper := { s.helper with running := false, stopping := false }
    queues := { s.queues with l := killQueue s.queues.l, c := killQueue s.queues.c, s := killQueue s.queues.s }
    memory := { s.memory with staging := [], own := [] } }

/-- The task ends with an error record: it counts in NERR, and its launch ends with STATUS 5 (R271, R333). -/
def countError (s : State) : State :=
  match s.score s.launch.entry with
  | some e => s.setScore { e with nerr := e.nerr + 1, status := if e.status = 0 then 5 else e.status }
  | none => s

/-- The context is killed by a trap (R174, R333, R362). -/
def kill (s : State) (cause : Byte) (pc va : Word) (sts : BitVec 22) : State :=
  let s := s.record s.ownEntry
    (systemBody 0x30 s.trap.tl.val s.core.toNat s.launch.task pc.toNat va.toNat sts.toNat cause.toNat)
  s.countError.stopContext cause va sts

/-- Trap entry (R174), with the resume mark of an abandoned wait (R371). -/
def takeTrap (s : State) (cause : Byte) (pc va : Word) (sts : BitVec 22) (mark : Option Wait) : State :=
  if s.trap.tl = 2 ∨ s.trap.tvec = 0 then s.kill cause pc va sts
  else
    let n : Fin 3 := if s.trap.tl = 0 then 1 else 2
    let s := s.setLevel n ⟨pc, cause, va, sts, mark⟩
    { s with
      trap := { s.trap with tl := n }
      pc := s.trap.tvec + BitVec.ofNat 64 (0x100 * (n.val - 1))
      memory := { s.memory with failed := [] }
      wait := none
      waitClk := 0 }

/-- A precise trap of the sequencer at the current instruction (R321 to R323). -/
def trapAt (s : State) (t : Trap) (mark : Option Wait := none) : State :=
  (s.consumedRecord t).takeTrap t.cause.code s.pc t.va (stsOf t 3 0) mark

end State

/-- A precise trap as an outcome. -/
def trapNow (s : State) (t : Trap) : Out := .next (s.trapAt t)

/-- A wait of the sequencer: the instruction stays at the pc, and the clk of the wait count from here on; after 2^32 of them it traps
WATCHDOG with the kind of the wait (R329). -/
def stall (s : State) (kind : Nat) : Out :=
  if s.waitClk > Config.watchdogClk then .next (s.trapAt ⟨.watchdog, kind, 0⟩ s.keptWait)
  else .next { s with waitClk := max s.waitClk 1, waitKind := kind }

/-- A wait that no watchdog ends: an access that another device or the L1 has not answered yet. -/
def hold (s : State) : Out := .next s

/-- The instruction runs only with its scalar registers declared, else REGBOUND (R153). -/
def withRegs (s : State) (rs : List Reg) (k : Out) : Out :=
  if s.regsOk rs then k else trapNow s { cause := .regbound }

/-! Translation -/

/-- What an access needs of a page. -/
inductive Access where
  | load | store | atomic | fetch
  deriving DecidableEq, Repr

/-- The level-l index of a virtual address (R78). -/
def vaIndex (va level : Nat) : Nat := va / 2 ^ (43 - 9 * level) % 512

/-- Bytes that a leaf of a level maps (R78). -/
def pageSize (level : Nat) : Nat := 2 ^ (43 - 9 * level)

/-- A trap of a translation. -/
def xlate (detail va : Nat) : Trap := ⟨.xlate, detail, BitVec.ofNat 64 va⟩

namespace Leaf

/-- The fields of a leaf (R79). -/
def w (l : Word) : Bool := l.getLsbD 1
def x (l : Word) : Bool := l.getLsbD 2
def pk (l : Word) : Bool := l.getLsbD 3
def mode (l : Word) : Nat := (l.extractLsb' 4 3).toNat
def ordered (l : Word) : Bool := l.getLsbD 7
def mth (l : Word) : Nat := (l.extractLsb' 8 4).toNat
def pkf (l : Word) : Nat := (l.extractLsb' 12 4).toNat
def peer (l : Word) : Nat := (l.extractLsb' 16 14).toNat
def frame (l : Word) : Nat := (l.extractLsb' 32 32).toNat

end Leaf

/-- The frames that are known to be packed, with what a leaf says of its own (R84): a home learns it from the page tables that are
walked, and the last one holds (DESIGN CHOICE, log entry 53). -/
def DeviceRegs.notePacked (d : DeviceRegs) (leaf : Word) (size : Nat) : DeviceRegs :=
  if Leaf.mode leaf ≠ 0 ∧ Leaf.mode leaf ≠ 4 then d
  else
    let pa := Leaf.frame leaf * 65536
    let rest := d.packed.filter fun f => f.1 ≠ pa
    { d with packed := if Leaf.pk leaf then (pa, size, Leaf.pkf leaf) :: rest else rest }

/-- The location at which every agent but a raw copy sees a byte of local memory: packed frames expanded (R85, R299). -/
def DeviceRegs.viewOf (d : DeviceRegs) (pa : Nat) : Nat :=
  match d.packed.find? fun f => f.1 ≤ pa ∧ pa < f.1 + f.2.1 with
  | some f => regionBase (packView f.2.2 f.2.1) + pa
  | none => pa

/-- The first PA of the stacked store of a die, and bytes of its window (R74). -/
def stackBase (d : Nat) : Nat := 0xC000000000 + d * 0x10000000

/-- Where a local physical address lies (R74, R77): HBM, a stacked store, beyond a stacked store, or nowhere. -/
inductive PhysKind where
  | hbm | stacked | beyond | reserved
  deriving DecidableEq, Repr

/-- The target of a physical address (R74, R77). -/
def physKind (ss : Vector Word 4) (pa : Nat) : PhysKind :=
  if pa < 0xC000000000 then .hbm
  else if pa < stackBase 4 then
    let d := (pa - stackBase 0) / 0x10000000
    let size := ((ss.getD d 0).extractLsb' 0 4).toNat * 2 ^ 25
    if (pa - stackBase 0) % 0x10000000 < size then .stacked else .beyond
  else .reserved

/-- The die of a physical address's home (R75, R77). -/
def homeDie (pa : Nat) : Nat :=
  if pa < 0xC000000000 then pa / 4096 % 12 / 3 else (pa - stackBase 0) / 0x10000000 % 4

/-- The home slice of a physical address (R75, R77). -/
def homeSlice (pa : Nat) : Nat :=
  if pa < 0xC000000000 then
    let u := pa / 4096
    (u % 12 / 3) * 64 + (u / 12 % 2) * 32 + pa / 128 % 32
  else homeDie pa * 64 + pa / 128 % 64

/-- The checks of a leaf (R80), for the address it translates. -/
def leafCheck (ss : Vector Word 4) (level va : Nat) (e : Word) : Option Trap :=
  let m := Leaf.mode e
  if level = 3 ∧ e.getLsbD 31 then some (xlate 11 va)
  else if e.getLsbD 30 then some (xlate 11 va)
  else if 6 ≤ m then some (xlate 4 va)
  else if (level = 2 ∧ Leaf.frame e % 2 ^ 9 ≠ 0) ∨ (level = 1 ∧ Leaf.frame e % 2 ^ 18 ≠ 0) then some (xlate 5 va)
  else if Leaf.pk e ∧ m ≠ 0 then some (xlate 6 va)
  else
    let pa := Leaf.frame e * 65536 + va % pageSize level
    if m = 0 ∧ physKind ss pa ≠ .hbm then some (xlate 7 va)
    else if m = 4 then
      match physKind ss pa with
      | .stacked => none
      | .beyond => some (xlate 10 va)
      | _ => some (xlate 7 va)
    else none

/-- Reads an 8-byte page-table entry at its home, as published (R81); a poisoned one faults ECCUNC with detail 6, and one in a stack
that has failed with detail 1 (R337, R368).
DEDUCED: log entry 25. -/
def readPte (s : State) (va a : Nat) : Except Trap Word :=
  if s.memory.poison.any (· = a / 64 * 64) then .error ⟨.eccunc, 6, BitVec.ofNat 64 va⟩
  else if s.stackFailed a then .error ⟨.eccunc, 1, BitVec.ofNat 64 va⟩
  else .ok (BitVec.ofNat 64 (bytesToNat (Mem.readBytes s.memory.home a 8)))

/-- The walk from a table at a level (R78 to R80). `fuel` counts the levels left. -/
def walkFrom (s : State) (va : Nat) : (fuel table level : Nat) → Except Trap (Word × Nat)
  | 0, _, _ => .error (xlate 1 va)
  | fuel + 1, table, level =>
    match readPte s va (table + 8 * vaIndex va level) with
    | .error t => .error t
    | .ok e =>
      if ¬ e.getLsbD 0 then .error (xlate 1 va)
      else if level = 0 ∧ e.getLsbD 31 then .error (xlate 2 va)
      else if level = 3 ∨ e.getLsbD 31 then
        match leafCheck s.device.sscfg level va e with
        | some t => .error t
        | none => .ok (e, pageSize level)
      else if (e &&& 0x000000007FF0FFFE) ≠ 0 then .error (xlate 3 va)
      else walkFrom s va fuel (Leaf.frame e * 65536 + (e.extractLsb' 16 4).toNat * 4096) (level + 1)

namespace State

/-- The die of the core in focus (R4). -/
def die (s : State) : Nat := s.core.toNat / 64

/-- The cluster of the core in focus (R4). -/
def cluster (s : State) : Nat := s.core.toNat / 4

/-- A TLB entry translates an address of an address space. -/
def covers (asn : BitVec 16) (va : Nat) (e : TlbEntry) : Bool := e.asn = asn ∧ e.base ≤ va ∧ va < e.base + e.size

/-- The entry of a shared TLB's unit that translates an address. -/
def sharedEntry (l : List (Nat × TlbEntry)) (unit : Nat) (asn : BitVec 16) (va : Nat) : Option TlbEntry :=
  (l.find? fun p => p.1 = unit ∧ covers asn va p.2).map (·.2)

/-- The entry that translates an address: the core's own TLB comes first, then its cluster's, then its die's (R81). -/
def cachedLeaf (s : State) (va : Nat) : Option TlbEntry :=
  match s.memory.tlb.find? (covers s.launch.asn va) with
  | some e => some e
  | none =>
    match sharedEntry s.memory.tlbClu s.cluster s.launch.asn va with
    | some e => some e
    | none => sharedEntry s.memory.tlbDie s.die s.launch.asn va

/-- The address lies in a window beyond the stacked store as it stands (R77), whatever a TLB holds. -/
def beyondWindow (s : State) (leaf : Word) (size va : Nat) : Bool :=
  Leaf.mode leaf = 4 ∧ physKind s.device.sscfg (Leaf.frame leaf * 65536 + va % size) = .beyond

/-- The leaf that translates a virtual address and the bytes it maps: from a TLB, else by a walk (R78 to R81). -/
def leafOf (s : State) (va : Nat) : Except Trap (Word × Nat) :=
  if 2 ^ 52 ≤ va then .error (xlate 8 va)
  else
    match s.cachedLeaf va with
    | some e => if s.beyondWindow e.leaf e.size va then .error (xlate 10 va) else .ok (e.leaf, e.size)
    | none => walkFrom s va 4 (s.launch.root.toNat % 2 ^ 48) 0

/-- The location that a leaf gives a virtual address: `raw` sees a packed page as its frame (R85), a format that is not valid
faults either view (R84), and `plain` sees a
fabric-cached page at the local slice (R106). -/
def leafLoc (s : State) (leaf : Word) (size va : Nat) (raw plain : Bool) : Except Trap Nat :=
  let pa := Leaf.frame leaf * 65536 + va % size
  match Leaf.mode leaf with
  | 0 | 4 =>
    if Leaf.pk leaf then
      match PackFmt.ofWord (s.device.pkfmt.getD (Leaf.pkf leaf) 0) with
      | none => .error (xlate 9 va)
      | some _ => .ok (if raw then pa else regionBase (packView (Leaf.pkf leaf) size) + pa)
    else .ok pa
  | 2 => .ok (if plain then regionBase (cachedRegion (Leaf.peer leaf)) + pa
              else regionBase (peerRegion (Leaf.peer leaf)) + pa)
  | 5 => .ok (regionBase hostRegion + pa)
  | _ => .ok (regionBase (peerRegion (Leaf.peer leaf)) + pa)

/-- The permission of an access (R80, R162).
DEDUCED: log entry 37. -/
def permit (leaf : Word) (k : Access) (va : Nat) : Option Trap :=
  let prot (d : Nat) : Trap := ⟨.prot, d, BitVec.ofNat 64 va⟩
  match k with
  | .load => none
  | .store => if Leaf.w leaf then none else some (prot 1)
  | .fetch => if Leaf.x leaf then none else some (prot 2)
  | .atomic =>
    if ¬ Leaf.w leaf then some (prot 1) else if Leaf.mode leaf = 5 then some (prot 3) else none

/-- The location of one byte of an access, with every check of its page (R80, R113, R159). -/
def locOf (s : State) (k : Access) (raw plain : Bool) (va : Nat) : Except Trap Nat :=
  match s.leafOf va with
  | .error t => .error t
  | .ok (leaf, size) =>
    match permit leaf k va with
    | some t => .error t
    | none => s.leafLoc leaf size va raw plain

/-- The locations of the bytes of an access, the lowest address's fault first (R330). -/
def locsOf (s : State) (k : Access) (raw plain : Bool) (vas : List Nat) : Except Trap (List Nat) :=
  match vas with
  | [] => .ok []
  | v :: r =>
    match s.locOf k raw plain v with
    | .error t => .error t
    | .ok l =>
      match State.locsOf s k raw plain r with
      | .error t => .error t
      | .ok ls => .ok (l :: ls)

/-- A shared TLB with an entry for one of its units, unless that has one; the unit's oldest entry leaves when it is full. -/
def fillShared (l : List (Nat × TlbEntry)) (depth unit : Nat) (e : TlbEntry) : List (Nat × TlbEntry) :=
  if (sharedEntry l unit e.asn e.base).isSome then l
  else (((unit, e) :: l.filter (·.1 = unit)).take depth) ++ l.filter (·.1 ≠ unit)

/-- The TLBs with the leaf of an address, from the core's to the die's (R81): where one is full, the entry that it has held
longest leaves, and the core's TLB alone is not asked again for what it holds (DESIGN CHOICE, log entry 50). -/
def fillTlb (s : State) (va : Nat) : State :=
  match s.memory.tlb.find? (covers s.launch.asn va) with
  | some _ => s
  | none =>
    match s.leafOf va with
    | .error _ => s
    | .ok (leaf, size) =>
      let e : TlbEntry := ⟨s.launch.asn, va / size * size, size, leaf⟩
      { s with
        device := s.device.notePacked leaf size
        memory := { s.memory with
          tlb := (e :: s.memory.tlb).take Config.tlbDepth
          tlbClu := fillShared s.memory.tlbClu Config.tlbDepthClu s.cluster e
          tlbDie := fillShared s.memory.tlbDie Config.tlbDepthDie s.die e } }

/-- Every TLB of the device without the entries that a test names. -/
def dropTlb (s : State) (gone : TlbEntry → Bool) : State :=
  { s with memory := { s.memory with
      tlb := s.memory.tlb.filter fun e => ¬ gone e
      tlbClu := s.memory.tlbClu.filter fun p => ¬ gone p.2
      tlbDie := s.memory.tlbDie.filter fun p => ¬ gone p.2 } }

/-- Another core of the launch translates an address (R81): the TLBs of its cluster and die take the leaf. -/
def walkFor (s : State) (core : Byte) (va : Nat) : State :=
  let v := { s with core := core, memory := { s.memory with tlb := [] } }
  let t := v.fillTlb va
  { s with device := t.device, memory := { s.memory with tlbClu := t.memory.tlbClu, tlbDie := t.memory.tlbDie } }

/-- One access of the die to a mode 3 page of 64 KiB counts (R82). -/
def countMigration (s : State) (va : Nat) : State :=
  match s.leafOf va with
  | .error _ => s
  | .ok (leaf, size) =>
    if Leaf.mode leaf = 3 ∧ size = 65536 then
      let ix := va / 65536 % 4096
      let key := s.launch.asn.toNat * 2 ^ 24 + va / 2 ^ 28
      let n := match s.device.migCount.find? fun c => c.1 = s.die ∧ c.2.1 = ix with
        | some c => if c.2.2.1 = key then c.2.2.2 + 1 else 1
        | none => 1
      let due : Bool := Leaf.mth leaf ≠ 15 ∧ 16 * 2 ^ Leaf.mth leaf ≤ n
      let rest := s.device.migCount.filter fun c => ¬ (c.1 = s.die ∧ c.2.1 = ix)
      { s with device := { s.device with
          migCount := (s.die, ix, key, if due then 0 else n) :: rest
          migDue := if due then s.device.migDue ++ [(s.die, va / 65536 * 65536)] else s.device.migDue } }
    else s

/-- The pages of a list of byte addresses, each once. -/
def pagesOf (vas : List Nat) : List Nat := (vas.map fun v => v / 65536 * 65536).eraseDups

/-- The page of an address that another device or the host holds is remembered, to report its requests by VA. -/
def notePage (s : State) (va : Nat) : State :=
  match s.leafOf va with
  | .error _ => s
  | .ok (leaf, size) =>
    match s.leafLoc leaf size va false false with
    | .error _ => s
    | .ok l =>
      if isRemote l then
        { s with memory := { s.memory with
            vaPages := (l / 65536, va / 65536) :: s.memory.vaPages.filter fun p => p.1 ≠ l / 65536 } }
      else s

/-- What a translated access leaves: TLB entries, migration counts and the pages of other devices (R81, R82). -/
def note (s : State) (vas : List Nat) : State :=
  (pagesOf vas).foldl (fun s v => ((s.fillTlb v).countMigration v).notePage v) s

/-! Installing values at their homes -/

/-- The virtual address under which the task reached a location of another device. -/
def vaOf (s : State) (l : Nat) : Word :=
  match s.memory.vaPages.find? fun p => p.1 = l / 65536 with
  | some p => BitVec.ofNat 64 (p.2 * 65536 + l % 65536)
  | none => 0

/-- A request to another device or to the host (R282). -/
def request (s : State) (l : Nat) (op : RemoteOp) (slot : Option Nat) (owner : ReqOwner := .task) : State :=
  { s with memory := { s.memory with
      reqs := s.memory.reqs ++
        [{ id := s.memory.nextReq, loc := l, va := s.vaOf l, op := op, slot := slot, sent := false, owner := owner,
           at_ := s.device.time }]
      nextReq := s.memory.nextReq + 1 } }

/-- Splits bytes into runs of consecutive locations within one 64-B unit. -/
def runs (ws : List (Nat × Byte)) : List (Nat × List Byte) :=
  ws.foldr (fun w acc =>
    match acc with
    | (l, bs) :: r => if w.1 + 1 = l ∧ w.1 / 64 = l / 64 then (w.1, w.2 :: bs) :: r else (w.1, [w.2]) :: acc
    | [] => [(w.1, [w.2])]) []

/-- Sends bytes to the homes of other devices and of the host in runs within one 64-B unit, each a request of its own: what an
engine writes (R92, R109). -/
def sendUnits (s : State) (ws : List (Nat × Byte)) (owner : ReqOwner) : State :=
  (runs ws).foldl (fun s r => s.request r.1 (.write r.2) none owner) s

/-- Sends bytes to the homes of other devices and of the host, one request to each of them: it is installed there as one (R92,
R112). -/
def sendWrites (s : State) (ws : List (Nat × Byte)) (owner : ReqOwner) : State :=
  ((ws.map fun w => regionOf w.1).eraseDups).foldl (fun s g =>
    match runs (ws.filter fun w => regionOf w.1 = g) with
    | [r] => s.request r.1 (.write r.2) none owner
    | rs => s.request (rs.headD (0, [])).1 (.writes rs) none owner) s

/-- A fabric-cached copy at the local slice takes bytes (R106). -/
def setCopies (s : State) (copies : List (Nat × Byte)) : State :=
  if copies.isEmpty then s
  else { s with memory := { s.memory with cached := Overlay.setAll s.memory.cached copies } }

/-- What of a write leaves the device: the bytes of other homes, and with `far` those of fabric-cached copies too (R106). -/
def leaving (ws : List (Nat × Byte)) (far : Bool) : List (Nat × Byte) :=
  (ws.filter fun w => isRemote w.1) ++ (if far then (ws.filter fun w => isCached w.1).map fun w => (peerOf w.1, w.2) else [])

/-- What of a write is installed here at once: local homes, then fabric-cached copies at the local slice (R106). -/
def installHere (s : State) (ws : List (Nat × Byte)) : State :=
  (s.install (ws.filter fun w => ¬ isRemote w.1 ∧ ¬ isCached w.1)).setCopies (ws.filter fun w => isCached w.1)

/-- Installs bytes wherever their homes are: local ones at once, others by requests; a fabric-cached copy at the local
slice, and with `far` at the peer's home too (R106). -/
def installAll (s : State) (ws : List (Nat × Byte)) (far : Bool) (owner : ReqOwner) : State :=
  (s.installHere ws).sendWrites (leaving ws far) owner

/-- The task's own values at these locations (R94, R95). -/
def setOwn (s : State) (ws : List (Nat × Byte)) : State :=
  { s with memory := { s.memory with
      own := Overlay.setAll s.memory.own ws
      wrote := Overlay.setAll s.memory.wrote ws } }

/-- What an own immediate has left at its homes: a packed block has been packed again (R85, R94). -/
def leftAt (s : State) (ws : List (Nat × Byte)) : List (Nat × Byte) :=
  ws.map fun w => (w.1, if isPacked w.1 then homeRead s.device.pkfmt s.memory.home w.1 else w.2)

/-- An own write that passes no staging (R64, R101): installed at once, and the task's own until the next open. -/
def writeHome (s : State) (ws : List (Nat × Byte)) (owner : ReqOwner) : State :=
  let s := s.installAll ws true owner
  { s.setOwn (s.leftAt ws) with revocable := false }

/-- An own immediate write (R101). -/
def writeImm (s : State) (ws : List (Nat × Byte)) : State := s.writeHome ws .task

/-! Publication and snapshots -/

/-- The scope reaches beyond the device (R93). -/
def scopeFar (sc : Scope) : Bool := sc = .grp ∨ sc = .sys

/-- Publication: the whole staging is installed as one event (R60, R99). -/
def commit (s : State) (sc : Scope) : State :=
  let ws := s.memory.staging
  let s := s.installAll ws (scopeFar sc) .pub
  { s with memory := { s.memory with staging := [] } }

/-- A commit of one part of the staging (R108). -/
def commitPart (s : State) (sc : Scope) (locs : List Nat) : State :=
  let ws := s.memory.staging.filter fun w => locs.contains w.1
  let s := s.installAll ws (scopeFar sc) .pub
  { s with memory := { s.memory with staging := s.memory.staging.filter fun w => ¬ locs.contains w.1 } }

/-- The publication whose requests lie below `upTo` has completed at the scope: acknowledged for grp and sys and in tail mode,
else sent (R64, R99, R106). -/
def published (s : State) (sc : Scope) (upTo : Nat) : Bool :=
  s.memory.reqs.all fun r =>
    r.owner ≠ .pub ∨ upTo ≤ r.id ∨ (¬ scopeFar sc ∧ ¬ s.launch.header.tailm ∧ r.sent)

/-- The locations of a request's own bytes; those of a copy at the local slice stand beside those of its home. -/
def reqLocs (r : RemoteReq) : List Nat :=
  let at_ (l n : Nat) : List Nat := (List.range n).map (l + ·)
  let ls := match r.op with
    | .read _ | .reads _ | .data _ | .notice .. => []
    | .write bs => at_ r.loc bs.length
    | .atomic op _ => at_ r.loc (if op.w32 then 4 else 8)
    | .writes ps => ps.flatMap fun p => at_ p.1 p.2.length
    | .adds ops => ops.flatMap fun p => at_ p.1 (if p.2.w32 then 4 else 8)
  ls ++ ls.map fun l => regionBase (cachedRegion (regionOf l - 1)) + addrOf l

/-- Locations of own writes of the task that another device has not acknowledged: they are not installed yet, for all that the
task knows. -/
def inFlight (s : State) : List Nat :=
  (s.memory.reqs.filter fun r => r.owner = .task ∨ r.owner = .pub).flatMap reqLocs

/-- The task's own writes that stay pending when its snapshot opens (R94): what is staged, and what is on its way to another
device's home. -/
def pendingOwn (s : State) : Overlay :=
  let fly := s.inFlight
  if fly.isEmpty then s.memory.staging
  else Overlay.setAll (s.memory.staging.filter fun c => ¬ fly.contains c.1) (s.memory.own.filter fun c => fly.contains c.1)

/-- The whole staging is discarded (R342); own immediates on their way to other homes stay pending. -/
def dropStaging (s : State) : State :=
  let own := s.memory.own.filter fun c => ¬ s.memory.staging.any fun w => w.1 = c.1
  let s := { s with memory := { s.memory with staging := [] } }
  { s with memory := { s.memory with own := Overlay.setAll own s.pendingOwn } }

/-- The task's snapshot opens (R100, R179): the homes as they stand; own staged writes stay pending; the L1 keeps only
blocks with an open fill, and the descriptor cache is dropped. `acquire` marks those blocks stale (R71). -/
def openSnap (s : State) (acquire : Bool) : State :=
  { s with memory := { s.memory with
      snap := s.memory.home
      own := s.pendingOwn
      engDone := []
      peerSnap := []
      openTime := s.device.time
      acquired := []
      descs := []
      l1 := s.memory.l1.filter fun i => s.memory.blocks.any fun b => b.open_ ∧ i = .block b.id
      blocks := (s.memory.blocks.filter (·.open_)).map fun b => if acquire then { b with stale := true } else b } }

/-- The remembered-count table after an access to a line: at most 8, least recently used last (R166). -/
def remember (s : State) (l : Nat) : State :=
  let line := physOf l / 128
  { s with seen := ((line, s.lineCount (physOf l)) :: s.seen.filter fun c => c.1 ≠ line).take 8 }

/-- The remembered-count table after an access to several lines. -/
def rememberAll (s : State) (ls : List Nat) : State := ((ls.map fun l => l / 128 * 128).eraseDups).foldl remember s

/-- Bytes of the core's staging log (R342). -/
def logBytes (s : State) : Nat :=
  let w := s.device.stglog.getD s.die 0
  if w.extractLsb' 16 32 = 0 then 0 else (w.extractLsb' 48 8).toNat * 2 ^ 20

/-- Bytes of the log in use when so many words are staged: those beyond the LLC part, and what held sequenced accesses reserve
(R342, R343). -/
def logUsed (s : State) (words : Nat) : Nat :=
  (words * 8 - Config.stagingLlc) * 2
    + 64 * (s.ordered.held.filter fun h => h.seqd ∧ h.mine).length

/-- Words that are staged, with those of these locations. -/
def stagedWords (s : State) (locs : List Nat) : Nat :=
  ((s.memory.staging.map fun (c : Host.Cell) => c.1 / 8) ++ locs.map (· / 8)).eraseDups.length

/-- The plain store would pass both the LLC part and the log (R342, R343). -/
def stagingFull (s : State) (locs : List Nat) : Bool :=
  Config.stagingLlc < s.stagedWords locs * 8 ∧ s.logBytes < s.logUsed (s.stagedWords locs)

/-- The log has no room for so many more sequenced accesses (R343). -/
def logShort (s : State) (n : Nat) : Bool := n ≠ 0 ∧ s.logBytes < s.logUsed (s.stagedWords []) + 64 * n

/-- A plain write (R60, R64, R91): into staging, or installed at once in tail mode, where the next publication waits for its
acknowledgement. -/
def writePlain (s : State) (ws : List (Nat × Byte)) : State :=
  if s.launch.header.tailm then s.writeHome ws .pub
  else { s.setOwn ws with memory := { (s.setOwn ws).memory with staging := Overlay.setAll s.memory.staging ws } }

/-! Reads -/

/-- A read of this location consumes poison (R337); a byte of a packed view needs its whole block (R85). -/
def poisoned (s : State) (l : Nat) : Bool :=
  s.memory.poison.any fun u => (unitsOf s.device.pkfmt l).contains u

/-- Some location's stack is not ready yet: the access waits at its home (R311). -/
def stackWaits (s : State) (locs : List Nat) : Bool :=
  locs.any fun l =>
    match stackOf l with
    | some k => ¬ s.plat.ready.getLsbD k ∧ ¬ s.plat.error.getLsbD k
    | none => false

/-- A plain write with the check of R343; in tail mode it waits for its stack (R311). -/
def storePlain (s : State) (ws : List (Nat × Byte)) : Res Unit :=
  if ¬ s.launch.header.tailm ∧ s.stagingFull (ws.map (·.1)) then .trap ⟨.watchdog, 9, 0⟩
  else if s.launch.header.tailm ∧ s.stackWaits (ws.map (·.1)) then .wait s
  else .ok () (s.writePlain ws)

/-- A commit has to wait for a stack that is not ready (R311). -/
def stagingWaits (s : State) : Bool := s.stackWaits (s.memory.staging.map (·.1))

/-- The first byte of a read that is poisoned, or whose stack has failed, as a fault (R339, R368). -/
def poisonTrap (s : State) (vas locs : List Nat) : Option Trap :=
  match (vas.zip locs).find? fun p => s.poisoned p.2 ∨ s.stackFailed p.2 with
  | some p => some ⟨.eccunc, if s.poisoned p.2 then 5 else 1, BitVec.ofNat 64 p.1⟩
  | none => none

/-- PlainRead of one byte (R94, R100, R106).
DEDUCED: log entry 37. -/
def plainByte (s : State) (l : Nat) : Byte :=
  match Overlay.get? s.memory.own l with
  | some b => b
  | none =>
    if isCached l then (Overlay.get? s.memory.cached l).getD 0
    else if isRemote l then (Overlay.get? s.memory.peerSnap l).getD 0
    else homeRead s.device.pkfmt s.memory.snap l

/-- The byte at its home now (R101). -/
def homeByte (s : State) (l : Nat) : Byte :=
  if isRemote l then (Overlay.get? s.memory.peerImm l).getD 0 else homeRead s.device.pkfmt s.memory.home l

/-- Requests for the 64-B units of these locations that have not been asked for. -/
def askUnits (s : State) (locs : List Nat) (imm : Bool) : State :=
  ((locs.map fun l => l / 64 * 64).eraseDups).foldl (fun s u =>
    if s.memory.reqs.any fun r => r.loc = peerOf u ∧ r.op = RemoteOp.read imm then s
    else s.request (peerOf u) (.read imm) none) s

/-- One request for all the units of these locations, as a single access (R112). -/
def askWhole (s : State) (locs : List Nat) : State :=
  let us := (locs.map fun l => l / 64 * 64).eraseDups
  if s.memory.reqs.any fun r => r.op = RemoteOp.reads us then s else s.request (us.headD 0) (.reads us) none

/-- What a plain read still needs from another device: units of this snapshot, or fabric-cached copies; and no own
atomic on the location is in flight. -/
def plainMissing (s : State) (locs : List Nat) : List Nat :=
  locs.filter fun l =>
    (Overlay.get? s.memory.own l).isNone ∧
    ((isRemote l ∧ (Overlay.get? s.memory.peerSnap l).isNone) ∨
     (isCached l ∧ (Overlay.get? s.memory.cached l).isNone))

/-- An own atomic on one of these locations has no response yet. -/
def atomicInFlight (s : State) (locs : List Nat) : Bool :=
  s.memory.reqs.any fun r =>
    match r.op with
    | .atomic .. => locs.any fun l => l / 8 = r.loc / 8
    | .adds ops => locs.any fun l => ops.any fun p => l / 8 = p.1 / 8
    | _ => false

/-- A load of these addresses meets a line of a block whose fill is outstanding (R71). -/
def fillPending (s : State) (vas : List Nat) : Bool :=
  s.memory.blocks.any fun b => b.open_ ∧ vas.any fun v => b.base ≤ v ∧ v < b.base + 128 * b.lines

/-- A unit of these whose read was given up: what its consumer faults with (R355). -/
def failedRead (s : State) (vas locs : List Nat) : Option Trap :=
  match (vas.zip locs).find? fun p => s.memory.failed.any fun f => f.1 = peerOf p.2 / 64 * 64 with
  | none => none
  | some p =>
    match s.memory.failed.find? fun f => f.1 = peerOf p.2 / 64 * 64 with
    | some f => some { f.2 with va := BitVec.ofNat 64 p.1 }
    | none => none

/-! The L1 (R69, R71) -/

/-- The L1 set of a line: VA bits [14:7] (R69). -/
def setOf (line : Nat) : Nat := line % Config.l1Sets

/-- A block holds a line of a set. -/
def blockInSet (b : Block) (set : Nat) : Bool := (set + Config.l1Sets - setOf (b.base / 128)) % Config.l1Sets < b.lines

/-- Ways of a set in use. -/
def setUse (m : Memory) (set : Nat) : Nat :=
  (m.l1.filter fun i => match i with | .line n => setOf n = set | .block _ => false).length
    + (m.blocks.filter fun b => blockInSet b set).length

/-- An item that a set may lose: a line of it, or a completed block with a line in it, as a whole (R71). -/
def inSet (m : Memory) (set : Nat) (i : L1Item) : Bool :=
  match i with
  | .line n => setOf n = set
  | .block id => m.blocks.any fun b => b.id = id ∧ ¬ b.open_ ∧ blockInSet b set

/-- An item leaves the L1. -/
def evictItem (m : Memory) (i : L1Item) : Memory :=
  { m with
    l1 := m.l1.filter (· ≠ i)
    blocks := match i with | .line _ => m.blocks | .block id => m.blocks.filter fun b => b.id ≠ id }

/-- A way of a set is made free: the item that was used longest ago leaves; none where every way has an open fill. The rule's
pseudo-LRU is taken as the true order of use (DESIGN CHOICE, log entry 51). -/
def freeWay (m : Memory) (set : Nat) : Option Memory :=
  if setUse m set < Config.l1Ways then some m
  else (m.l1.reverse.find? (inSet m set)).map (evictItem m)

/-- A load's use of a line: the block that holds it, or the line itself, becomes the last used; a line that is missing comes
in. -/
def touchLine (m : Memory) (line : Nat) : Memory :=
  match m.blocks.find? fun b => b.base / 128 ≤ line ∧ line < b.base / 128 + b.lines with
  | some b => { m with l1 := .block b.id :: m.l1.filter (· ≠ .block b.id) }
  | none =>
    if m.l1.contains (.line line) then { m with l1 := .line line :: m.l1.filter (· ≠ .line line) }
    else match freeWay m (setOf line) with
      | some m => { m with l1 := .line line :: m.l1 }
      | none => m

/-- The L1 after a plain read of these addresses. -/
def touch (s : State) (vas : List Nat) : State :=
  { s with memory := ((vas.map (· / 128)).eraseDups).foldl touchLine s.memory }

/-- A read of the task's snapshot (R91, R100): a plain read, but for what it leaves in the L1. -/
def readSnap (s : State) (vas locs : List Nat) : Res (List Byte) :=
  match s.failedRead vas locs with
  | some t => .trap t
  | none =>
  if s.fillPending vas ∨ s.stackWaits locs then .wait s
  else if ¬ (s.plainMissing locs).isEmpty then .wait (s.askUnits (s.plainMissing locs) false)
  else if s.atomicInFlight locs then .wait s
  else
    match s.poisonTrap vas locs with
    | some t => .trap t
    | none => .ok (locs.map s.plainByte) s

/-- A plain read of bytes (R91, R100). -/
def readPlain (s : State) (vas locs : List Nat) : Res (List Byte) :=
  (s.readSnap vas locs).bind fun bs s => .ok bs (s.touch vas)

/-- An immediate read of bytes at their homes (R101); units of other devices are asked for, as one access with `whole`, and
consumed. -/
def readImm (s : State) (vas locs : List Nat) (whole : Bool := false) : Res (List Byte) :=
  let missing := locs.filter fun l => isRemote l ∧ (Overlay.get? s.memory.peerImm l).isNone
  match s.failedRead vas locs with
  | some t => .trap t
  | none =>
  if ¬ missing.isEmpty then .wait (if whole then s.askWhole missing else s.askUnits missing true)
  else if s.stackWaits locs then .wait s
  else
    match s.poisonTrap vas locs with
    | some t => .trap t
    | none =>
      let bs := locs.map s.homeByte
      let used := locs.filter isRemote
      .ok bs (if used.isEmpty then s
        else { s with memory := { s.memory with
          peerImm := s.memory.peerImm.filter fun c => ¬ used.any fun l => l / 64 = c.1 / 64 } })

/-- One byte of the read-only path (R95): after an ROINV the own write that preceded it; else one of the versions of the
location since the launch or the ROINV, which of them is open (DESIGN CHOICE, log entry 5). -/
def roByte (s : State) (pick : Nat) (l : Nat) : Byte :=
  match Overlay.get? s.memory.roOwn l with
  | some b => b
  | none =>
    if isCached l then (Overlay.get? s.memory.cached l).getD 0
    else if isRemote l then (Overlay.get? s.memory.peerSnap l).getD 0
    else
      match pick % 3 with
      | 0 => homeRead s.device.pkfmt s.memory.roBase l
      | 1 => homeRead s.device.pkfmt s.memory.snap l
      | _ => homeRead s.device.pkfmt s.memory.home l

/-- What a read-only read still needs from another device: own writes before the last ROINV alone need nothing. -/
def roMissing (s : State) (locs : List Nat) : List Nat :=
  locs.filter fun l =>
    (Overlay.get? s.memory.roOwn l).isNone ∧
    ((isRemote l ∧ (Overlay.get? s.memory.peerSnap l).isNone) ∨
     (isCached l ∧ (Overlay.get? s.memory.cached l).isNone))

/-- A read-only read of one element's bytes (R95). -/
def readRo (s : State) (vas locs : List Nat) : Res (List Byte) :=
  match s.failedRead vas locs with
  | some t => .trap t
  | none =>
  if ¬ (s.roMissing locs).isEmpty then .wait (s.askUnits (s.roMissing locs) false)
  else if s.stackWaits locs then .wait s
  else
    match s.poisonTrap vas locs with
    | some t => .trap t
    | none => .ok (locs.map (s.roByte s.freeWord.toNat)) s.bumpFree

/-! Scratchpad -/

/-- The members of the task's level-1 domain (R40). -/
def memb1 (s : State) : Nat := s.launch.m1

/-- The task's rank in its level-n domain (R39). -/
def rankAt (s : State) (n : Nat) : Nat :=
  match n with
  | 1 => s.launch.task % s.launch.m1
  | 2 => s.launch.task % s.launch.m2
  | 3 => s.launch.task % s.launch.m3
  | _ => s.launch.rank4 * s.launch.m3 + s.launch.task % s.launch.m3

/-- Members of the task's level-n domain (R40). -/
def membAt (s : State) (n : Nat) : Nat :=
  match n with
  | 1 => s.launch.m1
  | 2 => s.launch.m2
  | 3 => s.launch.m3
  | _ => s.launch.gsize * s.launch.m3

/-- The key of a scratchpad byte after the checks of R66: the rank's 1 MiB and the offset. -/
def scrKey (s : State) (a : Nat) : Except Trap Nat :=
  let bad : Trap := ⟨.scrbound, 0, BitVec.ofNat 64 a⟩
  let off := a % 2 ^ 20
  let rank := a / 2 ^ 20 % 4
  let peer := a / 2 ^ 23 % 2 = 1
  if a / 2 ^ 24 ≠ 0 ∨ a / 2 ^ 22 % 2 = 1 ∨ (¬ peer ∧ rank ≠ 0) then .error bad
  else if peer ∧ s.memb1 ≤ rank then .error bad
  else if s.launch.header.scratch ≤ off then .error bad
  else .ok ((if peer then rank else s.rankAt 1) * 2 ^ 20 + off)

/-- The keys of the bytes of a scratchpad access: each byte is checked, the lowest first, and no access passes the end of
the scratchpad that its address names (R66). -/
def scrKeys (s : State) (a n : Nat) : Except Trap (List Nat) :=
  match s.scrKey a with
  | .error t => .error t
  | .ok k =>
    if a % 2 ^ 20 + n > s.launch.header.scratch then
      .error ⟨.scrbound, 0, BitVec.ofNat 64 (a - a % 2 ^ 20 + s.launch.header.scratch)⟩
    else .ok ((List.range n).map (k + ·))

/-- A scratchpad read after its checks; a poisoned bank word faults (R337). -/
def readScr (s : State) (a n : Nat) : Res (List Byte) :=
  match s.scrKeys a n with
  | .error t => .trap t
  | .ok ks =>
    match ks.zipIdx.find? fun k => s.memory.scrPoison.contains (k.1 / 64 * 64) with
    | some k => .trap ⟨.eccunc, 3, BitVec.ofNat 64 (a + k.2)⟩
    | none => .ok (ks.map (Mem.read s.memory.scratch)) s

/-- Bytes written to scratchpad keys; a bank word that they cover whole is clean again (R337). -/
def putScr (s : State) (ws : List (Nat × Byte)) : State :=
  { s with memory := { s.memory with
      scratch := Mem.writeAll s.memory.scratch ws
      scrPoison := clearPoison s.memory.scrPoison (ws.map (·.1)) } }

/-- A scratchpad write after its checks. -/
def writeScr (s : State) (a : Nat) (bs : List Byte) : Res Unit :=
  match s.scrKeys a bs.length with
  | .error t => .trap t
  | .ok ks => .ok () (s.putScr (ks.zip bs))

/-! Pulses of the Caller (R257) -/

/-- A pulse reaches the Caller, one per source and clk; with no term armed nothing sees it. -/
def pulse (s : State) (kind num : Nat) : State :=
  let p : Pulse := ⟨kind, num, s.clk⟩
  if s.caller.terms.toList.any (·.armed) ∧ ¬ s.caller.pulses.contains p then
    { s with caller := { s.caller with pulses := s.caller.pulses ++ [p] } }
  else s

/-! Tags (R73) -/

/-- TagIssue after its stall test: the count rises, and a first operation clears both bits. -/
def tagIssue (s : State) (n : BitVec 6) : State :=
  let t := s.tags
  let o := t.out[n.toNat]'n.isLt
  let bit : Word := 1 <<< n.toNat
  { s with tags :=
      { rdy := if o = 0 then t.rdy &&& ~~~bit else t.rdy
        err := if o = 0 then t.err &&& ~~~bit else t.err
        out := t.out.set n.toNat (o + 1) n.isLt } }

/-- TagIssue has to stall: the tag has 255 outstanding operations. -/
def tagFull (s : State) (n : BitVec 6) : Bool := s.tags.out[n.toNat]'n.isLt ≥ Config.tagMax

/-- TagDone: the count falls, and the last operation makes the tag ready. -/
def tagDone (s : State) (n : BitVec 6) (err : Bool) : State :=
  let t := s.tags
  let o := t.out[n.toNat]'n.isLt
  let bit : Word := 1 <<< n.toNat
  let s' := { s with tags :=
      { rdy := if o - 1 = 0 then t.rdy ||| bit else t.rdy
        err := if err then t.err ||| bit else t.err
        out := t.out.set n.toNat (o - 1) n.isLt } }
  if o - 1 = 0 ∧ ¬ t.rdy.getLsbD n.toNat then s'.pulse 1 n.toNat else s'

/-! The return queue (R51) -/

/-- A return-queue entry is reserved at issue: its number. -/
def retReserve (s : State) : Nat × State :=
  (s.nextRet, { s with ret := s.ret ++ [⟨s.nextRet, false, none, none, none⟩], nextRet := s.nextRet + 1 })

/-- RetPush: the value of a reserved entry arrives. -/
def retPush (s : State) (id : Nat) (v : Word) : State :=
  { s with ret := s.ret.map fun e => if e.id = id then { e with value := some (.scalar v) } else e }

/-- A pop issued now takes the oldest unmatched entry. -/
def retMatch (s : State) : Option (Nat × State) :=
  match s.ret.find? fun e => ¬ e.matched with
  | none => none
  | some e => some (e.id, { s with ret := s.ret.map fun x => if x.id = e.id then { x with matched := true } else x })

/-- The value of an entry, if it has arrived. -/
def retValue (s : State) (id : Nat) : Option RetValue :=
  match s.ret.find? fun e => e.id = id with
  | some e => e.value
  | none => none

/-- The entry is popped and free. -/
def retFree (s : State) (id : Nat) : State := { s with ret := s.ret.filter fun e => e.id ≠ id }

/-! Engine writes (R98, R109) -/

/-- An engine installs bytes at their homes (R109); the task is no longer revocable (R61). -/
def engineWrite (s : State) (ws : List (Nat × Byte)) (owner : ReqOwner := .engine) : State :=
  { (s.installHere ws).sendUnits (leaving ws true) owner with revocable := false }

/-- The writes of an engine operation wait for the task that waits for its completion (R109); of a collective also the buffers that
it names (R108). -/
def engineDone (s : State) (c : Completion) (ws : List (Nat × Byte)) (spans : List (Nat × Nat) := []) : State :=
  if ws.isEmpty ∧ spans.isEmpty then s else
  { s with memory := { s.memory with engDone := s.memory.engDone ++ [(c, ws, spans)] } }

/-- The location lies in one of these spans. -/
def inSpans (spans : List (Nat × Nat)) (l : Nat) : Bool := spans.any fun p => p.1 ≤ l ∧ l < p.2

/-- The task has waited for a completion: it receives the engine's writes in its snapshot (R109), as its home has packed them for a
packed page, and the buffers of a collective as they stand (R108); own writes there that have been installed are pending no more
(R94). -/
def engineSeen (s : State) (c : Completion) : State :=
  let m := s.memory
  let done := m.engDone.filter fun e => e.1 = c
  if done.isEmpty then s else
  let ws := done.flatMap (·.2.1)
  let spans := done.flatMap (·.2.2)
  let units := (ws.filter fun w => isPacked w.1).flatMap fun w => unitsOf s.device.pkfmt w.1
  let anew (l : Nat) : Bool := inSpans spans l || units.contains (l / 64 * 64)
  let hit (l : Nat) : Bool := anew l || ws.any fun w => w.1 = l
  let plain := ws.filter fun w => ¬ anew w.1 ∧ ¬ isPacked w.1
  { s with memory := { m with
      snap := Mem.writeAll (Mem.writeAll (m.snap.filter fun b => ¬ anew b.1) (m.home.filter fun b => anew b.1))
        (plain.filter fun w => ¬ isRemote w.1 ∧ ¬ isCached w.1)
      own := Overlay.setAll (m.own.filter fun b => ¬ hit b.1) (s.pendingOwn.filter fun b => hit b.1)
      peerSnap := Overlay.setAll (m.peerSnap.filter fun b => ¬ anew b.1) (plain.filter fun w => isRemote w.1)
      acquired := spans.map (fun p => (p, s.device.time)) ++ m.acquired
      engDone := m.engDone.filter fun e => e.1 ≠ c } }

/-- TIME of the cut that a plain read of a location of another device is served from: its last open, or the completion that has
acquired it since (R100, R108). -/
def cutTime (s : State) (l : Nat) : Nat :=
  match s.memory.acquired.find? fun a => a.1.1 ≤ l ∧ l < a.1.2 with
  | some a => a.2
  | none => s.memory.openTime

/-! Barriers (R171) -/

/-- One arrival at barrier n. -/
def arrive (s : State) (n : BitVec 9) : State :=
  let b := s.bars[n.toNat]'n.isLt
  let c := b.count + 1
  if c = b.target then
    { s with bars := s.bars.set n.toNat { b with count := 0, gen := b.gen + 1 } n.isLt }.pulse 2 n.toNat
  else { s with bars := s.bars.set n.toNat { b with count := c } n.isLt }

/-- An arrival by an engine that has failed marks the generation that it completes, or the next one that completes (R262). -/
def arriveFailed (s : State) (n : BitVec 9) (t : Trap) : State :=
  let b := s.bars[n.toNat]'n.isLt
  { s with bars := s.bars.set n.toNat { b with failed := b.failed ++ [(b.gen + 1, t)] } n.isLt }.arrive n

end State

end Sys2Proof.Machine
end

