-- ==== Sys2Proof/Machine/Queue.lean ====
section
/-! DEFINITION. The L, C and S queues: issue, the token ring, the three stages of an entry, halts (R15, R47 to R52,
R323 to R328). -/

namespace Sys2Proof.Machine

/-- The queue before another in the token ring (R28). -/
def prevQ : Queue → Queue
  | .l => .s | .c => .l | .s => .c

/-- The queue after another in the token ring (R28). -/
def nextQ : Queue → Queue
  | .l => .c | .c => .s | .s => .l

/-- The token bits of an instruction; a word that is no L, C or S word has none (R28). -/
def tokensOf (i : Instr) : Tokens :=
  match i.eop?, i.mop? with
  | some (o, _), _ => o.tok
  | none, some (o, _) => o.tok
  | none, none => ⟨false, false, false, false⟩

/-- A field of an engine word names registers within the header (R187, R331). -/
def useOk (h : Header) (u : Use) (w : BitVec 2) (r : Reg) : Bool :=
  match u with
  | .none | .num _ => true
  | .vec | .vec1 | .span _ => r.toNat + u.count w ≤ h.nv
  | .scal | .quad => (r.toNat + u.count w ≤ h.ns) ∨ 56 ≤ r.toNat
  | .mask | .maskDst => r.toNat < h.nk

/-- Every register that an engine word names is declared (R153, R187, R331). -/
def namesOk (h : Header) (i : Instr) : Bool :=
  match i.eop?, i.mop? with
  | some (o, sh), _ =>
    useOk h sh.d o.w o.d ∧ useOk h sh.a o.w o.a ∧ useOk h sh.b o.w o.b ∧ useOk h sh.c o.w o.c
      ∧ (sh.kUsed → o.k.toNat < h.nk)
  | none, some (o, sh) =>
    useOk h sh.d o.w o.d ∧ useOk h sh.a o.w o.a ∧ useOk h sh.b o.w o.b ∧ useOk h sh.c o.w o.c
      ∧ (sh.kUsed → o.k.toNat < h.nk)
  | none, none => true

/-- What an entry does when it runs: its effects, a fault, or a wait. -/
abbrev Body := Entry → State → Res Unit

namespace State

/-- One of the three queues. -/
def queue (s : State) (q : Queue) : QueueState :=
  match q with
  | .l => s.queues.l | .c => s.queues.c | .s => s.queues.s

/-- Replaces one of the three queues. -/
def setQueue (s : State) (q : Queue) (x : QueueState) : State :=
  match q with
  | .l => { s with queues := { s.queues with l := x } }
  | .c => { s with queues := { s.queues with c := x } }
  | .s => { s with queues := { s.queues with s := x } }

/-- Tokens in the FIFO from one queue to another (R48). -/
def fifo (s : State) (a b : Queue) : Nat :=
  match a, b with
  | .l, .c => s.queues.lc | .c, .s => s.queues.cs | .s, .l => s.queues.sl
  | .l, .s => s.queues.ls | .c, .l => s.queues.cl | .s, .c => s.queues.sc
  | _, _ => 0

/-- Sets the tokens of a FIFO. -/
def setFifo (s : State) (a b : Queue) (n : Nat) : State :=
  match a, b with
  | .l, .c => { s with queues := { s.queues with lc := n } }
  | .c, .s => { s with queues := { s.queues with cs := n } }
  | .s, .l => { s with queues := { s.queues with sl := n } }
  | .l, .s => { s with queues := { s.queues with ls := n } }
  | .c, .l => { s with queues := { s.queues with cl := n } }
  | .s, .c => { s with queues := { s.queues with sc := n } }
  | _, _ => s

/-- Every token that the pop stage needs is present (R48). -/
def tokensReady (s : State) (q : Queue) (t : Tokens) : Bool :=
  (!t.wp || 0 < s.fifo (prevQ q) q) && (!t.wn || 0 < s.fifo (nextQ q) q)

/-- The pop stage takes its tokens (R48). -/
def popTokens (s : State) (q : Queue) (t : Tokens) : State :=
  let s := if t.wp then s.setFifo (prevQ q) q (s.fifo (prevQ q) q - 1) else s
  if t.wn then s.setFifo (nextQ q) q (s.fifo (nextQ q) q - 1) else s

/-- The push stage makes the pushes that have room; what is left to push (R48). -/
def pushTokens (s : State) (q : Queue) (sp sn : Bool) : State × Bool × Bool :=
  let roomN := s.fifo q (nextQ q) < Config.tokenMax
  let s1 := if sn ∧ roomN then s.setFifo q (nextQ q) (s.fifo q (nextQ q) + 1) else s
  let roomP := s1.fifo q (prevQ q) < Config.tokenMax
  let s2 := if sp ∧ roomP then s1.setFifo q (prevQ q) (s1.fifo q (prevQ q) + 1) else s1
  (s2, sp && !roomP, sn && !roomN)

/-- The entry that the queue works on: the micro-order of a running table, else the first entry. -/
def current (s : State) (q : Queue) : Option Entry :=
  match (s.queue q).table with
  | some t => t.cur
  | none => (s.queue q).entries.head?

/-- The device's cores stand still: it is frozen (R309), or too hot (R312). -/
def coresHalted (s : State) : Bool := s.sec.frozen ∨ s.plat.hot

/-- The task in focus has queues at work: it is placed, and neither saved nor gone; C entries of a resumed task wait for the lease
(R225). -/
def queueLive (s : State) (q : Queue) : Bool :=
  s.status ≠ .none ∧ s.status ≠ .saved ∧ s.status ≠ .retired ∧ s.status ≠ .leaseWait ∧ ¬ (q = .c ∧ s.matrix.reload)

/-- The current entry of a queue that is not halted. -/
def workOf (s : State) (q : Queue) : Option Entry :=
  if s.queueLive q ∧ (s.queue q).halt.isNone then s.current q else none

/-- Replaces the entry that the queue works on. -/
def setCurrent (s : State) (q : Queue) (e : Entry) : State :=
  let x := s.queue q
  match x.table with
  | some t => s.setQueue q { x with table := some { t with cur := some e } }
  | none => s.setQueue q { x with entries := e :: x.entries.tail }

/-- The table goes on to its next step, or ends with its last pass or a TBLSTOP (R52). -/
def tableNext (s : State) (q : Queue) (t : TableRun) : State :=
  let x := s.queue q
  let last := t.step + 1 = t.len
  let t' := { t with step := if last then 0 else t.step + 1, iter := if last then t.iter + 1 else t.iter, cur := none }
  if t.stop ∨ (last ∧ t.iter + 1 = t.cnt) then
    s.setQueue q { x with table := none, entries := x.entries.tail, stall := 0 }
  else s.setQueue q { x with table := some t', stall := 0 }

/-- The number of a queue in TSTS, QFLT and the Caller (R183, R256). -/
def queueNo : Queue → Nat
  | .l => 0 | .c => 1 | .s => 2

/-- A queue that has become empty gives a pulse (R257). -/
def emptied (s : State) (q : Queue) : State :=
  if (s.queue q).entries.isEmpty ∧ (s.queue q).table.isNone then s.pulse 3 (queueNo q) else s

/-- The entry that the queue works on has made its pushes and leaves (R48, R52). -/
def retireEntry (s : State) (q : Queue) : State :=
  let x := s.queue q
  match x.table with
  | some t => (s.tableNext q t).emptied q
  | none => (s.setQueue q { x with entries := x.entries.tail, stall := 0 }).emptied q

/-- The core's lease ends (R217). -/
def endLease (s : State) : State :=
  if s.matrix.holder = some (BitVec.ofNat 2 s.core.toNat) then { s with matrix := { s.matrix with holder := none } } else s

/-- The tile command that starts consumes its format word, the oldest matched one (R215). -/
def consumeFormat (s : State) (e : Entry) : State :=
  if e.fmt.isSome then
    match s.fmt.find? (·.matched) with
    | some f => { s with fmt := s.fmt.filter fun x => x.id ≠ f.id }
    | none => s
  else s

/-- The push stage of the current entry: it leaves when both pushes are made; nothing pops the pushes of a killed task, and its
entry leaves at once (R333). -/
def pushStage (s : State) (q : Queue) (sp sn : Bool) : State :=
  let (s, p, n) := s.pushTokens q sp sn
  if (p || n) ∧ s.status ≠ .killed then
    match s.current q with
    | some e => s.setCurrent q { e with stage := .push p n }
    | none => s
  else s.retireEntry q

/-- A queue halts at its current entry (R323, R324); the entry of a killed task ends there without effect (R333). -/
def haltQueue (s : State) (q : Queue) (e : Entry) (t : Trap) : State :=
  if s.status = .killed then (s.consumedRecord t).retireEntry q
  else
  let x := s.queue q
  let no := match e.micro with | some m => m.step | none => 0
  let s := (s.consumedRecord t).setQueue q { x with
    halt := some ⟨t, no, e.tl, s.queues.halts, none⟩
    qfpc := e.pc
    stall := 0 }
  let s := { s with queues := { s.queues with halts := s.queues.halts + 1 }, memory := { s.memory with failed := [] } }
  if q = .c then s.endLease else s

/-- Runs the current entry of a queue: its effect and pushes, a halt, or a wait in its run stage. -/
def runCurrent (s : State) (q : Queue) (e : Entry) (body : Body) : State :=
  match body e s with
  | .ok _ s => s.pushStage q (tokensOf e.instr).sp (tokensOf e.instr).sn
  | .trap t => s.haltQueue q e t
  | .fail t s => s.haltQueue q e t
  | .wait s => s

/-- Nothing of the queue stands before a new entry. -/
def queueIdle (s : State) (q : Queue) : Bool :=
  let x := s.queue q
  x.entries.isEmpty ∧ x.table.isNone ∧ x.halt.isNone

/-- The queue holds its 32 entries (R14, R15). -/
def queueFull (s : State) (q : Queue) : Bool := (s.queue q).entries.length ≥ Config.queueDepth

/-- The queue holds a halt that has been reported (R327). -/
def haltReported (s : State) (q : Queue) : Bool :=
  match (s.queue q).halt with
  | some h => h.reported.isSome
  | none => false

/-- The entry that an instruction becomes at issue (R29, R124). -/
def entryOf (s : State) (i : Instr) (slot : Option Nat) (fmt : Option (BitVec 128)) : Entry :=
  { instr := i, pc := s.pc, isn := s.isn, tl := s.trap.tl, regs := s.regFile, slot := slot, fmt := fmt,
    stage := .pop, micro := none }

/-- The entry stands last in its queue. -/
def enqueue (s : State) (q : Queue) (e : Entry) : State :=
  let x := s.queue q
  s.setQueue q { x with entries := x.entries ++ [e] }

/-- The instruction has been passed to its queue: it runs in the same step when the schedule says so and nothing stands
before it, else it waits there (R15, R47, DESIGN CHOICE, log entry 1). -/
def passTo (s : State) (q : Queue) (e : Entry) (body : Body) : State :=
  if s.eager ∧ s.queueIdle q ∧ s.tokensReady q (tokensOf e.instr) then
    let e := { e with stage := .run }
    (((s.popTokens q (tokensOf e.instr)).consumeFormat e).enqueue q e).runCurrent q e body
  else s.enqueue q e

end State

/-- What the sequencer checks and binds for one instruction at issue: its own bound fault and illegal use, a stall of
its own with its kind (R329), and what it takes along: a return-queue entry, a format word. -/
structure IssueSpec where
  bound  : Option Trap := none
  use    : Option Trap := none
  wait   : Option Nat := none
  bindAt : State → Option Nat × Option (BitVec 128) × State := fun s => (none, none, s)

/-- Issue of an instruction that reserves a return-queue entry (R51). -/
def returning (s : State) : IssueSpec :=
  { wait := if s.ret.length ≥ Config.returnDepth then some 3 else none
    bindAt := fun s => let r := s.retReserve; (some r.1, none, r.2) }

/-- Issue of an L, C or S instruction: the checks of the sequencer in the order of R330, the stalls of R15, R51 and R73,
then the queue. -/
def issue (s : State) (q : Queue) (i : Instr) (sp : IssueSpec) (body : Body) : Out :=
  if ¬ namesOk s.launch.header i then trapNow s { cause := .regbound }
  else
    match sp.bound, sp.use with
    | some t, _ => trapNow s t
    | none, some t => trapNow s (if s.haltReported q ∧ t.cause ≠ .undef then ⟨.undef, 12, 0⟩ else t)
    | none, none =>
      if s.haltReported q then trapNow s ⟨.undef, 12, 0⟩
      else if s.queueFull q then stall s 8
      else
        match sp.wait with
        | some k => stall s k
        | none =>
          let b := sp.bindAt s
          .next ((b.2.2.advance 2).passTo q (s.entryOf i b.1 b.2.1) body)

end Sys2Proof.Machine
end

