-- ==== Sys2Proof/Machine/Scalar.lean ====
section
/-! DEFINITION. The scalar arithmetic, immediate, branch and jump instructions (R153 to R158). -/

namespace Sys2Proof.Machine

/-- An operation at width W on A, B and the old D (R154). -/
abbrev AluFn := (w : Nat) → BitVec w → BitVec w → BitVec w → BitVec w

/-- The value that an ALU word writes: at 64 bits, or at 32 bits sign-extended (R154). -/
def aluValue (f : AluFn) (w32 : Bool) (a b d : Word) : Word :=
  if w32 then (f 32 (a.setWidth 32) (b.setWidth 32) (d.setWidth 32)).signExtend 64 else f 64 a b d

/-- An ALU word (R153, R154): its registers declared, the result written, the next word. -/
def aluExec (f : AluFn) (o : RegOp) (s : State) : Out :=
  withRegs s [o.d, o.a, o.b]
    (.next ((s.setReg o.d (aluValue f o.w32 (s.getReg o.a) (s.getReg o.b) (s.getReg o.d))).advance 1))

/-- The divisor of an ALU word is zero at its width (R155). -/
def divByZero (o : RegOp) (s : State) : Bool :=
  if o.w32 then (s.getReg o.b).setWidth 32 = 0 else s.getReg o.b = 0

/-- A division word: IDIVZ when TRAPEN.IDZ is set and the divisor is zero (R155). -/
def divExec (f : AluFn) (o : RegOp) (s : State) : Out :=
  withRegs s [o.d, o.a, o.b]
    (if s.trap.trapen ∧ divByZero o s then trapNow s { cause := .idivz }
     else .next ((s.setReg o.d (aluValue f o.w32 (s.getReg o.a) (s.getReg o.b) (s.getReg o.d))).advance 1))

/-- The number of a comparison's result. -/
def boolBv (w : Nat) (b : Bool) : BitVec w := if b then BitVec.ofNat w 1 else 0

/-- The low `n` bits of a word set. -/
def lowMask (w n : Nat) : BitVec w := BitVec.ofNat w (2 ^ n - 1)

def fnAdd : AluFn := fun _ a b _ => a + b
def fnSub : AluFn := fun _ a b _ => a - b
def fnAnd : AluFn := fun _ a b _ => a &&& b
def fnOr : AluFn := fun _ a b _ => a ||| b
def fnXor : AluFn := fun _ a b _ => a ^^^ b
def fnAndn : AluFn := fun _ a b _ => a &&& ~~~b
def fnSll : AluFn := fun w a b _ => a <<< (b.toNat % w)
def fnSrl : AluFn := fun w a b _ => a >>> (b.toNat % w)
def fnSra : AluFn := fun w a b _ => a.sshiftRight (b.toNat % w)
def fnRol : AluFn := fun w a b _ => a.rotateLeft (b.toNat % w)
def fnRor : AluFn := fun w a b _ => a.rotateRight (b.toNat % w)
def fnMul : AluFn := fun _ a b _ => a * b
/-- The high half of the signed product. -/
def fnMulh : AluFn := fun w a b _ => BitVec.ofInt w (a.toInt * b.toInt / (2 ^ w : Nat))
/-- The high half of the natural product. -/
def fnMulhn : AluFn := fun w a b _ => BitVec.ofNat w (a.toNat * b.toNat / 2 ^ w)
/-- Signed quotient towards zero; all ones for a zero divisor (R155). -/
def fnDiv : AluFn := fun w a b _ => if b = 0 then BitVec.allOnes w else BitVec.ofInt w (a.toInt.tdiv b.toInt)
def fnDivn : AluFn := fun w a b _ => if b = 0 then BitVec.allOnes w else BitVec.ofNat w (a.toNat / b.toNat)
/-- Signed remainder with the dividend's sign; the dividend for a zero divisor (R155). -/
def fnRem : AluFn := fun w a b _ => if b = 0 then a else BitVec.ofInt w (a.toInt.tmod b.toInt)
def fnRemn : AluFn := fun w a b _ => if b = 0 then a else BitVec.ofNat w (a.toNat % b.toNat)
def fnMin : AluFn := fun _ a b _ => if b.slt a then b else a
def fnMax : AluFn := fun _ a b _ => if a.slt b then b else a
def fnMinn : AluFn := fun _ a b _ => if b.ult a then b else a
def fnMaxn : AluFn := fun _ a b _ => if a.ult b then b else a
def fnSlt : AluFn := fun w a b _ => boolBv w (a.slt b)
def fnSltn : AluFn := fun w a b _ => boolBv w (a.ult b)
def fnSeq : AluFn := fun w a b _ => boolBv w (a == b)
/-- Leading zeros, W for zero. -/
def fnClz : AluFn := fun w a _ _ => BitVec.ofNat w (if a = 0 then w else w - 1 - Nat.log2 a.toNat)
/-- Trailing zeros, W for zero. -/
def fnCtz : AluFn := fun w a _ _ => BitVec.ofNat w (((List.range w).find? fun i => a.getLsbD i).getD w)
def fnPopc : AluFn := fun w a _ _ => BitVec.ofNat w ((List.range w).countP fun i => a.getLsbD i)
/-- The field of A at B[5:0] of B[13:8] + 1 bits, zero-extended. -/
def fnExt : AluFn := fun w a b _ => (a >>> (b.toNat % 64)) &&& lowMask w (b.toNat / 256 % 64 + 1)
/-- D with the field at B[5:0] of B[13:8] + 1 bits replaced by the low bits of A. -/
def fnIns : AluFn := fun w a b d =>
  let m := lowMask w (b.toNat / 256 % 64 + 1) <<< (b.toNat % 64)
  (d &&& ~~~m) ||| ((a <<< (b.toNat % 64)) &&& m)
def fnSel : AluFn := fun _ a b d => (a &&& d) ||| (b &&& ~~~d)
/-- The bytes in reverse order. -/
def fnBswp : AluFn := fun w a _ _ => BitVec.ofNat w (bytesToNat (natToBytes (w / 8) a.toNat).reverse)

/-- ADD (R154). -/
def execAdd (o : RegOp) (s : State) : Out := aluExec fnAdd o s
/-- SUB (R154). -/
def execSub (o : RegOp) (s : State) : Out := aluExec fnSub o s
/-- AND (R154). -/
def execAnd (o : RegOp) (s : State) : Out := aluExec fnAnd o s
/-- OR (R154). -/
def execOr (o : RegOp) (s : State) : Out := aluExec fnOr o s
/-- XOR (R154). -/
def execXor (o : RegOp) (s : State) : Out := aluExec fnXor o s
/-- ANDN (R154). -/
def execAndn (o : RegOp) (s : State) : Out := aluExec fnAndn o s
/-- SLL (R154). -/
def execSll (o : RegOp) (s : State) : Out := aluExec fnSll o s
/-- SRL (R154). -/
def execSrl (o : RegOp) (s : State) : Out := aluExec fnSrl o s
/-- SRA (R154). -/
def execSra (o : RegOp) (s : State) : Out := aluExec fnSra o s
/-- ROL (R154). -/
def execRol (o : RegOp) (s : State) : Out := aluExec fnRol o s
/-- ROR (R154). -/
def execRor (o : RegOp) (s : State) : Out := aluExec fnRor o s
/-- MUL (R154). -/
def execMul (o : RegOp) (s : State) : Out := aluExec fnMul o s
/-- MULH (R154). -/
def execMulh (o : RegOp) (s : State) : Out := aluExec fnMulh o s
/-- MULHN (R154). -/
def execMulhn (o : RegOp) (s : State) : Out := aluExec fnMulhn o s
/-- DIV (R154, R155). -/
def execDiv (o : RegOp) (s : State) : Out := divExec fnDiv o s
/-- DIVN (R154, R155). -/
def execDivn (o : RegOp) (s : State) : Out := divExec fnDivn o s
/-- REM (R154, R155). -/
def execRem (o : RegOp) (s : State) : Out := divExec fnRem o s
/-- REMN (R154, R155). -/
def execRemn (o : RegOp) (s : State) : Out := divExec fnRemn o s
/-- MIN (R154). -/
def execMin (o : RegOp) (s : State) : Out := aluExec fnMin o s
/-- MAX (R154). -/
def execMax (o : RegOp) (s : State) : Out := aluExec fnMax o s
/-- MINN (R154). -/
def execMinn (o : RegOp) (s : State) : Out := aluExec fnMinn o s
/-- MAXN (R154). -/
def execMaxn (o : RegOp) (s : State) : Out := aluExec fnMaxn o s
/-- SLT (R154). -/
def execSlt (o : RegOp) (s : State) : Out := aluExec fnSlt o s
/-- SLTN (R154). -/
def execSltn (o : RegOp) (s : State) : Out := aluExec fnSltn o s
/-- SEQ (R154). -/
def execSeq (o : RegOp) (s : State) : Out := aluExec fnSeq o s
/-- CLZ (R154). -/
def execClz (o : RegOp) (s : State) : Out := aluExec fnClz o s
/-- CTZ (R154). -/
def execCtz (o : RegOp) (s : State) : Out := aluExec fnCtz o s
/-- POPC (R154). -/
def execPopc (o : RegOp) (s : State) : Out := aluExec fnPopc o s
/-- EXT (R154). -/
def execExt (o : RegOp) (s : State) : Out := aluExec fnExt o s
/-- INS (R154). -/
def execIns (o : RegOp) (s : State) : Out := aluExec fnIns o s
/-- SEL (R154). -/
def execSel (o : RegOp) (s : State) : Out := aluExec fnSel o s
/-- BSWP (R154). -/
def execBswp (o : RegOp) (s : State) : Out := aluExec fnBswp o s

/-- An immediate word with a result computed from s[a] and SExt(imm14, 64) (R156). -/
def immExec (f : Word → Word → Word) (o : ImmOp) (s : State) : Out :=
  withRegs s [o.d, o.a] (.next ((s.setReg o.d (f (s.getReg o.a) (o.imm.signExtend 64))).advance 1))

/-- ADDI (R156). -/
def execAddi (o : ImmOp) (s : State) : Out := immExec (· + ·) o s
/-- ANDI (R156). -/
def execAndi (o : ImmOp) (s : State) : Out := immExec (· &&& ·) o s
/-- ORI (R156). -/
def execOri (o : ImmOp) (s : State) : Out := immExec (· ||| ·) o s
/-- XORI (R156). -/
def execXori (o : ImmOp) (s : State) : Out := immExec (· ^^^ ·) o s
/-- SLTI (R156). -/
def execSlti (o : ImmOp) (s : State) : Out := immExec (fun a i => boolBv 64 (a.slt i)) o s

/-- The value of SHI (R156). -/
def shiValue (kind : ShiftKind) (n : BitVec 6) (a : Word) : Word :=
  match kind with
  | .sll => a <<< n.toNat
  | .srl => a >>> n.toNat
  | .sra => a.sshiftRight n.toNat
  | .rol => a.rotateLeft n.toNat

/-- SHI (R136, R156). -/
def execShi (d a : Reg) (kind : ShiftKind) (n : BitVec 6) (s : State) : Out :=
  withRegs s [d, a] (.next ((s.setReg d (shiValue kind n (s.getReg a))).advance 1))

/-- The value of LUI: imm20 * 2^12 as 32 bits, sign-extended (R156). -/
def luiValue (imm : BitVec 20) : Word := ((imm.setWidth 32) <<< 12).signExtend 64

/-- LUI (R156). -/
def execLui (d : Reg) (imm : BitVec 20) (s : State) : Out :=
  withRegs s [d] (.next ((s.setReg d (luiValue imm)).advance 1))

/-- LIW, a word pair (R156, R176). -/
def execLiw (d : Reg) (imm : Lane32) (s : State) : Out :=
  withRegs s [d] (.next ((s.setReg d (imm.signExtend 64)).advance 2))

/-- A branch: to PC + 4 * SExt(off14) when the comparison holds, else to the next word (R157). -/
def branchExec (cond : Word → Word → Bool) (o : BranchOp) (s : State) : Out :=
  withRegs s [o.a, o.b]
    (.next (if cond (s.getReg o.a) (s.getReg o.b) then s.jump (s.pc + 4 * o.off.signExtend 64) else s.advance 1))

/-- BEQ (R157). -/
def execBeq (o : BranchOp) (s : State) : Out := branchExec (fun a b => a == b) o s
/-- BNE (R157). -/
def execBne (o : BranchOp) (s : State) : Out := branchExec (fun a b => a != b) o s
/-- BLT (R157). -/
def execBlt (o : BranchOp) (s : State) : Out := branchExec (fun a b => a.slt b) o s
/-- BGE (R157). -/
def execBge (o : BranchOp) (s : State) : Out := branchExec (fun a b => !a.slt b) o s
/-- BLTN (R157). -/
def execBltn (o : BranchOp) (s : State) : Out := branchExec (fun a b => a.ult b) o s
/-- BGEN (R157). -/
def execBgen (o : BranchOp) (s : State) : Out := branchExec (fun a b => !a.ult b) o s

/-- JAL (R158). -/
def execJal (off : BitVec 26) (s : State) : Out :=
  .next ((s.setReg 63 (s.pc + 4)).jump (s.pc + 4 * off.signExtend 64))

/-- The target of a JALR (R158). -/
def jalrTarget (o : ImmOp) (s : State) : Word := s.getReg o.a + o.imm.signExtend 64

/-- JALR (R158). -/
def execJalr (o : ImmOp) (s : State) : Out :=
  withRegs s [o.d, o.a]
    (if (jalrTarget o s).extractLsb' 0 2 ≠ 0 then trapNow s ⟨.misalign, 0, jalrTarget o s⟩
     else .next ((s.setReg o.d (s.pc + 4)).jump (jalrTarget o s)))

end Sys2Proof.Machine
end

