-- ==== Sys2Proof/Machine/Space.lean ====
section
/-! DEFINITION. What an engine of the device reads and writes in the address space of a launch, and the save area of a task (R62,
R98, R270, R276). -/

namespace Sys2Proof.Machine

/-- The state as an access of a launch sees it: the tables are walked as they stand. -/
def launchView (s : State) (l : Launch) : State :=
  { s with launch := l, memory := { s.memory with tlb := [], tlbClu := [], tlbDie := [] } }

/-- The view with each page of a range walked once. -/
def pagesWalked (s : State) (va n : Nat) : State :=
  ((List.range ((va + n) / 65536 - va / 65536 + 1)).map fun i => (va / 65536 + i) * 65536).foldl State.fillTlb s

/-- The locations of bytes in a launch's address space.
DEDUCED: log entry 41. -/
def launchLocs (s : State) (l : Launch) (k : Access) (va n : Nat) : Option (List Nat) :=
  match (pagesWalked (launchView s l) va n).locsOf k false false (bytesAt va n) with
  | .ok ls => some ls
  | .error _ => none

/-- Bytes in a launch's address space as they stand at their homes. -/
def launchRead (s : State) (l : Launch) (va n : Nat) : Option (List Byte) :=
  (launchLocs s l .load va n).map fun ls => ls.map s.homeByte

/-- An engine write of the device in a launch's address space; nothing where it does not translate. -/
def launchWrite (s : State) (l : Launch) (va : Nat) (bs : List Byte) : State :=
  match launchLocs s l .store va bs.length with
  | some ls => s.installAll (ls.zip bs) true .engine
  | none => s

/-! The save area (R270, R276) -/

/-- Bytes of a task's slot beside the scratchpad. -/
def slotPart : Nat := 2 ^ 18

/-- Bytes of the phase checkpoint, the last of that part (R62). -/
def checkpointSize : Nat := 2 ^ 12

/-- The base of task i's save-area slot (R270, R276). -/
def saveSlot (h : Header) (l : Launch) (i : Nat) : Nat := l.save.toNat + i * (slotPart + h.scratch)

/-- The address of a task's phase checkpoint (R62). -/
def checkpointVa (l : Launch) : Nat := saveSlot l.header l l.task + (slotPart - checkpointSize)

/-- Bytes whose values are private to the device (R62, R276; DESIGN CHOICE, log entry 9). -/
def openBytes (s : State) (n : Nat) : List Byte := (List.range n).map fun i => (Config.freeWord (s.free + i)).setWidth 8

/-- Bytes of the save area take the contents that the device gives them. -/
def saveWrite (s : State) (l : Launch) (va n : Nat) : State :=
  let s1 := launchWrite s l va (openBytes s n)
  { s1 with free := s1.free + n }

/-- The phase checkpoint is written, whole (R62). -/
def writeCheckpoint (s : State) : State := saveWrite s s.launch (checkpointVa s.launch) checkpointSize

/-- The context of a launch's task is written: the first 252 KiB of its part, and its scratchpad (R276). -/
def writeContext (s : State) (l : Launch) : State :=
  let slot := saveSlot l.header l l.task
  saveWrite (saveWrite s l slot (slotPart - checkpointSize)) l (slot + slotPart) l.header.scratch

/-- A rerun would find an uncorrectable error in the task's checkpoint (R62). -/
def checkpointBad (s : State) : Bool :=
  match launchLocs s s.launch .load (checkpointVa s.launch) checkpointSize with
  | some ls => ls.any s.poisoned
  | none => true

end Sys2Proof.Machine
end

