-- ==== Sys2Proof/Machine/ScalarMemory.lean ====
section
/-! DEFINITION. Scalar loads, stores and atomics (R159 to R162), publication as the sequencer waits for it (R97, R99,
R102), and ordered accesses (R296). -/

namespace Sys2Proof.Machine

/-- The address of a scalar memory word: s[base] + off6 * n (R159). -/
def memEa (o : MemOp) (s : State) : Word := s.getReg o.base + BitVec.ofNat 64 (o.off.toNat * o.size.bytes)

/-- The registers that a scalar memory word names: a pair with size q (R137). -/
def memRegs (o : MemOp) : List Reg := if o.size = .q then [o.d, o.d + 1, o.base] else [o.d, o.base]

/-- The checks of a global scalar access: VA[63:52], alignment where ordered, then its pages (R159). -/
def memLocs (o : MemOp) (k : Access) (s : State) : Except Trap (List Nat) :=
  let ea := (memEa o s).toNat
  if 2 ^ 52 ≤ ea then .error (xlate 8 ea)
  else if o.ord ≠ .plain ∧ ea % o.size.bytes ≠ 0 then .error ⟨.misalign, 0, memEa o s⟩
  else s.locsOf k false (o.ord = .plain) (bytesAt ea o.size.bytes)

/-- An acquire read has read: the count is remembered and the snapshot opens (R102, R166). -/
def acquired (s : State) (locs : List Nat) : State := ((s.remember (locs.headD 0)).openSnap true)

/-- The bytes that a load reads, by its kind (R159). An immediate read ends the task's revocability; an acquire read, a kind of its
own, does not (R61, R91; DESIGN CHOICE, log entry 52). -/
def loadBytes (o : MemOp) (s : State) : Res (List Byte) :=
  match o.place with
  | .scratch => s.readScr ((memEa o s).toNat % 2 ^ 32) o.size.bytes
  | .global _ =>
    match memLocs o .load s with
    | .error t => .trap t
    | .ok locs =>
      let vas := bytesAt (memEa o s).toNat o.size.bytes
      let s := s.note vas
      match o.ord with
      | .plain => s.readPlain vas locs
      | .acq => (s.readImm vas locs).bind fun bs s => .ok bs (acquired s locs)
      | _ => (s.readImm vas locs).bind fun bs s => .ok bs { s.remember (locs.headD 0) with revocable := false }

/-- The destination registers of a load with the value (R159). -/
def loadInto (o : MemOp) (signed : Bool) (bs : List Byte) (s : State) : State :=
  let v := bytesToNat bs
  match o.size with
  | .q => (s.setReg o.d (BitVec.ofNat 64 v)).setReg (o.d + 1) (BitVec.ofNat 64 (v / 2 ^ 64))
  | .d => s.setReg o.d (BitVec.ofNat 64 v)
  | .b => s.setReg o.d (if signed then (BitVec.ofNat 8 v).signExtend 64 else BitVec.ofNat 64 v)
  | .h => s.setReg o.d (if signed then (BitVec.ofNat 16 v).signExtend 64 else BitVec.ofNat 64 v)
  | .w => s.setReg o.d (if signed then (BitVec.ofNat 32 v).signExtend 64 else BitVec.ofNat 64 v)

/-- A load (R159). -/
def loadExec (signed : Bool) (o : MemOp) (s : State) : Out :=
  withRegs s (memRegs o)
    (match loadBytes o s with
     | .trap t => trapNow s t
     | .wait s => hold s
     | .fail t s => .next (s.trapAt t)
     | .ok bs s => .next ((loadInto o signed bs s).advance 1))

/-- LD (R159). -/
def execLd (o : MemOp) (s : State) : Out := loadExec true o s
/-- LDN (R159). -/
def execLdn (o : MemOp) (s : State) : Out := loadExec false o s

/-- The device that holds the page of an address that the task used, for a record. -/
def peerOfVa (s : State) (va : Word) : Nat :=
  match s.memory.vaPages.find? fun p => p.2 = va.toNat / 65536 with
  | some p => regionOf (p.1 * 65536) - 1
  | none => State.noPeer

/-- The report of writes that were given up, at an instruction that waits for them: the lowest address first, and one record
that counts those that are UNCERTAIN (R355, R357). -/
def uncertainTrap (s : State) : Option (Trap × State) :=
  match s.memory.uncertain with
  | [] => none
  | t :: ts =>
    let first := ts.foldl (fun a b => if b.va < a.va then b else a) t
    let n := ((t :: ts).filter fun x => x.cause = .fabric ∧ x.detail ≠ 4).length
    let s1 := { s with memory := { s.memory with uncertain := [] } }
    some (first, if n = 0 then s1 else s1.engineRecord 0x29 (some first) 0 (peerOfVa s first.va) n)

/-- A publishing instruction finds the staging lost: it commits nothing and traps (R342). -/
def lostStaging (s : State) : Out :=
  trapNow { s.dropStaging with memory := { s.dropStaging.memory with stagingBad := false } } ⟨.eccunc, 8, 0⟩

/-- Publication by a sequencer instruction: the commit, the wait for its completion (a wait of the given kind, or one
that no watchdog ends), the report of writes given up, then `k` (R97, R99, R102, R342, R355). -/
def publishing (s : State) (sc : Scope) (kind : Option Nat) (k : State → Out) : Out :=
  let finish (s : State) (upTo : Nat) : Out :=
    if s.published sc upTo then
      match uncertainTrap s with
      | some (t, s) => trapNow s t
      | none => k s
    else match kind with
      | some n => stall s n
      | none => hold s
  match s.wait with
  | some (.pub upTo) => finish s upTo
  | _ =>
    if s.memory.stagingBad then
      lostStaging s
    else if s.stagingWaits then hold s
    else
      let s := s.commit sc
      finish { s with wait := some (.pub s.memory.nextReq) } s.memory.nextReq

/-- The bytes that a store writes (R159). -/
def storeBytes (o : MemOp) (s : State) : List Byte :=
  match o.size with
  | .q => natToBytes 8 (s.getReg o.d).toNat ++ natToBytes 8 (s.getReg (o.d + 1)).toNat
  | z => natToBytes z.bytes (s.getReg o.d).toNat

/-- A global store by its kind, after its checks (R159). -/
def storeGlobal (o : MemOp) (sc : Scope) (locs : List Nat) (s : State) : Out :=
  let ws := locs.zip (storeBytes o s)
  match o.ord with
  | .plain =>
    match s.storePlain ws with
    | .trap t => trapNow s t
    | .wait s => hold s
    | .fail t s => .next (s.trapAt t)
    | .ok _ s => .next (s.advance 1)
  | .rel => publishing s sc none fun s => .next (((s.writeImm ws).remember (locs.headD 0)).advance 1)
  | _ => .next (((s.writeImm ws).remember (locs.headD 0)).advance 1)

/-- ST (R159). -/
def execSt (o : MemOp) (s : State) : Out :=
  withRegs s (memRegs o)
    (match o.place with
     | .scratch =>
       match s.writeScr ((memEa o s).toNat % 2 ^ 32) (storeBytes o s) with
       | .trap t => trapNow s t
       | .wait s => hold s
       | .fail t s => .next (s.trapAt t)
       | .ok _ s => .next (s.advance 1)
     | .global sc =>
       match memLocs o .store s with
       | .error t => trapNow s t
       | .ok locs =>
         if o.ord ≠ .plain ∧ s.stackWaits locs then hold s
         else storeGlobal o sc locs (s.note (bytesAt (memEa o s).toNat o.size.bytes)))

/-! Atomics -/

/-- f32 minimum or maximum of R161: a NaN operand gives the canonical NaN, and −0 is below +0. -/
def f32MinMax (isMax : Bool) (x y : Nat) : Nat :=
  let a := unpackFloat .f32 x
  let b := unpackFloat .f32 y
  if a = .nan ∨ b = .nan then canonNaN .f32
  else if isMax then (if fLess a b then y else x) else (if fLess b a then y else x)

/-- The new value of an atomic at width W (R161). -/
def atomicNew (w : Nat) (fn : Nat) (x v cmp : BitVec w) : BitVec w :=
  match fn with
  | 0 => x + v
  | 1 => x - v
  | 2 => x &&& v
  | 3 => x ||| v
  | 4 => x ^^^ v
  | 5 => if v.slt x then v else x
  | 6 => if x.slt v then v else x
  | 7 => if v.ult x then v else x
  | 8 => if x.ult v then v else x
  | 9 => v
  | 10 => if x = cmp then v else x
  | 11 => if v.ule x then 0 else x + 1
  | 12 => if x = 0 ∨ v.ult x then v else x - 1
  | 13 => BitVec.ofNat w (roundF32 (fAdd (unpackFloat .f32 x.toNat) (unpackFloat .f32 v.toNat)).1)
  | 14 => BitVec.ofNat w (f32MinMax false x.toNat v.toNat)
  | _ => BitVec.ofNat w (f32MinMax true x.toNat v.toNat)

namespace AtomicOp

/-- Bytes of the datum. -/
def bytes (a : AtomicOp) : Nat := if a.w32 then 4 else 8

/-- The new bytes and the old value as RetPush takes it, from the old bytes (R160). -/
def apply (a : AtomicOp) (old : List Byte) : List Byte × Word :=
  let x := bytesToNat old
  if a.w32 then
    (natToBytes 4 (atomicNew 32 a.fn (BitVec.ofNat 32 x) (a.v.setWidth 32) (a.cmp.setWidth 32)).toNat,
     (BitVec.ofNat 32 x).signExtend 64)
  else (natToBytes 8 (atomicNew 64 a.fn (BitVec.ofNat 64 x) a.v a.cmp).toNat, BitVec.ofNat 64 x)

end AtomicOp

/-- The bytes that several atomics leave, one after the other as one event (R232, R296): an element that two of them share takes
both. -/
def addedOps (read : Nat → Byte) (ops : List (Nat × AtomicOp)) : Overlay :=
  ops.foldl (fun m p =>
    let locs := bytesAt p.1 p.2.bytes
    let old := locs.map fun l => (Overlay.get? m l).getD (read l)
    Overlay.setAll m (locs.zip (p.2.apply old).1)) []

/-- An atomic at a local home: the installation, and the old value (R101, R160). -/
def atomicHome (a : AtomicOp) (locs : List Nat) (s : State) : State × Word :=
  let r := a.apply (locs.map s.homeByte)
  (s.writeImm (locs.zip r.1), r.2)

/-- The interval barrier of the launch, bound at level 3 (R295, R296). -/
def intervalBound (s : State) : Bool :=
  match s.bars[s.launch.header.nbar - 1]? with
  | some b => s.launch.header.nbar ≠ 0 ∧ b.level = 3
  | none => false

/-- An ordered access is refused (R296). -/
def orderedRefused (s : State) (leaf : Word) : Bool :=
  ¬ intervalBound s ∨ ¬ (Leaf.mode leaf = 0 ∨ Leaf.mode leaf = 4)

/-- The level-3 domain of the task in focus (R295). -/
def ordDomain (s : State) : OrdDomain := ⟨s.launch.entry, s.launch.task / s.launch.m3 * s.launch.m3, s.launch.m3⟩

/-- An ordered access of the task, with its key and interval (R296). -/
def ownHeld (s : State) (elem isn : Nat) (seqd : Bool) (ops : List (Nat × AtomicOp)) (slot : Option Nat) (vec : Bool) : Held :=
  { dom := ordDomain s, task := s.launch.task, elem := elem, isn := isn, interval := s.ordered.interval, seqd := seqd
    ops := ops, slot := slot, vec := vec, mine := true }

/-- An ordered access is held at its homes (R296). -/
def holdAccess (s : State) (h : Held) : State :=
  let ret := match h.slot with
    | some id => s.ret.map fun (e : RetEntry) => if e.id = id then { e with interval := some h.interval } else e
    | none => s.ret
  { s with ordered := { s.ordered with held := s.ordered.held ++ [h] }, ret := ret, revocable := false }

/-- The entry holds an ordered value of the task's current interval (R297). -/
def tooEarly (s : State) (slot : Nat) : Bool :=
  s.launch.det ∧ s.ret.any fun e => e.id = slot ∧ e.interval = some s.ordered.interval

/-- The atomic of an ATOM word. -/
def atomicOf (fn : Nat) (o : AtomOp) (s : State) : AtomicOp := ⟨fn, o.w32, s.getReg o.d, s.getReg o.b⟩

/-- The return-queue entry of an ATOM word, unless `.nr` (R51). -/
def atomicSlot (o : AtomOp) (s : State) : Option Nat × State :=
  if o.nr then (none, s) else (some s.nextRet, s.retReserve.2)

/-- The old value goes to the reserved entry (R160). -/
def deliverOld (slot : Option Nat) (v : Word) (s : State) : State :=
  match slot with
  | some id => s.retPush id v
  | none => s

/-- An atomic goes to another device's home: until it is answered, the task's own value of the location is not known (R94, R160). -/
def askAtomic (s : State) (l : Nat) (op : AtomicOp) (old : Bool) (slot : Option Nat) : State :=
  let s1 := s.request l (.atomic op old) slot
  { s1 with revocable := false, memory := { s1.memory with own := s1.memory.own.dropRange l op.bytes } }

/-- A scratchpad atomic at its bank (R68, R160). -/
def atomScratch (fn : Nat) (o : AtomOp) (s : State) : Out :=
  let n := if o.w32 then 4 else 8
  let a := (s.getReg o.a).toNat % 2 ^ 32
  if a % n ≠ 0 then trapNow s ⟨.misalign, 0, BitVec.ofNat 64 a⟩
  else
    match s.readScr a n, s.scrKeys a n with
    | .trap t, _ => trapNow s t
    | .wait s, _ => hold s
    | .fail t s, _ => .next (s.trapAt t)
    | .ok _ _, .error t => trapNow s t
    | .ok old _, .ok ks =>
      if ¬ o.nr ∧ s.ret.length ≥ Config.returnDepth then stall s 3
      else
        let op := atomicOf fn o s
        let r := op.apply old
        let (slot, s1) := atomicSlot o s
        .next ((deliverOld slot r.2 (s1.putScr (ks.zip r.1))).advance 1)

/-- A global atomic (R160, R162): the checks, then at a local home at once, at another device by request, or held as an
ordered access of a DET launch (R296). -/
def atomGlobal (fn : Nat) (o : AtomOp) (s : State) : Out :=
  let n := if o.w32 then 4 else 8
  let ea := (s.getReg o.a).toNat
  if ea % n ≠ 0 then trapNow s ⟨.misalign, 0, s.getReg o.a⟩
  else
    match s.locsOf .atomic false false (bytesAt ea n), s.leafOf ea with
    | .error t, _ => trapNow s t
    | .ok _, .error t => trapNow s t
    | .ok locs, .ok (leaf, _) =>
      if s.launch.det ∧ ¬ o.nr ∧ ¬ Leaf.ordered leaf then trapNow s ⟨.detviol, 2, s.getReg o.a⟩
      else if s.launch.det ∧ Leaf.ordered leaf ∧ orderedRefused s leaf then trapNow s ⟨.detviol, 3, s.getReg o.a⟩
      else if s.launch.det ∧ Leaf.ordered leaf ∧ fn = 13 ∧ s.logShort 1 then trapNow s ⟨.watchdog, 9, 0⟩
      else if s.stackWaits locs then hold s
      else
        match s.poisonTrap (bytesAt ea n) locs with
        | some t => trapNow s t
        | none =>
          if ¬ o.nr ∧ s.ret.length ≥ Config.returnDepth then stall s 3
          else
            let op := atomicOf fn o s
            let (slot, s1) := atomicSlot o (s.note (bytesAt ea n))
            let l := locs.headD 0
            if s.launch.det ∧ Leaf.ordered leaf then
              .next ((holdAccess s1 (ownHeld s 0 s.isn (fn = 13) [(l, op)] slot false)).advance 1)
            else if isRemote l then
              .next ((askAtomic s1 l op (¬ o.nr) slot).advance 1)
            else
              let r := atomicHome op locs s1
              .next ((deliverOld slot r.2 (r.1.remember l)).advance 1)

/-- An ATOM word (R153, R160 to R162). -/
def atomExec (fn : Nat) (o : AtomOp) (s : State) : Out :=
  withRegs s [o.d, o.a, o.b]
    (if o.scratch then
      (if s.launch.det ∧ ¬ o.nr then trapNow s ⟨.detviol, 2, s.getReg o.a⟩ else atomScratch fn o s)
     else atomGlobal fn o s)

/-- AADD (R161). -/
def execAadd (o : AtomOp) (s : State) : Out := atomExec 0 o s
/-- ASUB (R161). -/
def execAsub (o : AtomOp) (s : State) : Out := atomExec 1 o s
/-- AAND (R161). -/
def execAand (o : AtomOp) (s : State) : Out := atomExec 2 o s
/-- AOR (R161). -/
def execAor (o : AtomOp) (s : State) : Out := atomExec 3 o s
/-- AXOR (R161). -/
def execAxor (o : AtomOp) (s : State) : Out := atomExec 4 o s
/-- AMIN (R161). -/
def execAmin (o : AtomOp) (s : State) : Out := atomExec 5 o s
/-- AMAX (R161). -/
def execAmax (o : AtomOp) (s : State) : Out := atomExec 6 o s
/-- AMINN (R161). -/
def execAminn (o : AtomOp) (s : State) : Out := atomExec 7 o s
/-- AMAXN (R161). -/
def execAmaxn (o : AtomOp) (s : State) : Out := atomExec 8 o s
/-- ASWP (R161). -/
def execAswp (o : AtomOp) (s : State) : Out := atomExec 9 o s
/-- ACAS (R161). -/
def execAcas (o : AtomOp) (s : State) : Out := atomExec 10 o s
/-- AINC (R161). -/
def execAinc (o : AtomOp) (s : State) : Out := atomExec 11 o s
/-- ADEC (R161). -/
def execAdec (o : AtomOp) (s : State) : Out := atomExec 12 o s
/-- AFADD (R161). -/
def execAfadd (o : AtomOp) (s : State) : Out := atomExec 13 o s
/-- AFMIN (R161). -/
def execAfmin (o : AtomOp) (s : State) : Out := atomExec 14 o s
/-- AFMAX (R161). -/
def execAfmax (o : AtomOp) (s : State) : Out := atomExec 15 o s

end Sys2Proof.Machine
end

