-- ==== Sys2Proof/Machine/Operands.lean ====
section
/-! DEFINITION. The operand forms of engine words: groups, spans and masks of vector registers (R119, R141, R185, R186),
scalars at issue (R29), random bits of an element (R124), and the addresses of vector memory words (R26, R143, R207). -/

namespace Sys2Proof.Machine

namespace State

/-- A vector register by number. -/
def vreg (s : State) (n : Nat) : VReg := s.vregs.getD n 0

/-- A group or span of registers as one number, the named register lowest (R141). -/
def groupNat (s : State) (r : Reg) (regs : Nat) : Nat :=
  (List.range regs).foldl (fun a m => a + (s.vreg (r.toNat + m)).toNat * 2 ^ (2048 * m)) 0

/-- The elements of `bits` bits of a group, `n` of them (R119, R141). -/
def elems (s : State) (r : Reg) (regs bits n : Nat) : List Nat :=
  let g := s.groupNat r regs
  (List.range n).map fun i => g / 2 ^ (bits * i) % 2 ^ bits

/-- Writes one vector register. -/
def setVreg (s : State) (n : Nat) (v : VReg) : State := { s with vregs := s.vregs.setIfInBounds n v }

/-- Writes a group from its number. -/
def setGroup (s : State) (r : Reg) (regs g : Nat) : State :=
  (List.range regs).foldl (fun s m => s.setVreg (r.toNat + m) (BitVec.ofNat 2048 (g / 2 ^ (2048 * m)))) s

/-- The number of a run of elements of `bits` bits, the first lowest. -/
def packElems (bits : Nat) (xs : List Nat) : Nat := xs.foldr (fun x a => x % 2 ^ bits + a * 2 ^ bits) 0

/-- Writes a group from its elements; bits above them become zero (R185). -/
def setElems (s : State) (r : Reg) (regs bits : Nat) (xs : List Nat) : State :=
  s.setGroup r regs (packElems bits xs)

/-- A mask register; k0 is all ones (R140). -/
def kreg (s : State) (n : Nat) : KReg := if n = 0 then BitVec.allOnes 256 else s.kregs.getD n 0

/-- Writes a mask register; k0 keeps its ones. -/
def setKreg (s : State) (n : Nat) (v : KReg) : State :=
  if n = 0 then s else { s with kregs := s.kregs.setIfInBounds n v }

/-- Element i of es bytes of a group of 2^w registers is active (R141). -/
def activeBit (k : KReg) (w es i : Nat) : Bool := k.getLsbD (i * es / 2 ^ w)

/-- The active elements of an operand under mask k (R186). -/
def active (s : State) (k : BitVec 4) (w : BitVec 2) (bits n : Nat) : List Bool :=
  (List.range n).map fun i => activeBit (s.kreg k.toNat) w.toNat (bits / 8) i

/-- Flags that an entry sets, not yet ordered before the sequencer (R125). -/
def setFlags (s : State) (f : Flags) : State := { s with fpPend := s.fpPend ||| f }

end State

/-- The scalar that an entry read at issue (R29). -/
def Entry.reg (e : Entry) (r : Reg) : Word := e.regs[r.toNat]'r.isLt

/-- The iteration of a micro-order; 0 outside a table (R143). -/
def Entry.iter (e : Entry) : Nat := match e.micro with | some m => m.iter | none => 0

/-- How element i of an entry rounds: the random bits only under rsr (R124, R188). -/
def roundCtl (o : EOp) (e : Entry) (s : State) (i : Nat) : RoundCtl :=
  ⟨o.rm, o.sat,
   if o.rm = .rsr then
     rndBits s.launch.seed s.launch.task (e.isn % 2 ^ 52) (match e.micro with | some m => m.k | none => 0) i
   else 0⟩

/-- Writes the active elements of d and the flags of their results; the others keep their values (R186). -/
def writeMasked (o : EOp) (t : ElemType) (res : Nat → Nat × Flags) (s : State) : State :=
  let n := o.elems t
  let old := s.elems o.d o.regs t.bits n
  let act := s.active o.k o.w t.bits n
  let rs := ((old.zip act).zipIdx).map fun p => if p.1.2 then res p.2 else (p.1.1, 0)
  (s.setElems o.d o.regs t.bits (rs.map (·.1))).setFlags (rs.foldl (fun a r => a ||| r.2) 0)

/-- Writes every element of d. -/
def writeWhole (o : EOp) (t : ElemType) (res : Nat → Nat × Flags) (s : State) : State :=
  let rs := (List.range (o.elems t)).map res
  (s.setElems o.d o.regs t.bits (rs.map (·.1))).setFlags (rs.foldl (fun a r => a ||| r.2) 0)

/-- The elements of a source governed by w. -/
def srcElems (o : EOp) (r : Reg) (t : ElemType) (s : State) : List Nat := s.elems r o.regs t.bits (o.elems t)

/-- An operation on pairs of elements of a and b (R186). -/
def map2 (o : EOp) (f : Nat → Nat → Nat × Flags) : Body := fun _ s =>
  let a := srcElems o o.a o.ty s
  let b := srcElems o o.b o.ty s
  .ok () (writeMasked o o.ty (fun i => f (a.getD i 0) (b.getD i 0)) s)

/-- An operation on elements of a. -/
def map1 (o : EOp) (f : Nat → Nat × Flags) : Body := fun _ s =>
  let a := srcElems o o.a o.ty s
  .ok () (writeMasked o o.ty (fun i => f (a.getD i 0)) s)

/-! Addresses of vector memory words -/

/-- The number of a queue's first rebase register: b0 to b7 of L, C and S in turn (R143, R255). -/
def rebaseBase : Queue → Nat
  | .l => 0 | .c => 8 | .s => 16

/-- What the rebase selector adds to an address (R143). -/
def rebaseOf (q : Queue) (o : MOp) (e : Entry) (s : State) : Word :=
  if o.re then BitVec.ofNat 64 e.iter * s.rebase.getD (rebaseBase q + o.rbn.toNat) 0 else 0

/-- The effective global address (R207). -/
def globalEa (q : Queue) (o : MOp) (e : Entry) (s : State) : Word :=
  e.reg o.a + o.imm.signExtend 64 + rebaseOf q o e s

/-- The effective scratchpad address of the form of R26. -/
def scratchEa (q : Queue) (o : MOp) (e : Entry) (s : State) : Nat :=
  let a := (e.reg o.a + (o.imm.extractLsb' 0 9).setWidth 64 * 16 + rebaseOf q o e s).toNat % 2 ^ 32
  if o.imm.getLsbD 11 then
    let rank := (o.imm.extractLsb' 9 2).toNat
    a % 2 ^ 20 + rank * 2 ^ 20 + a / 2 ^ 22 % 2 * 2 ^ 22 + 2 ^ 23 + a / 2 ^ 24 * 2 ^ 24
  else a

/-- Element addresses of a contiguous access: (element, address) of the active ones (R207). -/
def contiguousAddrs (ea modulus es : Nat) (act : List Bool) : List (Nat × Nat) :=
  (act.zipIdx.filter (·.1)).map fun p => (p.2, (ea + p.2 * es) % modulus)

/-- Element addresses of a gather or scatter (R207). -/
def indexedAddrs (base modulus es : Nat) (xs : List Nat) (act : List Bool) : List (Nat × Nat) :=
  (act.zipIdx.filter (·.1)).map fun p =>
    (p.2, ((base : Int) + (BitVec.ofNat 32 (xs.getD p.2 0)).toInt * es).emod modulus |>.toNat)

/-- A pair enters a list sorted by address, after those at the same address. -/
def insertByAddr (x : Nat × Nat) : List (Nat × Nat) → List (Nat × Nat)
  | [] => [x]
  | y :: r => if x.2 < y.2 then x :: y :: r else y :: insertByAddr x r

/-- The elements by ascending address, for the order of faults (R330). -/
def byAddr (xs : List (Nat × Nat)) : List (Nat × Nat) := xs.foldl (fun a x => insertByAddr x a) []

/-- The checks of the elements of a global access in the order of R330: alignment, then translation and permission. -/
def checkGlobal (s : State) (k : Access) (es : Nat) (xs : List (Nat × Nat)) : Option Trap :=
  (byAddr xs).findSome? fun x =>
    if x.2 % es ≠ 0 then some ⟨.misalign, 0, BitVec.ofNat 64 x.2⟩
    else match s.locsOf k false true (bytesAt x.2 es) with
      | .error t => some t
      | .ok _ => none

/-- The checks of the elements of a scratchpad access: alignment, then R66. -/
def checkScratch (s : State) (es : Nat) (xs : List (Nat × Nat)) : Option Trap :=
  (byAddr xs).findSome? fun x =>
    if x.2 % es ≠ 0 then some ⟨.misalign, 0, BitVec.ofNat 64 x.2⟩
    else match s.scrKeys x.2 es with
      | .error t => some t
      | .ok _ => none

/-- The locations of an element's bytes, after the checks. -/
def elemLocs (s : State) (k : Access) (plain : Bool) (es : Nat) (a : Nat) : List Nat :=
  match s.locsOf k false plain (bytesAt a es) with
  | .ok ls => ls
  | .error _ => []

/-- Splits a run of bytes into elements. -/
def chunks (es : Nat) : Nat → List Byte → List (List Byte)
  | 0, _ => []
  | n + 1, bs => bs.take es :: chunks es n (bs.drop es)

/-- Writes the loaded elements into d; the others keep their values (R186, R208). -/
def loadElems (o : MOp) (xs : List (Nat × Nat)) (bs : List Byte) (s : State) : State :=
  let n := o.elems
  let vals := (xs.map (·.1)).zip ((chunks o.es xs.length bs).map bytesToNat)
  let old := s.elems o.d o.regs o.ty.bits n
  let new := vals.foldl (fun (v : List Nat) p => v.set p.1 p.2) old
  s.setElems o.d o.regs o.ty.bits new

/-- How the bytes of a global access are read. -/
abbrev Reader := State → List Nat → List Nat → Res (List Byte)

/-- A global load: checks, translation, the read, the registers (R207, R208). -/
def loadGlobal (o : MOp) (read : Reader) (xs : List (Nat × Nat)) (s : State) : Res Unit :=
  match checkGlobal s .load o.es xs with
  | some t => .trap t
  | none =>
    let vas := xs.flatMap fun x => bytesAt x.2 o.es
    let locs := xs.flatMap fun x => elemLocs s .load true o.es x.2
    (read (s.note vas) vas locs).bind fun bs s => .ok () (loadElems o xs bs s)

/-- A scratchpad load (R66, R208). -/
def loadScratch (o : MOp) (xs : List (Nat × Nat)) (s : State) : Res Unit :=
  match checkScratch s o.es xs with
  | some t => .trap t
  | none =>
    let keys := xs.flatMap fun x => match s.scrKeys x.2 o.es with | .ok ks => ks | .error _ => []
    match (xs.flatMap fun x => bytesAt x.2 o.es).zip keys |>.find? fun p => s.memory.scrPoison.contains (p.2 / 64 * 64) with
    | some p => .trap ⟨.eccunc, 3, BitVec.ofNat 64 p.1⟩
    | none => .ok () (loadElems o xs (keys.map (Mem.read s.memory.scratch)) s)

/-- The bytes that a store writes, element by element in ascending element order (R210). -/
def storeElems (o : MOp) (xs : List (Nat × Nat)) (place : Nat → List Nat) (s : State) : List (Nat × Byte) :=
  let vals := s.elems o.d o.regs o.ty.bits o.elems
  xs.flatMap fun x => (place x.2).zip (natToBytes o.es (vals.getD x.1 0))

/-- A plain global store (R207, R210). -/
def storeGlobalVec (o : MOp) (xs : List (Nat × Nat)) (s : State) : Res Unit :=
  match checkGlobal s .store o.es xs with
  | some t => .trap t
  | none =>
    let ws := storeElems o xs (elemLocs s .store true o.es) s
    (s.note (xs.flatMap fun x => bytesAt x.2 o.es)).storePlain ws

/-- A scratchpad store (R66, R210). -/
def storeScratchVec (o : MOp) (xs : List (Nat × Nat)) (s : State) : Res Unit :=
  match checkScratch s o.es xs with
  | some t => .trap t
  | none => .ok () (s.putScr (storeElems o xs (fun a => match s.scrKeys a o.es with | .ok ks => ks | .error _ => []) s))

end Sys2Proof.Machine
end

