-- ==== Sys2Proof/Machine/VectorMemory.lean ====
section
/-! DEFINITION. Vector loads, stores, reductions at memory and vector atomics, load-blocks and the vector pop of the return
queue (R70, R71, R207 to R212). -/

namespace Sys2Proof.Machine

/-- The active elements of a memory word's data register. -/
def memActive (o : MOp) (s : State) : List Bool := s.active o.k o.w o.ty.bits o.elems

/-- Element addresses of a contiguous global word; they do not wrap, so that an ea whose bits [63:52] are not zero leaves every
element outside the address space (R207). -/
def globalAddrs (q : Queue) (o : MOp) (e : Entry) (s : State) : List (Nat × Nat) :=
  contiguousAddrs (globalEa q o e s).toNat (2 ^ 65) o.es (memActive o s)

/-- Element addresses of a contiguous scratchpad word. -/
def scratchAddrs (q : Queue) (o : MOp) (e : Entry) (s : State) : List (Nat × Nat) :=
  contiguousAddrs (scratchEa q o e s) (2 ^ 32) o.es (memActive o s)

/-- Element addresses of a gather or scatter: the indices are the 32-bit elements of b (R207). -/
def gatherAddrs (q : Queue) (o : MOp) (e : Entry) (s : State) : List (Nat × Nat) :=
  let xs := s.elems o.b (spanRegs (32 * o.elems)) 32 o.elems
  let base := e.reg o.a + rebaseOf q o e s
  if o.space = .scratch then indexedAddrs (base.toNat % 2 ^ 32) (2 ^ 32) o.es xs (memActive o s)
  else indexedAddrs base.toNat (2 ^ 64) o.es xs (memActive o s)

/-- The entry of VLD (R208). -/
def runVld (o : MOp) : Body := fun e s => loadGlobal o State.readPlain (globalAddrs .l o e s) s
/-- VLD (R208). -/
def execVld (o : MOp) (s : State) : Out := issue s .l (.vld o) {} (runVld o)

/-- The entry of VLDS (R208). -/
def runVlds (o : MOp) : Body := fun e s => loadScratch o (scratchAddrs .l o e s) s
/-- VLDS (R208). -/
def execVlds (o : MOp) (s : State) : Out := issue s .l (.vlds o) {} (runVlds o)

/-- The entry of VGATH (R208). -/
def runVgath (o : MOp) : Body := fun e s =>
  if o.space = .scratch then loadScratch o (gatherAddrs .l o e s) s
  else loadGlobal o State.readPlain (gatherAddrs .l o e s) s
/-- VGATH (R208). -/
def execVgath (o : MOp) (s : State) : Out := issue s .l (.vgath o) {} (runVgath o)

/-- The entry of VLDRO (R95, R208). -/
def runVldro (o : MOp) : Body := fun e s => loadGlobal o State.readRo (globalAddrs .l o e s) s
/-- VLDRO (R95, R208). -/
def execVldro (o : MOp) (s : State) : Out := issue s .l (.vldro o) {} (runVldro o)

/-! Load-blocks -/

/-- The lines that the L1's blocks hold. -/
def blockLines (bs : List Block) : Nat := bs.foldl (fun a b => a + b.lines) 0

/-- A completed block is evicted, the least recently used first (R71); none where no block has completed. -/
def evictBlock (m : Memory) : Option Memory :=
  (m.l1.reverse.find? fun i => match i with
    | .line _ => false
    | .block id => m.blocks.any fun b => b.id = id ∧ !b.open_).map (State.evictItem m)

/-- Room for a block of n lines within 16 blocks and 1,024 lines, evicting completed blocks; none when it has to wait
(R71). `fuel` bounds the evictions. -/
def makeRoom (n : Nat) : Nat → Memory → Option Memory
  | 0, _ => none
  | fuel + 1, m =>
    if m.blocks.length < 16 ∧ blockLines m.blocks + n ≤ 1024 then some m
    else match evictBlock m with
      | none => none
      | some m => makeRoom n fuel m

/-- A way of the set of each line of a new block, with plain lines of its own addresses given up; none where every way of some
set has an open fill (R70, R71). -/
def makeWays (base : Nat) : Nat → Memory → Option Memory
  | 0, m => some m
  | n + 1, m =>
    match makeWays base n m with
    | none => none
    | some m => State.freeWay { m with l1 := m.l1.filter (· ≠ .line (base / 128 + n)) } (State.setOf (base / 128 + n))

/-- The memory with a new block, its fill open (R70). -/
def addBlock (m : Memory) (b : Block) : Memory :=
  { m with blocks := m.blocks ++ [b], l1 := .block b.id :: m.l1, nextBlock := m.nextBlock + 1 }

/-- The bytes of a block's lines, by location. -/
def blockBytes (locs : List Nat) : List Nat := locs.flatMap fun l => bytesAt (l / 128 * 128) 128

/-- The fill of every line is asked for where its bytes are not on this device, from the current snapshot (R70). -/
def askBlock (s : State) (locs : List Nat) : State := s.askUnits (s.plainMissing (blockBytes locs)) false

/-- The entry of LDBLK (R70, R71): the base, its pages, the block; the fill ends with BLOCK_FILL_END. -/
def runLdblk (o : EOp) : Body := fun e s =>
  let base := (e.reg o.a + o.imm.signExtend 64).toNat
  let n := o.b.toNat + 1
  if base % 128 ≠ 0 then .trap ⟨.misalign, 0, BitVec.ofNat 64 base⟩
  else
    let pages := (List.range n).map fun i => base + 128 * i
    match s.locsOf .load false true pages with
    | .error t => .trap t
    | .ok locs =>
      match (makeRoom n 18 s.memory).bind (makeWays base n) with
      | none => .wait s
      | some m =>
        let b : Block := { id := s.memory.nextBlock, tag := o.d, base := base, lines := n, open_ := true, stale := false,
                           locs := locs }
        .ok () (askBlock ({ s with memory := addBlock m b }.note pages) locs)

/-- TagIssue at issue, unless the tag's count is full (R70, R73). -/
def ldblkSpec (o : EOp) (s : State) : IssueSpec :=
  { bound := if o.d.toNat < s.launch.header.ntag then none else some { cause := .tagbound }
    wait := if s.tagFull o.d then some 8 else none
    bindAt := fun s => (none, none, s.tagIssue o.d) }

/-- LDBLK (R70). -/
def execLdblk (o : EOp) (s : State) : Out := issue s .l (.ldblk o) (ldblkSpec o s) (runLdblk o)

/-! The vector pop -/

/-- The registers that a value of the return queue gives a group of 2^w registers (R209). -/
def agetRegs (v : RetValue) (regs : Nat) : List VReg :=
  (List.range regs).map fun m =>
    match v with
    | .scalar w => if m = 0 then w.setWidth 2048 else 0
    | .vector rs => rs.getD m 0

/-- The entry of AGET (R51, R209, R297, R355). -/
def runAget (o : EOp) : Body := fun e s =>
  let id := e.slot.getD 0
  match s.ret.find? fun r => r.id = id with
  | none => .ok () s
  | some r =>
    match r.bad, r.value with
    | some t, _ => .trap t
    | none, none => .wait s
    | none, some v =>
      .ok () (((agetRegs v o.regs).zipIdx).foldl (fun s p => s.setVreg (o.d.toNat + p.2) p.1) (s.retFree id))

/-- The entry takes an ordered value in the interval that is to deliver it: its pop will fault (R297). -/
def spoilEarly (s : State) (id : Nat) : State :=
  if tooEarly s id then
    { s with ret := s.ret.map fun r => if r.id = id then { r with bad := some ⟨.detviol, 5, 0⟩ } else r }
  else s

/-- AGET takes the next unmatched entry at issue (R51, R332), where a match that comes too early is found (R297). -/
def agetSpec (s : State) : IssueSpec :=
  { use := if s.retMatch.isNone then some ⟨.undef, 1, 0⟩ else none
    bindAt := fun s => match s.retMatch with | some r => (some r.1, none, spoilEarly r.2 r.1) | none => (none, none, s) }

/-- AGET (R209). -/
def execAget (o : EOp) (s : State) : Out := issue s .l (.aget o) (agetSpec s) (runAget o)

/-! Stores -/

/-- The entry of VST (R210). -/
def runVst (o : MOp) : Body := fun e s => storeGlobalVec o (globalAddrs .s o e s) s
/-- VST (R210). -/
def execVst (o : MOp) (s : State) : Out := issue s .s (.vst o) {} (runVst o)

/-- The entry of VSTS (R210). -/
def runVsts (o : MOp) : Body := fun e s => storeScratchVec o (scratchAddrs .s o e s) s
/-- VSTS (R210). -/
def execVsts (o : MOp) (s : State) : Out := issue s .s (.vsts o) {} (runVsts o)

/-- The entry of VSCAT (R210). -/
def runVscat (o : MOp) : Body := fun e s =>
  if o.space = .scratch then storeScratchVec o (gatherAddrs .s o e s) s
  else storeGlobalVec o (gatherAddrs .s o e s) s
/-- VSCAT (R210). -/
def execVscat (o : MOp) (s : State) : Out := issue s .s (.vscat o) {} (runVscat o)

/-! Reductions at memory and vector atomics -/

/-- The scalar atomic that a VRDM or VATOM operation matches (R161, R211, R212): add, min, max. -/
def typedFn (t : ElemType) (add min max : Nat × Nat × Nat) (which : Nat) : Nat :=
  let pick (p : Nat × Nat × Nat) : Nat := if t = .f32 then p.1 else if t.isSigned then p.2.1 else p.2.2
  match which with
  | 0 => pick add
  | 1 => pick min
  | _ => pick max

/-- The function number of R161 for add, min and max of a type. -/
def vecFn (t : ElemType) (which : Nat) : Nat := typedFn t (13, 0, 0) (14, 5, 7) (15, 6, 8) which

/-- VRDM's op as a function of R161 (R211). -/
def vrdmFn (o : MOp) : Nat :=
  match (o.b.extractLsb' 0 3).toNat with
  | 0 => vecFn o.ty 0 | 1 => vecFn o.ty 1 | 2 => vecFn o.ty 2 | 3 => 2 | 4 => 3 | _ => 4

/-- VATOM's op as a function of R161 (R212). -/
def vatomFn (o : MOp) : Nat :=
  match o.b.toNat with
  | 0 => vecFn o.ty 0 | 1 => 1 | 2 => 2 | 3 => 3 | 4 => 4 | 5 => vecFn o.ty 1 | 6 => vecFn o.ty 2 | _ => 9

/-- The atomic of one element. -/
def vecAtomic (fn : Nat) (o : MOp) (x : Nat) : AtomicOp := ⟨fn, o.ty.bits = 32, BitVec.ofNat 64 x, 0⟩

/-- The operation is a sequenced one in a DET launch: an f32 add (R296). -/
def isSeqd (fn : Nat) : Bool := fn = 13

/-- The leaf of an address that has been checked. -/
def leafAt (s : State) (va : Nat) : Word := match s.leafOf va with | .ok r => r.1 | .error _ => 0

/-- In a DET launch: the first element, by address, whose page refuses an ordered access, or a staging log that has no room for
the sequenced ones (R296, R343). -/
def orderedRefusal (s : State) (fn : Nat) (xs : List (Nat × Nat)) : Option Trap :=
  if s.launch.det then
    let bad := (byAddr xs).findSome? fun x =>
      let leaf := leafAt s x.2
      if Leaf.ordered leaf ∧ orderedRefused s leaf then some ⟨.detviol, 3, BitVec.ofNat 64 x.2⟩ else none
    match bad with
    | some t => some t
    | none =>
      if isSeqd fn ∧ s.logShort (xs.filter fun x => Leaf.ordered (leafAt s x.2)).length then some ⟨.watchdog, 9, 0⟩ else none
  else none

/-- The stack of some element is not ready yet (R311). -/
def elemsWait (s : State) (es : Nat) (xs : List (Nat × Nat)) : Bool :=
  xs.any fun x => s.stackWaits (elemLocs s .atomic false es x.2)

/-- A poisoned unit under the elements of a read-modify-write (R337). -/
def atomicPoison (s : State) (es : Nat) (xs : List (Nat × Nat)) : Option Trap :=
  (byAddr xs).findSome? fun x => s.poisonTrap (bytesAt x.2 es) (elemLocs s .atomic false es x.2)

/-- A poisoned bank word under the elements of a scratchpad read-modify-write (R337, R339). -/
def bankPoison (s : State) (es : Nat) (xs : List (Nat × Nat)) : Option Trap :=
  (byAddr xs).findSome? fun x =>
    match s.readScr x.2 es with
    | .trap t => some t
    | _ => none

/-- One element of a VRDM at its home: held, sent, or performed (R211, R282, R296). -/
def vrdmElem (fn : Nat) (o : MOp) (isn : Nat) (x : Nat × Nat) (v : Nat) (s : State) : State :=
  let locs := elemLocs s .atomic false o.es x.2
  let op := vecAtomic fn o v
  let l := locs.headD 0
  if s.launch.det ∧ Leaf.ordered (leafAt s x.2) then
    holdAccess s (ownHeld s x.1 isn (isSeqd fn) [(l, op)] none false)
  else if isRemote l then askAtomic s l op false none
  else (atomicHome op locs s).1.remember l

/-- One element of a VRDM at its bank (R68). -/
def vrdmBank (fn : Nat) (o : MOp) (x : Nat × Nat) (v : Nat) (s : State) : State :=
  match s.scrKeys x.2 o.es with
  | .error _ => s
  | .ok ks => s.putScr (ks.zip (((vecAtomic fn o v).apply (ks.map (Mem.read s.memory.scratch))).1))

/-- One Combine of a tree reduction at memory (R132, R211). -/
def treeCombine (fn : Nat) (o : MOp) (x y : Nat) : Nat :=
  if o.ty.bits = 32 then (atomicNew 32 fn (BitVec.ofNat 32 x) (BitVec.ofNat 32 y) 0).toNat
  else (atomicNew 64 fn (BitVec.ofNat 64 x) (BitVec.ofNat 64 y) 0).toNat

/-- What a VRDM combines where: each active element at its address, or their tree at ea (R211). -/
def vrdmWork (o : MOp) (e : Entry) (s : State) : List ((Nat × Nat) × Nat) :=
  let vals := s.elems o.d o.regs o.ty.bits o.elems
  let addrs := if o.space = .scratch then scratchAddrs .s o e s else globalAddrs .s o e s
  if o.b.getLsbD 5 then
    let ea := if o.space = .scratch then scratchEa .s o e s else (globalEa .s o e s).toNat
    match canonTree (treeCombine (vrdmFn o) o) 16 (addrs.map fun x => vals.getD x.1 0) with
    | none => []
    | some v => [((0, ea), v)]
  else addrs.map fun x => (x, vals.getD x.1 0)

/-- The entry of VRDM (R211). -/
def runVrdm (o : MOp) : Body := fun e s =>
  let work := vrdmWork o e s
  let xs := work.map (·.1)
  if o.space = .scratch then
    match checkScratch s o.es xs, bankPoison s o.es xs with
    | some t, _ => .trap t
    | none, some t => .trap t
    | none, none => .ok () (work.foldl (fun s p => vrdmBank (vrdmFn o) o p.1 p.2 s) s)
  else
    match checkGlobal s .atomic o.es xs with
    | some t => .trap t
    | none =>
      match orderedRefusal s (vrdmFn o) xs, atomicPoison s o.es xs with
      | some t, _ => .trap t
      | none, some t => .trap t
      | none, none =>
        if elemsWait s o.es xs then .wait s
        else
        let s := s.note (xs.flatMap fun x => bytesAt x.2 o.es)
        .ok () (work.foldl (fun s p => vrdmElem (vrdmFn o) o e.isn p.1 p.2 s) s)
/-- VRDM (R211). -/
def execVrdm (o : MOp) (s : State) : Out := issue s .s (.vrdm o) {} (runVrdm o)

/-- The old values of a VATOM as a vector of 2^w registers, in the layout of d (R212). -/
def vatomVector (o : MOp) (olds : List (Nat × Nat)) : List VReg :=
  let xs := olds.foldl (fun (a : List Nat) p => a.set p.1 p.2) (List.replicate o.elems 0)
  let g := State.packElems o.ty.bits xs
  (List.range o.regs).map fun m => BitVec.ofNat 2048 (g / 2 ^ (2048 * m))

/-- The vector entry of the return queue receives its value. -/
def vatomPush (o : MOp) (e : Entry) (olds : List (Nat × Nat)) (s : State) : State :=
  match e.slot with
  | none => s
  | some id => { s with ret := s.ret.map fun r =>
      if r.id = id then { r with value := some (.vector (vatomVector o olds)) } else r }

/-- One element of a VATOM at its home: performed, with the old value; or sent or held, with the request or key that
brings it. -/
def vatomElem (o : MOp) (e : Entry) (x : Nat × Nat) (v : Nat) (s : State) :
    State × (Nat × Option Nat × Option Nat) :=
  let fn := vatomFn o
  let locs := elemLocs s .atomic false o.es x.2
  let op := vecAtomic fn o v
  let l := locs.headD 0
  if s.launch.det ∧ Leaf.ordered (leafAt s x.2) then
    (holdAccess s (ownHeld s x.1 e.isn (isSeqd fn) [(l, op)] none true), (x.1, none, none))
  else if isRemote l then (askAtomic s l op true none, (x.1, none, some s.memory.nextReq))
  else
    let old := bytesToNat (locs.map s.homeByte)
    ((atomicHome op locs s).1.remember l, (x.1, some old, none))

/-- A VATOM that has begun ends when every element has performed (R49, R212). -/
def vatomFinish (o : MOp) (e : Entry) (s : State) (work : List (Nat × Option Nat × Option Nat)) : Res Unit :=
  if work.all fun w => w.2.1.isSome then
    .ok () (vatomPush o e (work.map fun w => (w.1, w.2.1.getD 0)) { s with memory := { s.memory with vatom := none } })
  else .wait { s with memory := { s.memory with vatom := some work } }

/-- In a DET launch: an active element on scratchpad or on a page with OR clear (R212). -/
def vatomDet (o : MOp) (s : State) (xs : List (Nat × Nat)) : Option Trap :=
  if s.launch.det then
    if o.space = .scratch then (byAddr xs).head?.map fun x => ⟨.detviol, 2, BitVec.ofNat 64 x.2⟩
    else (byAddr xs).findSome? fun x =>
      if Leaf.ordered (leafAt s x.2) then none else some ⟨.detviol, 2, BitVec.ofNat 64 x.2⟩
  else none

/-- The entry of VATOM (R212). -/
def runVatom (o : MOp) : Body := fun e s =>
  match s.memory.vatom with
  | some work => vatomFinish o e s work
  | none =>
    let vals := s.elems o.d o.regs o.ty.bits o.elems
    if o.space = .scratch then
      let xs := scratchAddrs .s o e s
      match vatomDet o s xs, checkScratch s o.es xs, bankPoison s o.es xs with
      | some t, _, _ => .trap t
      | none, some t, _ => .trap t
      | none, none, some t => .trap t
      | none, none, none =>
        let r := xs.foldl (fun (a : State × List (Nat × Nat)) x =>
          let old := match a.1.scrKeys x.2 o.es with
            | .ok ks => bytesToNat (ks.map (Mem.read a.1.memory.scratch))
            | .error _ => 0
          (vrdmBank (vatomFn o) o x (vals.getD x.1 0) a.1, a.2 ++ [(x.1, old)])) (s, [])
        .ok () (vatomPush o e r.2 r.1)
    else
      let xs := globalAddrs .s o e s
      match checkGlobal s .atomic o.es xs with
      | some t => .trap t
      | none =>
        match vatomDet o s xs, orderedRefusal s (vatomFn o) xs, atomicPoison s o.es xs with
        | some t, _, _ => .trap t
        | none, some t, _ => .trap t
        | none, none, some t => .trap t
        | none, none, none =>
          if elemsWait s o.es xs then .wait s
          else
          let s := s.note (xs.flatMap fun x => bytesAt x.2 o.es)
          let r := xs.foldl (fun (a : State × List (Nat × Option Nat × Option Nat)) x =>
            let p := vatomElem o e x (vals.getD x.1 0) a.1
            (p.1, a.2 ++ [p.2])) (s, [])
          vatomFinish o e r.1 r.2
/-- VATOM reserves its entry at issue; in a DET launch the entry takes the ordered values of the task's interval (R51, R297). -/
def vatomSpec (s : State) : IssueSpec :=
  { wait := (returning s).wait
    bindAt := fun s =>
      let r := s.retReserve
      (some r.1, none,
        if s.launch.det then
          { r.2 with ret := r.2.ret.map fun e => if e.id = r.1 then { e with interval := some s.ordered.interval } else e }
        else r.2) }

/-- VATOM (R212), an entry of the S queue by its major (R15).
DEDUCED: log entry 65. -/
def execVatom (o : MOp) (s : State) : Out := issue s .s (.vatom o) (vatomSpec s) (runVatom o)

end Sys2Proof.Machine
end

