-- ==== Sys2Proof/Machine/Tensor.lean ====
section
/-! DEFINITION. Tensor descriptors, sharding maps and resolution (R86 to R90, R179). -/

namespace Sys2Proof.Machine

/-- Bytes lo to lo + n - 1 of a block as a number. -/
def field (bs : List Byte) (lo n : Nat) : Nat := bytesToNat ((bs.drop lo).take n)

/-- One dimension of a sharding map (R88). -/
structure Dim where
  ax0   : Nat
  ax1   : Nat
  kind  : Nat
  hlo   : Nat
  hhi   : Nat
  padto : Nat

/-- A sharding map (R88). -/
structure ShardMap where
  dims  : List Dim
  part  : Nat
  tabva : Nat

namespace ShardMap

/-- Reads a map from its 64 bytes. -/
def ofBytes (bs : List Byte) : ShardMap :=
  { dims := (List.range 6).map fun d =>
      let w := field bs (4 * d) 4
      ⟨w % 8, w / 8 % 8, w / 64 % 4, w / 256 % 16, w / 4096 % 16, w / 65536⟩
    part := field bs 0x18 1
    tabva := field bs 0x20 8 }

/-- The axes that split a dimension, the major one first. -/
def axes (d : Dim) : List Nat := [d.ax0, d.ax1].filter (· < 4)

/-- The map is well formed for so many dimensions (R88). -/
def ok (bs : List Byte) (ndim : Nat) : Bool :=
  let m := ofBytes bs
  let used := m.dims.take ndim
  let split := used.flatMap axes
  let code (a : Nat) : Bool := a < 4 ∨ a = 7
  used.all (fun d => code d.ax0 ∧ code d.ax1 ∧ d.kind ≠ 3 ∧ ¬ (d.ax0 = 7 ∧ d.ax1 ≠ 7) ∧ ¬ (d.ax0 = d.ax1 ∧ d.ax0 < 7))
  && split.eraseDups.length = split.length
  && split.all (fun a => m.part / 2 ^ a % 2 = 0)
  && m.part < 16
  && (List.range (6 - ndim)).all (fun i => field bs (4 * (ndim + i)) 4 = 0)
  && field bs 0x19 7 = 0 && field bs 0x28 24 = 0

end ShardMap

/-- A descriptor or a shadow entry as it is used (R87). -/
structure Desc where
  base   : Nat
  dtype  : ElemType
  code   : Nat
  layout : Nat
  ndim   : Nat
  valid  : Bool
  rs     : Bool
  shape  : List Nat
  stride : List Nat
  map    : ShardMap
  mapOk  : Bool

namespace Desc

/-- Reads a descriptor from its 128 bytes (R87). -/
def ofBytes (bs : List Byte) : Desc :=
  let ndim := field bs 9 1
  { base := field bs 0 8, dtype := ElemType.ofCode (BitVec.ofNat 4 (field bs 8 1)), code := field bs 8 1 % 16
    layout := field bs 8 1 / 16 % 4, ndim := ndim, valid := field bs 0xA 2 % 2 = 1, rs := field bs 0xA 2 / 2 % 2 = 1
    shape := (List.range 6).map fun d => field bs (0x10 + 4 * d) 4
    stride := (List.range 6).map fun d => field bs (0x28 + 4 * d) 4
    map := ShardMap.ofBytes (bs.drop 0x40), mapOk := ShardMap.ok ((bs.drop 0x40).take 64) ndim }

/-- The descriptor with the shadow entry's BASE, strides and map (R87, R90). -/
def shadow (d : Desc) (bs : List Byte) : Desc :=
  { d with
    base := field bs 0 8
    stride := (List.range 6).map fun i => field bs (0x28 + 4 * i) 4
    map := ShardMap.ofBytes (bs.drop 0x40)
    mapOk := ShardMap.ok ((bs.drop 0x40).take 64) d.ndim }

/-- Accesses through it are possible: VALID, a byte-sized type, 1 to 6 dimensions, a layout, a well-formed map (R87, R88). That another
NDIM and LAYOUT 3 fault TENSOR, and that reserved bytes of the descriptor are ignored, is DESIGN CHOICE, log entry 58. -/
def ok (d : Desc) : Bool := d.valid ∧ d.code ≤ 12 ∧ 1 ≤ d.ndim ∧ d.ndim ≤ 6 ∧ d.layout ≠ 3 ∧ d.mapOk

/-- Bytes of an element. -/
def es (d : Desc) : Nat := d.dtype.bits / 8

end Desc

/-! The mesh (R86) -/

/-- The size of a mesh axis. -/
def axisSize (mesh : Word) (a : Nat) : Nat :=
  let n := mesh.toNat / 2 ^ (16 * a) % 65536
  if n = 0 then 1 else n

/-- The product of the sizes of the axes after a. -/
def axisUnder (mesh : Word) (a : Nat) : Nat :=
  ((List.range 4).filter (a < ·)).foldl (fun p b => p * axisSize mesh b) 1

/-- The coordinate of group rank g on an axis. -/
def coordOf (mesh : Word) (g a : Nat) : Nat := g / axisUnder mesh a % axisSize mesh a

/-- The rank that has these coordinates. -/
def rankOfCoords (mesh : Word) (c : Nat → Nat) : Nat :=
  (List.range 4).foldl (fun r a => r + c a * axisUnder mesh a) 0

/-- Shards of a dimension (R89). -/
def shards (mesh : Word) (d : Dim) : Nat := (ShardMap.axes d).foldl (fun p a => p * axisSize mesh a) 1

/-- The shard index of rank g in a dimension, AX0 major. -/
def shardOf (mesh : Word) (d : Dim) (g : Nat) : Nat :=
  (ShardMap.axes d).foldl (fun q a => q * axisSize mesh a + coordOf mesh g a) 0

/-- The coordinate on an axis of the shard j of a dimension, for an axis that splits it. -/
def shardCoord (mesh : Word) (d : Dim) (j a : Nat) : Nat :=
  match ShardMap.axes d with
  | [a0, a1] => if a = a0 then j / axisSize mesh a1 else j % axisSize mesh a1
  | _ => j

/-- Start and extent of shard j of n elements in p shards (R89). -/
def extent (kind n p : Nat) (tab : List Nat) (j : Nat) : Nat × Nat :=
  match kind with
  | 0 =>
    let b := (n + p - 1) / p
    (j * b, min b (n - j * b))
  | 1 =>
    let b := n / p
    (j * b + min j (n % p), b + if j < n % p then 1 else 0)
  | _ => ((tab.take j).foldl (· + ·) 0, tab.getD j 0)

/-- A tensor as one access sees it: descriptor and extent tables, by dimension. -/
structure TensorMap where
  desc : Desc
  tabs : List (List Nat)

namespace TensorMap

/-- Start and extent of shard j in dimension d. -/
def ext (t : TensorMap) (mesh : Word) (d j : Nat) : Nat × Nat :=
  match t.desc.map.dims[d]? with
  | some x => extent x.kind (t.desc.shape.getD d 0) (shards mesh x) (t.tabs.getD d []) j
  | none => (0, 0)

/-- The map's own dimension. -/
def dim (t : TensorMap) (d : Nat) : Dim := t.desc.map.dims.getD d ⟨7, 7, 0, 0, 0, 0⟩

/-- The padded local extent of rank g in dimension d (R89). -/
def localExtent (t : TensorMap) (mesh : Word) (g d : Nat) : Nat :=
  let x := t.dim d
  let n := x.hlo + (t.ext mesh d (shardOf mesh x g)).2 + x.hhi
  if x.padto ≤ 1 then n else (n + x.padto - 1) / x.padto * x.padto

/-- The offset in elements of local coordinates on rank g (R89). -/
def offset (t : TensorMap) (mesh : Word) (g : Nat) (l : List Nat) : Nat :=
  let nd := t.desc.ndim
  let plain (ds : List Nat) : Nat := ds.foldl (fun a d => a + l.getD d 0 * t.desc.stride.getD d 0) 0
  if t.desc.layout = 1 then
    let c := 128 / t.desc.es
    let j := l.getD (nd - 1) 0
    let i := if nd = 1 then 0 else l.getD (nd - 2) 0
    let tiles := (t.localExtent mesh g (nd - 1) + c - 1) / c
    plain (List.range (nd - 2)) + (i / 16 * tiles + j / c) * (16 * c) + i % 16 * c + j % c
  else plain (List.range nd)

/-- The shard that holds an index in a dimension, outside halos. -/
def holder (t : TensorMap) (mesh : Word) (d : Nat) (x : Int) : Option Nat :=
  (List.range (shards mesh (t.dim d))).find? fun j =>
    let e := t.ext mesh d j
    (e.1 : Int) ≤ x ∧ x < e.1 + e.2

/-- Rank g holds the index in dimension d, in its own extent or a halo. -/
def owns (t : TensorMap) (mesh : Word) (g d : Nat) (x : Int) : Bool :=
  let m := t.dim d
  let e := t.ext mesh d (shardOf mesh m g)
  (e.1 : Int) - m.hlo ≤ x ∧ x < (e.1 : Int) + e.2 + m.hhi

/-- Where an element lies: rank and offset, and whether it has a value of its own or reads as zero. -/
structure Spot where
  rank : Nat
  off  : Nat
  zero : Bool
  deriving DecidableEq

/-- The local coordinates of an index on a rank that holds it. -/
def localOf (t : TensorMap) (mesh : Word) (g : Nat) (x : List Int) : List Nat :=
  (List.range t.desc.ndim).map fun d =>
    let m := t.dim d
    (x.getD d 0 - (t.ext mesh d (shardOf mesh m g)).1 + m.hlo).toNat

/-- Resolution of an index for the reader of rank g (R89); none where the rule traps TENSOR. -/
def resolve (t : TensorMap) (mesh : Word) (g : Nat) (x : List Int) : Option Spot :=
  let ds := List.range t.desc.ndim
  let n (d : Nat) : Int := (t.desc.shape.getD d 0 : Nat)
  let bad := ds.any fun d =>
    let m := t.dim d
    let v := x.getD d 0
    v < -(m.hlo : Int) ∨ n d + m.hhi ≤ v ∨ (¬ t.owns mesh g d v ∧ (t.holder mesh d v).isNone)
  if bad then none
  else
    let away := ds.filter fun d => ¬ t.owns mesh g d (x.getD d 0)
    let c (a : Nat) : Nat :=
      match away.find? fun d => (ShardMap.axes (t.dim d)).contains a with
      | some d => shardCoord mesh (t.dim d) ((t.holder mesh d (x.getD d 0)).getD 0) a
      | none => coordOf mesh g a
    let owner := rankOfCoords mesh c
    some ⟨owner, t.offset mesh owner (t.localOf mesh owner x),
      away.isEmpty ∧ ds.any fun d => x.getD d 0 < 0 ∨ n d ≤ x.getD d 0⟩

/-- One past the greatest byte offset of any cell of rank g's buffer (R290). -/
def shardBytes (t : TensorMap) (mesh : Word) (g : Nat) : Nat :=
  let nd := t.desc.ndim
  let c := 128 / t.desc.es
  let up (n k : Nat) : Nat := (n + k - 1) / k * k
  let ext (d : Nat) : Nat :=
    let n := t.localExtent mesh g d
    if t.desc.layout = 1 ∧ d + 1 = nd then up n c else if t.desc.layout = 1 ∧ d + 2 = nd then up n 16 else n
  if (List.range nd).any fun d => ext d = 0 then 0
  else (t.offset mesh g ((List.range nd).map fun d => ext d - 1) + 1) * t.desc.es

end TensorMap

/-- The fault of a bad tensor access. -/
def tensorTrap : Trap := { cause := .tensor }

/-- The VA of a descriptor or shadow entry (R87). -/
def descVa (s : State) (id : Nat) (shadow : Bool) : Nat :=
  (s.launch.ttab.toNat + (if shadow then 524288 else 0) + 128 * id) % 2 ^ 64

/-- An immediate read of n bytes at a VA, for the device's own use (R179). -/
def readHomeVa (s : State) (va n : Nat) : Res (List Byte) :=
  let vas := bytesAt va n
  match s.locsOf .load false false vas with
  | .error t => .trap t
  | .ok locs => (s.note vas).readImm vas locs

/-- The descriptor, with its shadow entry while RS is set: from the cache, else read and cached (R179). -/
def fetchDesc (s : State) (id : Nat) (again : Bool) : Res (List Byte) :=
  match if again then none else s.memory.descs.find? fun d => d.id = id with
  | some d => .ok d.bytes s
  | none =>
    if s.launch.ttab = 0 then .trap tensorTrap
    else
      (readHomeVa s (descVa s id false) 128).bind fun bs s =>
        let keep (all : List Byte) (s : State) : Res (List Byte) :=
          .ok all { s with memory := { s.memory with
            descs := (⟨id, all⟩ :: s.memory.descs.filter fun d => d.id ≠ id).take 64 } }
        if (Desc.ofBytes bs).rs then (readHomeVa s (descVa s id true) 128).bind fun sh s => keep (bs ++ sh) s
        else keep bs s

/-- Reads the extent tables of TAB dimensions, in ascending order from TABVA (R88); a sum that is not SHAPE faults. -/
def readTabs (mesh : Word) (d : Desc) : (dims : List Nat) → (va : Nat) → (acc : List (List Nat)) → State →
    Res (List (List Nat))
  | [], _, acc, s => .ok acc s
  | i :: rest, va, acc, s =>
    let x := d.map.dims.getD i ⟨7, 7, 0, 0, 0, 0⟩
    if x.kind = 2 then
      let p := shards mesh x
      (readHomeVa s va (4 * p)).bind fun bs s =>
        let es := (List.range p).map fun j => field bs (4 * j) 4
        if es.foldl (· + ·) 0 ≠ d.shape.getD i 0 then .trap tensorTrap
        else readTabs mesh d rest (va + 4 * p) (acc ++ [es]) s
    else readTabs mesh d rest va (acc ++ [[]]) s

/-- A tensor as an access resolves it: the map in force, and while RS is set the new map with the progress bits. -/
structure TensorView where
  old  : TensorMap
  new  : Option (TensorMap × List Byte)

/-- Opens a tensor for an access: descriptor, maps, tables and progress bits (R87 to R90). A shadow map that is malformed places no
element while RS is set: the old map alone does (DESIGN CHOICE, log entry 58). -/
def openTensor (s : State) (id : Nat) : Res TensorView :=
  let mesh := s.launch.mesh
  (fetchDesc s id false).bind fun bs s =>
    let d := Desc.ofBytes bs
    if ¬ d.ok then .trap tensorTrap
    else
      (readTabs mesh d (List.range d.ndim) d.map.tabva [] s).bind fun tabs s =>
        let old : TensorMap := ⟨d, tabs⟩
        if ¬ d.rs then .ok ⟨old, none⟩ s
        else
          let sh := bs.drop 128
          let n := d.shadow sh
          if ¬ n.mapOk then .ok ⟨old, none⟩ s
          else
            (readTabs mesh n (List.range n.ndim) n.map.tabva [] s).bind fun tabs s =>
              let new : TensorMap := ⟨n, tabs⟩
              let pieces := (new.shardBytes mesh s.launch.rank4 + 32767) / 32768
              (readHomeVa s (field sh 8 8) ((pieces + 7) / 8)).bind fun bits s => .ok ⟨old, some (new, bits)⟩ s

/-- An element's place: rank and address, or that it reads as zero; and whether the new map says so. -/
inductive Place2 where
  | zero (isNew : Bool)
  | at (rank : Nat) (addr : Nat) (isNew : Bool)
  deriving DecidableEq

/-- The new map says where the element lies. -/
def Place2.isNew : Place2 → Bool
  | .zero b => b
  | .at _ _ b => b

/-- The element reads as zero. -/
def Place2.isZero : Place2 → Bool
  | .zero _ => true
  | .at .. => false

namespace TensorView

/-- The place under one map. -/
def under (t : TensorMap) (isNew : Bool) (mesh : Word) (g : Nat) (x : List Int) : Option Place2 :=
  (t.resolve mesh g x).map fun p =>
    if p.zero then .zero isNew else .at p.rank ((t.desc.base + p.off * t.desc.es) % 2 ^ 64) isNew

/-- Where an element lies for this device (R89, R90); none, where neither map places it, faults TENSOR. An index that the new map alone
places is taken by it (DEDUCED, log entry 64). -/
def place (v : TensorView) (mesh : Word) (g : Nat) (x : List Int) : Option Place2 :=
  match v.new with
  | none => under v.old false mesh g x
  | some (t, bits) =>
    match t.resolve mesh g x with
    | none => under v.old false mesh g x
    | some p =>
      let piece := p.off * t.desc.es / 32768
      if p.rank = g ∧ (bits.getD (piece / 8) 0).getLsbD (piece % 8) then under t true mesh g x
      else
        match under v.old false mesh g x with
        | some q => some q
        | none => under t true mesh g x

/-- A read of an element at this place faults PARTIAL: the map that places it is partial (R89). -/
def isPartial (v : TensorView) (p : Place2) : Bool :=
  (if p.isNew then match v.new with | some (t, _) => t.desc.map.part | none => 0 else v.old.desc.map.part) ≠ 0

end TensorView

/-! Group descriptors (R264) -/

/-- The descriptor that a block's first 64 bytes and its list of ranks give. -/
def descriptorOf (head ranks : List Byte) : Descriptor :=
  let n := field head 8 4
  let rs := (List.range n).map fun i => field ranks (4 * i) 4
  { ver := BitVec.ofNat 64 (field head 0 8), enc := field head 12 4 % 2 = 1, ranks := rs.map (BitVec.ofNat 14)
    clean := field head 12 4 < 2 ∧ field head 16 48 = 0 ∧ 1 ≤ n ∧ n ≤ 16384 ∧ rs.all (· < 16384) }

/-- The bytes of a descriptor, 0x00 to 0x40 + 4 N - 1. -/
def descriptorBytes (d : Descriptor) : List Byte :=
  natToBytes 8 d.ver.toNat ++ natToBytes 4 d.ranks.length ++ natToBytes 4 (if d.enc then 1 else 0) ++ natToBytes 48 0
    ++ d.ranks.flatMap fun r => natToBytes 4 r.toNat

/-- Reads a group descriptor at a VA from its home. -/
def readDescriptor (s : State) (va : Nat) : Res Descriptor :=
  (readHomeVa s va 64).bind fun head s =>
    let n := field head 8 4
    if n = 0 ∨ 16384 < n then .ok (descriptorOf (head.set 8 0 |>.set 9 0 |>.set 10 0 |>.set 11 0) []) s
    else (readHomeVa s ((va + 64) % 2 ^ 64) (4 * n)).bind fun rs s => .ok (descriptorOf head rs) s

/-- The descriptor of the launch's group: as cached, else as it stands at the group VA (R264). -/
def groupDesc (s : State) : Option Descriptor :=
  match s.group.cached with
  | some d => some d
  | none =>
    if s.launch.group = 0 then none
    else match readDescriptor s s.launch.group.toNat with
      | .ok d _ => some d
      | _ => none

/-- The device of a group rank (R264). -/
def deviceOfRank (s : State) (g : Nat) : Nat :=
  match groupDesc s with
  | some d => (d.ranks.getD g 0).toNat
  | none => g

end Sys2Proof.Machine
end

