-- ==== Sys2Proof/Machine/Image.lean ====
section
/-! DEFINITION. The kernel image: header, copy templates, graphs, Caller terms and multicast entries, with the launch's
checks of them (R43, R44, R242, R243, R246 to R248, R256, R313). -/

namespace Sys2Proof.Machine

/-- A signed 32-bit field. -/
def sfield (bs : List Byte) (lo : Nat) : Int := (BitVec.ofNat 32 (field bs lo 4)).toInt

/-- Reads a header's fields from its 128 bytes (R43). -/
def Header.ofBytes (b : List Byte) : Header :=
  let flags := field b 0x15 1
  { ns := field b 8 1, nv := field b 9 1, nk := field b 0xA 1, nm := field b 0xB 1, scratch := field b 0xC 4
    nbar := field b 0x10 2, ntag := field b 0x12 1, ndom := field b 0x13 1, lease := field b 0x14 1
    detok := flags % 2 = 1, tailm := flags / 2 % 2 = 1, ckpt := flags / 4 % 2 = 1
    tape := field b 0x18 4, entry := field b 0x1C 4
    tables := (List.range 8).map fun i => (field b (0x20 + 8 * i) 4, field b (0x24 + 8 * i) 4)
    nfg := field b 0x60 1, nct := field b 0x61 1, ncp := field b 0x62 1, nmc := field b 0x63 1 }

/-- Offset and size of a table of the image: 0 TEXT, 1 DATA, 2 SCRIMG, 3 FGRAPH, 4 CPYTPL, 5 CPROG, 6 MCAST, 7 CALLER. -/
def Header.table (h : Header) (i : Nat) : Nat × Nat := h.tables.getD i (0, 0)

/-- The limits of the header's fields, its reserved bytes, CHECK, and SCRIMG within SCRATCH (R43, R44). -/
def headerOk (b : List Byte) : Bool :=
  let h := Header.ofBytes b
  field b 0 4 = 0x4B535853 && field b 4 2 = 1 && field b 6 2 = 128
  && 1 ≤ h.ns && h.ns ≤ 56 && h.nv ≤ 64 && 1 ≤ h.nk && h.nk ≤ 16 && h.nm ≤ 16
  && h.scratch ≤ 1048576 && h.scratch % 64 = 0 && h.nbar ≤ 512 && h.ntag ≤ 64 && 1 ≤ h.ndom && h.ndom ≤ 4
  && h.lease ≤ 64 && field b 0x15 1 < 8 && field b 0x16 2 = 0 && h.tape % 16384 = 0
  && h.entry % 4 = 0 && h.entry < (h.table 0).2 && h.nct ≤ 32 && h.nmc ≤ 16
  && field b 0x64 20 = 0 && (h.table 2).2 ≤ h.scratch
  && (b.drop 0x78).take 8 = shake256 (b.take 0x78) 8

/-! Copy templates -/

/-- Reads a template from its 64 bytes (R243). -/
def Template.ofBytes (b : List Byte) : Template :=
  let ctl := field b 0 1
  let bit (i : Nat) : Bool := ctl / 2 ^ i % 2 = 1
  let far := BitVec.ofNat 2 (ctl / 2)
  let n (i : Nat) : Nat := field b (0x14 + 2 * i) 2
  { dirIn := bit 0, far := far, fgr := bit 3, qnt := bit 4, mc := bit 5, scv := bit 6, graph := field b 1 1
    codeT := BitVec.ofNat 4 (field b 2 1), srcT := BitVec.ofNat 4 (field b 2 1 / 16)
    rm := BitVec.ofNat 2 (field b 3 1), sat := field b 3 1 / 4 % 2 = 1, spec := field b 3 1 / 8 % 2 = 1
    mcg := field b 3 1 / 16, scope := BitVec.ofNat 3 (field b 4 1), fbase := BitVec.ofNat 64 (field b 8 8)
    soff := field b 0x10 4 % 2 ^ 20, n := #v[n 0, n 1, n 2, n 3]
    fs := #v[sfield b 0x20, sfield b 0x24, sfield b 0x28, if far = 2 then sfield b 0x2C else 0]
    ts := #v[sfield b 0x30, sfield b 0x34, sfield b 0x38] }

/-- The template is well formed (R243). -/
def templateOk (nfg nmc : Nat) (b : List Byte) : Bool :=
  let t := Template.ofBytes b
  let q := ElemType.ofCode t.codeT
  let st := ElemType.ofCode t.srcT
  field b 0 1 < 128 && field b 4 1 < 8 && (t.scv → t.scope.toNat ≤ 5) && (¬ t.scv → field b 4 1 = 0)
  && field b 5 3 = 0 && field b 0x10 4 < 2 ^ 20 && field b 0x1C 4 = 0 && field b 0x3C 4 = 0
  && t.far ≠ 3 && ! (t.fgr && t.qnt) && ! (t.qnt && (t.dirIn || t.far = 2 || t.mc)) && ! (t.mc && ! t.dirIn)
  && (if t.fgr then t.graph < nfg else t.graph = 0)
  && (if t.qnt then q.isNarrow && st.isFlt && t.n[0] % (32 * (st.bits / 8)) = 0 else field b 2 1 = 0 && field b 3 1 % 16 = 0)
  && (if t.mc then t.mcg < nmc else t.mcg = 0)
  && t.n.toList.all (· ≠ 0)
  && (if t.far = 2 then field b 0xA 6 = 0 && field b 8 2 < 4096 else field b 0x2C 4 = 0)

/-! Farandole graphs -/

/-- Reads a cell from its 16 bytes (R247). -/
def Cell.ofBytes (b : List Byte) : Cell :=
  let w := field b 0 4
  let f (lo n : Nat) : Nat := w / 2 ^ lo % 2 ^ n
  { row := f 0 3, col := f 3 3, op := f 6 5, inap := f 11 1 = 1, inar := f 12 3, inac := f 15 3, inav := f 18 1 = 1
    inbr := f 19 3, inbc := f 22 3, inbv := f 25 1 = 1, ot := BitVec.ofNat 4 (f 26 4), inbp := f 30 1 = 1
    p0 := BitVec.ofNat 32 (field b 4 4), p1 := BitVec.ofNat 32 (field b 8 4), p2 := BitVec.ofNat 32 (field b 12 4) }

/-- Reads a graph that starts at byte `off` of the table. -/
def Graph.ofBytes (b : List Byte) (off : Nat) : Graph :=
  let h := b.drop off
  { crc := BitVec.ofNat 32 (field h 4 4), cells := (List.range (field h 0 2)).map fun i => Cell.ofBytes ((h.drop (16 + 16 * i)).take 16) }

namespace Cell

/-- The output type (R247). -/
def ty (c : Cell) : ElemType := ElemType.ofCode c.ot

/-- The position of the A input's producer; none for the primary input and for SRC (R247, R313). -/
def aFrom (c : Cell) : Option (Nat × Nat) :=
  if c.op = 17 then none
  else if c.inav then some (c.inar, c.inac)
  else if c.col = 0 then none else some (c.row, c.col - 1)

/-- The cell takes the stream's primary input. -/
def primary (c : Cell) : Bool := c.op ≠ 17 ∧ ¬ c.inav ∧ c.col = 0

/-- The position of the B input's producer. -/
def bFrom (c : Cell) : Option (Nat × Nat) := if c.inbv then some (c.inbr, c.inbc) else none

/-- The cell's operator needs a B input, allows one, or takes none (R248). -/
def needsB (c : Cell) : Bool := [1, 5, 6, 7, 8, 9, 15].contains c.op

/-- P0 within `lo` low bits. -/
def pOk (p : Lane32) (bits : Nat) : Bool := p.toNat < 2 ^ bits

end Cell

/-- The type of an input: n32 for the primary input, else its producer's output type; a SPLIT hands on its own (R248,
R251). -/
def inputType (g : List Cell) (at_ : Option (Nat × Nat)) : ElemType :=
  match at_ with
  | none => .n32
  | some p =>
    match g.find? fun c => c.row = p.1 ∧ c.col = p.2 with
    | some c => c.ty
    | none => .n32

/-- An operator's types and parameters are admitted (R248). `a` and `b` are its input types. -/
def opOk (c : Cell) (a b : ElemType) : Bool :=
  let t := c.ty
  let nat (x : ElemType) : Bool := x.isInt ∧ ¬ x.isSigned
  let p0 := c.p0.toNat
  let p1 := c.p1.toNat
  let blk := 1 ≤ p1 ∧ p1 < 65536
  let z1 := c.p1 = 0
  let z2 := c.p2 = 0
  match c.op with
  | 0 => (t = .n8 ∨ t = .n16 ∨ t = .n32) ∧ 1 ≤ p0 ∧ p0 ≤ 16 ∧ z1 ∧ z2
  | 1 => nat a ∧ b = .bf16 ∧ t.isFlt ∧ 1 ≤ p0 ∧ p0 ≤ 16 ∧ blk ∧ z2
  | 2 => a.isFlt ∧ t.isFlt ∧ (if c.inbv then b = .f32 ∧ blk ∧ p0 = 0 else z1) ∧ z2
  | 3 => a.isFlt ∧ t = .n8 ∧ (ElemType.ofCode (BitVec.ofNat 4 p0)).isNarrow ∧ p0 < 256 ∧ z1 ∧ z2
  | 4 => t.isAny ∧ p0 < 8 ∧ z1 ∧ z2
  | 5 | 6 => a = t ∧ b = t ∧ (t.isInt ∨ t.isFlt) ∧ p0 < 8 ∧ z1 ∧ z2
  | 7 => a = t ∧ b = t ∧ t.isFlt ∧ p0 < 8 ∧ p1 < 2 ^ t.bits ∧ z2
  | 8 => a = b ∧ t = .n8 ∧ p0 < 6 ∧ z1 ∧ z2
  | 9 => a = t ∧ b = t ∧ t.isAny ∧ p0 < 6 ∧ z1 ∧ z2
  | 10 => a = t ∧ t.isAny ∧ p0 < 256 ∧ z1 ∧ z2
  | 11 => nat a ∧ t.isAny ∧ z1 ∧ z2
  | 12 => a = .n8 ∧ t = .n32 ∧ p0 = 0 ∧ z1 ∧ z2
  | 13 => a.isInt ∧ t = .n32 ∧ 1 ≤ p0 ∧ p0 ≤ 32 ∧ z1 ∧ z2
  | 14 => t = a ∧ 1 ≤ p0 ∧ p0 < 65536 ∧ z1 ∧ z2
  | 15 => a = t ∧ b = t ∧ t.isAny ∧ 1 ≤ p0 ∧ p0 < 65536 ∧ z1 ∧ z2
  | 16 => c.ot = 0 ∧ p0 < 2 ∧ z2
  | 17 =>
    let cb := p1 % 65536
    t.isAny ∧ cb % 4 = 0 ∧ cb % (t.bits / 8) = 0 ∧ c.p2.toNat < 128 ∧ (c.p2.toNat / 64 % 2 = 0 → c.p2 = 0)
      ∧ ¬ c.inav ∧ ¬ c.inap ∧ ¬ c.inbv ∧ ¬ c.inbp ∧ c.inar = 0 ∧ c.inac = 0 ∧ c.inbr = 0 ∧ c.inbc = 0
  | _ => false

/-- No cycle: after so many rounds of taking away the cells whose inputs are gone, none is left. -/
def acyclic : (fuel : Nat) → List Cell → Bool
  | 0, g => g.isEmpty
  | n + 1, g =>
    let isIn (p : Option (Nat × Nat)) : Bool := match p with
      | none => false
      | some p => g.any fun c => c.row = p.1 ∧ c.col = p.2
    acyclic n (g.filter fun c => isIn c.aFrom ∨ isIn c.bFrom)

/-- The inputs that a cell's output feeds: A or B of each cell, with the port bit. -/
def feeds (g : List Cell) (p : Cell) : List Bool :=
  g.flatMap fun c =>
    (if c.aFrom = some (p.row, p.col) then [c.inap] else []) ++ (if c.bFrom = some (p.row, p.col) then [c.inbp] else [])

/-- The graph is well formed (R247, R248, R313). `raw` are its entries' first words. -/
def graphOk (g : Graph) (raw : List Nat) : Bool :=
  let cs := g.cells
  let pos := cs.map fun c => (c.row, c.col)
  let named (p : Option (Nat × Nat)) : Bool := match p with | none => true | some p => pos.contains p
  let isSplit (p : Option (Nat × Nat)) : Bool := match p with
    | none => false
    | some p => cs.any fun c => c.row = p.1 ∧ c.col = p.2 ∧ c.op = 14
  1 ≤ cs.length && cs.length ≤ 64 && pos.eraseDups.length = pos.length && raw.all (· < 2 ^ 31)
  && cs.all (fun c =>
    c.op < 18 && c.ot.toNat < 13 && named c.aFrom && named c.bFrom
    && (if c.needsB then c.inbv else (c.op = 2 || ! c.inbv))
    && (! c.inap || isSplit c.aFrom) && (! c.inbp || isSplit c.bFrom)
    && opOk c (inputType cs c.aFrom) (inputType cs c.bFrom)
    && (let f := feeds cs c
        if c.op = 16 then f.isEmpty
        else if c.op = 14 then (f.filter id).length = 1 && (f.filter (! ·)).length = 1
        else 1 ≤ f.length && f.length ≤ 2))
  && acyclic 65 cs && cs.any (fun c => c.op = 16) && (cs.filter Cell.primary).length ≤ 1

/-! Caller terms -/

namespace Term

/-- Fields of a term's 128 bits (R256). -/
def f (w : BitVec 128) (lo n : Nat) : Nat := w.toNat / 2 ^ lo % 2 ^ n
def ska (w : BitVec 128) : Nat := f w 0 3
def sna (w : BitVec 128) : Nat := f w 3 9
def skb (w : BitVec 128) : Nat := f w 12 3
def snb (w : BitVec 128) : Nat := f w 15 9
def comb (w : BitVec 128) : Bool := f w 24 1 = 1
def count (w : BitVec 128) : Nat := f w 25 16
def tk (w : BitVec 128) : Nat := f w 41 3
def tn (w : BitVec 128) : Nat := f w 44 9
def tg (w : BitVec 128) : Nat := f w 53 6
def rearm (w : BitVec 128) : Bool := f w 59 1 = 1
def arg (w : BitVec 128) : Nat := f w 64 64

/-- A source number within the header: none, or the header bound it breaks; `some none` is malformed. -/
def sourceBad (h : Header) (k n : Nat) : Option Cause :=
  match k with
  | 1 | 4 => if n < h.ntag then none else some .tagbound
  | 2 | 5 => if n < h.nbar then none else some .barbound
  | 3 => if n < 3 then none else some .undef
  | 0 => if n = 0 then none else some .undef
  | _ => some .undef

/-- Why a term is malformed, header bounds first (R256, R258, R330); none for a well-formed one. -/
def bad (h : Header) (w : BitVec 128) : Option Cause :=
  if w = 0 then none
  else
    let target : Option Cause := match tk w with
      | 0 | 1 => if tg w < h.ntag then none else some .tagbound
      | 3 => if tn w < h.nbar then none else some .barbound
      | 4 => if tn w < h.ntag then none else some .tagbound
      | _ => none
    let causes := [sourceBad h (ska w) (sna w), sourceBad h (skb w) (snb w), target].filterMap id
    if causes.contains .barbound then some .barbound
    else if causes.contains .tagbound then some .tagbound
    else if causes.contains .undef ∨ ska w = 0 ∨ f w 60 4 ≠ 0 ∨ 5 ≤ tk w ∨ count w = 0 then some .undef
    else if (2 ≤ tk w ∧ tg w ≠ 0) ∨ (tk w = 2 ∧ tn w ≠ 0) ∨ (3 ≤ tk w ∧ arg w ≠ 0) then some .undef
    else if tk w = 0 ∧ h.nct ≤ tn w then some .undef
    else if tk w = 1 ∧ (h.nfg ≤ tn w ∨ arg w / 2 ^ 60 ≠ 0) then some .undef
    else none

/-- The detail of a malformed term's UNDEF: a number beyond its table, or another value (R322, R332). -/
def detail (h : Header) (w : BitVec 128) : Nat :=
  match bad h w with
  | some .undef => if (tk w = 0 ∧ h.nct ≤ tn w) ∨ (tk w = 1 ∧ h.nfg ≤ tn w) then 13 else 15
  | _ => 0

end Term

/-- Splits bytes into pieces of n bytes. -/
def pieces (n : Nat) (bs : List Byte) : List (List Byte) :=
  (List.range (bs.length / n)).map fun i => (bs.drop (n * i)).take n

/-- The engines' tables of an image (R242). `img` are its bytes. -/
def ImageTables.ofBytes (img : List Byte) : ImageTables :=
  let h := Header.ofBytes img
  let tab (i : Nat) : List Byte := (img.drop (h.table i).1).take (h.table i).2
  let cp := tab 5
  { templates := (pieces 64 (tab 4)).map Template.ofBytes
    graphs := (List.range h.nfg).map fun i => Graph.ofBytes (tab 3) (field (tab 3) (4 * i) 4)
    progs := (List.range h.ncp).map fun i =>
      let p := cp.drop (field cp (4 * i) 4)
      (List.range (field p 0 4)).map fun j => field p (4 + 4 * j) 4
    terms := (pieces 16 (tab 7)).map fun b => BitVec.ofNat 128 (bytesToNat b)
    mcast := (List.range h.nmc).map fun i => BitVec.ofNat 64 (field (tab 6) (8 * i) 8) }

/-- The launch's check of templates, graphs and Caller terms (R242), with R295's check of a DET launch. -/
def tablesOk (det : Bool) (img : List Byte) : Bool :=
  let h := Header.ofBytes img
  let tab (i : Nat) : List Byte := (img.drop (h.table i).1).take (h.table i).2
  let t := ImageTables.ofBytes img
  let fg := tab 3
  (pieces 64 (tab 4)).length = h.nct && (pieces 64 (tab 4)).all (templateOk h.nfg h.nmc)
  && (List.range h.nfg).all (fun i =>
    let g := Graph.ofBytes fg (field fg (4 * i) 4)
    let b := fg.drop (field fg (4 * i) 4)
    field b 2 2 = 0 && field b 8 8 = 0 && graphOk g ((List.range g.cells.length).map fun j => field b (16 + 16 * j) 4))
  && t.terms.all (fun w => (Term.bad h w).isNone && ! (det && Term.tk w = 3 && w ≠ 0 && Term.tn w + 1 = h.nbar))
  && t.mcast.all (fun w => w.toNat < 2 ^ 25)
  && t.progs.all (fun p => 1 ≤ p.length && p.length ≤ 4096)

/-- The bytes of a graph's entries, of which the header holds the CRC (R247). -/
def cellBytes (c : Cell) : List Byte :=
  let b (x : Bool) : Nat := if x then 1 else 0
  let w := c.row + c.col * 2 ^ 3 + c.op * 2 ^ 6 + b c.inap * 2 ^ 11 + c.inar * 2 ^ 12 + c.inac * 2 ^ 15 + b c.inav * 2 ^ 18
    + c.inbr * 2 ^ 19 + c.inbc * 2 ^ 22 + b c.inbv * 2 ^ 25 + c.ot.toNat * 2 ^ 26 + b c.inbp * 2 ^ 30
  natToBytes 4 w ++ natToBytes 4 c.p0.toNat ++ natToBytes 4 c.p1.toNat ++ natToBytes 4 c.p2.toNat

/-- The CRC-32C of a plane (R252, R350). -/
def planeCrc (cs : List Cell) : Lane32 := crc32c (cs.flatMap cellBytes)

end Sys2Proof.Machine
end

