-- ==== Sys2Proof/Machine/Tile.lean ====
section
/-! DEFINITION. Tile loads, stores and additions (R112 to R116, R229 to R232). -/

namespace Sys2Proof.Machine

/-- The shape word (R229): rows, bytes of a row, stride. -/
structure TileShape where
  rows   : Nat
  bytes  : Nat
  stride : Int

/-- Reads a shape word; zero selects the default tile, and an illegal word gives none (R229). -/
def TileShape.ofWord (w : Word) : Option TileShape :=
  if w = 0 then some ⟨16, 128, 128⟩
  else
    let n := (w.extractLsb' 0 12).toNat
    let r := (w.extractLsb' 12 12).toNat
    let st := (w.extractLsb' 32 32).toInt
    if n = 0 ∨ r = 0 ∨ w.extractLsb' 24 8 ≠ 0 ∨ 32768 < n * r * 16 then none
    else some ⟨n, 16 * r, st⟩

/-- The register that holds the shape word. -/
def tileC (o : MOp) : Reg := o.imm.extractLsb' 6 6

/-- The scratchpad address of the tile. -/
def tileScr (o : MOp) (e : Entry) : Nat := (e.reg o.d).toNat % 2 ^ 32

/-- What a tile covers: for each byte of the dense tile the VA or nothing for a pad, the row starts, and the owner when it
is another device. -/
structure TilePlan where
  bytes  : List (Option Nat)
  starts : List Nat
  owner  : Option Nat

/-- Rows of a tile in global space (R230). -/
def globalPlan (q : Queue) (o : MOp) (e : Entry) (sh : TileShape) (s : State) : TilePlan :=
  let base := (e.reg o.a + rebaseOf q o e s).toNat
  let starts := (List.range sh.rows).map fun (i : Nat) => (((base : Int) + (i : Int) * sh.stride).emod (2 ^ 64)).toNat
  { bytes := starts.flatMap fun r => (List.range sh.bytes).map fun j => some ((r + j) % 2 ^ 64)
    starts := starts, owner := none }

/-- The index quad of a tensor tile (R26). -/
def quadIndex (o : MOp) (e : Entry) (d : Nat) : Int :=
  ((e.reg (o.b + BitVec.ofNat 6 (d / 2))).extractLsb' (32 * (d % 2)) 32).toInt

/-- Rows of a tile in tensor space, resolved element by element (R230, R231). -/
def tensorPlan (o : MOp) (e : Entry) (sh : TileShape) (reads : Bool) (s : State) : Res TilePlan :=
  (openTensor s ((e.reg o.a).toNat % 4096)).bind fun v s =>
    let nd := v.old.desc.ndim
    let es := v.old.desc.es
    if sh.bytes % es ≠ 0 ∨ (1 < sh.rows ∧ nd = 1) then .trap tensorTrap
    else
      let mesh := s.launch.mesh
      let me := s.launch.rank4
      let index (r c : Nat) : List Int := (List.range nd).map fun d =>
        quadIndex o e d + (if d + 1 = nd then (c : Int) else if d + 2 = nd then (r : Int) else 0)
      let places := (List.range sh.rows).map fun r => (List.range (sh.bytes / es)).map fun c => v.place mesh me (index r c)
      let all := places.flatten
      let real := all.filterMap fun p => match p with | some (.at r _ n) => some (r, n) | _ => none
      if all.any (·.isNone) ∨ 1 < real.eraseDups.length then .trap tensorTrap
      else if reads ∧ (all.filterMap id).any v.isPartial then .trap { cause := .partialT }
      else if ¬ reads ∧ (all.filterMap id).any (·.isZero) then .trap tensorTrap
      else
        let addr (p : Option Place2) : Option Nat := match p with | some (.at _ a _) => some a | _ => none
        let owner := (real.head?.map (·.1)).bind fun r => if r = me then none else some (deviceOfRank s r)
        .ok { bytes := all.flatMap fun p => (List.range es).map fun j => (addr p).map fun a => (a + j) % 2 ^ 64
              starts := places.filterMap fun row => row.head?.bind addr, owner := owner } s

/-- The plan of a tile: alignment, scratchpad bytes, resolution, in the order of R231. -/
def tilePlan (q : Queue) (o : MOp) (reads : Bool) (e : Entry) (s : State) : Res (TileShape × TilePlan) :=
  match TileShape.ofWord (e.reg (tileC o)) with
  | none => .trap ⟨.undef, 10, 0⟩
  | some sh =>
    let d := tileScr o e
    let starts := (globalPlan q o e sh s).starts
    if d % 16 ≠ 0 then .trap ⟨.misalign, 0, BitVec.ofNat 64 d⟩
    else
      match if o.space = .tensor then none else starts.find? (· % 16 ≠ 0) with
      | some a => .trap ⟨.misalign, 0, BitVec.ofNat 64 a⟩
      | none =>
        match s.scrKeys d (sh.rows * sh.bytes) with
        | .error t => .trap t
        | .ok _ =>
          if o.space = .tensor then
            (tensorPlan o e sh reads s).bind fun p s =>
              match p.starts.find? (· % 16 ≠ 0) with
              | some a => .trap ⟨.misalign, 0, BitVec.ofNat 64 a⟩
              | none => .ok (sh, p) s
          else .ok (sh, globalPlan q o e sh s) s

/-- The VAs that a plan forms. -/
def TilePlan.vas (p : TilePlan) : List Nat := p.bytes.filterMap id

/-- Translation of a tile (R113, R231): every page, one mode, not mode 5. A tile of another device is reached at its
homes under the VA of the owner's space (DEDUCED, log entry 15). -/
def tileLocs (s : State) (k : Access) (plain : Bool) (p : TilePlan) : Except Trap (List Nat) :=
  match p.owner with
  | some dev => .ok (p.vas.map fun v => regionBase (peerRegion dev) + v % 2 ^ 48)
  | none =>
    let fail (v : Nat) : Trap := ⟨.tilepage, 0, BitVec.ofNat 64 v⟩
    let pages := (p.vas.map fun v => v / 65536 * 65536).eraseDups
    let first (pg : Nat) : Nat := (p.vas.find? fun v => v / 65536 * 65536 = pg).getD pg
    let modeOf (pg : Nat) : Except Trap Nat :=
      match s.locOf k false plain (first pg), s.leafOf pg with
      | .ok _, .ok (leaf, _) => if Leaf.mode leaf = 5 then .error (fail pg) else .ok (Leaf.mode leaf)
      | .error t, _ => .error (if t.cause = .eccunc then t else fail pg)
      | _, .error t => .error t
    let m0 := (pages.head?.bind fun pg => (modeOf pg).toOption).getD 0
    let bad := pages.findSome? fun pg =>
      match modeOf pg with
      | .error t => some t
      | .ok m => if m = m0 then none else some (fail pg)
    match bad with
    | some t => .error t
    | none => s.locsOf k false plain p.vas

/-- The tile touches so many lines at most (R112). -/
def tileLines (p : TilePlan) : Nat := (p.vas.map (· / 128)).eraseDups.length

/-- Plan, line count and translation of a tile access. -/
def tileAccess (q : Queue) (o : MOp) (reads : Bool) (k : Access) (plain : Bool) (e : Entry) (s : State) :
    Res (TileShape × TilePlan × List Nat) :=
  (tilePlan q o reads e s).bind fun (sh, p) s =>
    if 256 < tileLines p then .trap ⟨.undef, 10, 0⟩
    else
      match tileLocs s k plain p with
      | .error t => .trap t
      | .ok locs => .ok (sh, p, locs) (if p.owner.isNone then s.note p.vas else s)

/-- The dense tile of bytes, pads zero. -/
def spread : List (Option Nat) → List Byte → List Byte
  | [], _ => []
  | none :: r, bs => 0 :: spread r bs
  | some _ :: r, bs => bs.headD 0 :: spread r bs.tail

/-- The shape is checked at issue: s[c] is read there (R229, R332). -/
def tileSpec (o : MOp) (s : State) : IssueSpec :=
  { use := if (TileShape.ofWord (s.getReg (tileC o))).isNone then some ⟨.undef, 10, 0⟩ else none }

/-- The entry of TLD (R231). -/
def runTld (o : MOp) : Body := fun e s =>
  (tileAccess .l o true .load (o.ord ≠ .imm) e s).bind fun (_, p, locs) s =>
    let read := if o.ord = .imm then s.readImm p.vas locs true else s.readPlain p.vas locs
    read.bind fun bs s =>
      let s := if o.ord = .imm then { s.rememberAll locs with revocable := false } else s
      s.writeScr (tileScr o e) (spread p.bytes bs)
/-- TLD (R230, R231). -/
def execTld (o : MOp) (s : State) : Out := issue s .l (.tld o) (tileSpec o s) (runTld o)

/-- The bytes of the tile in scratchpad with the location of each. -/
def tileBytes (o : MOp) (e : Entry) (sh : TileShape) (locs : List Nat) (s : State) : Res (List (Nat × Byte)) :=
  (s.readScr (tileScr o e) (sh.rows * sh.bytes)).bind fun bs s => .ok (locs.zip bs) s

/-- The entry of TST (R231). -/
def runTst (o : MOp) : Body := fun e s =>
  (tileAccess .s o false .store (o.ord ≠ .imm) e s).bind fun (sh, _, locs) s =>
    (tileBytes o e sh locs s).bind fun ws s =>
      if o.ord = .imm ∧ s.stackWaits locs then .wait s
      else if o.ord = .imm then .ok () ((s.writeImm ws).rememberAll locs)
      else s.storePlain ws
/-- TST (R230, R231). -/
def execTst (o : MOp) (s : State) : Out := issue s .s (.tst o) (tileSpec o s) (runTst o)

/-- The function of R161 that adds elements of TACC's type (R232). -/
def taccFn (o : MOp) : Nat := if o.ty = .f32 then 13 else 0

/-- The 4-byte groups of a tile's bytes, as atomics by location. -/
def taccOps (o : MOp) : List (Nat × Byte) → List (Nat × AtomicOp)
  | (l, b0) :: (_, b1) :: (_, b2) :: (_, b3) :: r =>
    (l, ⟨taccFn o, true, BitVec.ofNat 64 (bytesToNat [b0, b1, b2, b3]), 0⟩) :: taccOps o r
  | _ => []

/-- The page of the tile is an ordered one (R296). -/
def tileOrdered (s : State) (p : TilePlan) : Bool :=
  p.owner.isNone ∧ p.vas.any fun v => match s.leafOf v with | .ok (leaf, _) => Leaf.ordered leaf | .error _ => false

/-- The first byte of the tile whose page refuses an ordered access (R296).
DEDUCED: log entry 39. -/
def tileRefused (s : State) (p : TilePlan) : Option Trap :=
  (p.vas.find? fun v => match s.leafOf v with
    | .ok (leaf, _) => Leaf.ordered leaf ∧ orderedRefused s leaf
    | .error _ => false).map fun v => ⟨.detviol, 3, BitVec.ofNat 64 v⟩

/-- TACC's addition at local homes: every element in one installation (R232). -/
def taccHome (ops : List (Nat × AtomicOp)) (s : State) : State := s.writeImm (addedOps s.homeByte ops)

/-- TACC's addition at another device's homes: one request for the whole tile (R112, R231). -/
def askTacc (ops : List (Nat × AtomicOp)) (s : State) : State :=
  match ops with
  | [] => s
  | p :: _ =>
    let s1 := s.request p.1 (.adds ops) none
    { s1 with revocable := false, memory := { s1.memory with
        own := ops.foldl (fun m x => Overlay.dropRange m x.1 x.2.bytes) s1.memory.own } }

/-- The entry of TACC (R231, R232). -/
def runTacc (o : MOp) : Body := fun e s =>
  (tileAccess .s o false .store false e s).bind fun (sh, p, locs) s =>
    (tileBytes o e sh locs s).bind fun ws s =>
      let ops := taccOps o ws
      if s.launch.det ∧ tileOrdered s p then
        match tileRefused s p with
        | some t => .trap t
        | none =>
          if taccFn o = 13 ∧ s.logShort 1 then .trap ⟨.watchdog, 9, 0⟩
          else .ok () (holdAccess s (ownHeld s 0 e.isn (taccFn o = 13) ops none false))
      else if s.stackWaits locs then .wait s
      else
        match s.poisonTrap p.vas locs with
        | some t => .trap t
        | none =>
          if ops.any fun x => isRemote x.1 then .ok () (askTacc ops s)
          else .ok () ((taccHome ops s).rememberAll locs)
/-- TACC (R230, R232). -/
def execTacc (o : MOp) (s : State) : Out := issue s .s (.tacc o) (tileSpec o s) (runTacc o)

end Sys2Proof.Machine
end

