-- ==== Sys2Proof/Machine/Copy.lean ====
section
/-! DEFINITION. The copy channel and multicast groups (R180, R243 to R246, R349). -/

namespace Sys2Proof.Machine

/-- A byte of the far side of a box. -/
inductive FarByte where
  /-- at a virtual address of the task -/
  | va (v : Nat)
  /-- at a location of another device that holds the tensor's element (DEDUCED, log entry 15) -/
  | peer (loc v : Nat)
  /-- an element that reads as zero (R89) -/
  | zero
  /-- an element whose access faults -/
  | bad (t : Trap)
  deriving DecidableEq, Repr

/-- Two neighbours of the box lie in one aligned 64-B unit, one after the other (R245). -/
def FarByte.joins : FarByte → FarByte → Bool
  | .va v, .va w => w = v + 1 ∧ v / 64 = w / 64
  | .peer l _, .peer m _ => m = l + 1 ∧ l / 64 = m / 64
  | .zero, .zero => true
  | _, _ => false

/-- The rows of a box as (i1, i2, i3), in the order of R245. -/
def copyRows (c : CopyCmd) : List (Nat × Nat × Nat) :=
  (List.range c.n3).flatMap fun i3 => (List.range c.tpl.n[2]).flatMap fun i2 => (List.range c.tpl.n[1]).map fun i1 => (i1, i2, i3)

/-- The scratchpad address of a row (R245). -/
def copyScr (c : CopyCmd) (r : Nat × Nat × Nat) : Nat :=
  (((c.tpl.soff + c.sb.toNat % 2 ^ 32 : Nat) : Int) + r.1 * c.tpl.ts[0] + r.2.1 * c.tpl.ts[1] + r.2.2 * c.tpl.ts[2]).emod (2 ^ 32)
    |>.toNat

/-- The far address of a row, FAR 0 and 1 (R245). -/
def copyFar (data : Word) (c : CopyCmd) (r : Nat × Nat × Nat) : Nat :=
  let base : Int := ((if c.tpl.far = 0 then data else 0) + c.tpl.fbase + c.sa).toNat
  (base + r.1 * c.tpl.fs[0] + r.2.1 * c.tpl.fs[1] + r.2.2 * c.tpl.fs[2]).emod (2 ^ 64) |>.toNat

/-- Bytes of a row on the scratchpad side. -/
def copyRowBytes (c : CopyCmd) : Nat := c.tpl.n[0] * c.es

/-- Bytes of the box on the scratchpad side. -/
def copyBytes (c : CopyCmd) : Nat := copyRowBytes c * c.tpl.n[1] * c.tpl.n[2] * c.n3

/-- The lowest scratchpad byte of the box that fails R66. -/
def copyScrTrap (s : State) (c : CopyCmd) : Option Trap :=
  let bad := (copyRows c).filterMap fun r =>
    match s.scrKeys (copyScr c r) (copyRowBytes c) with | .error t => some t | .ok _ => none
  match bad with
  | [] => none
  | t :: ts => some (ts.foldl (fun a b => if b.va < a.va then b else a) t)

/-- The template names a multicast group; its membership word (R246). -/
def copyGroup (s : State) (t : Template) : Word := s.channel.table.entries.getD t.mcg 0

/-- The descriptor check of a FAR 2 copy and the element size (R243, R245). -/
def copyTensor (t : Template) (n3 : Nat) (s : State) : Res Nat :=
  if t.far ≠ 2 then .ok 1 s
  else
    (fetchDesc s (t.fbase.toNat % 4096) false).bind fun bs s =>
      let d := Desc.ofBytes bs
      let ext (k : Nat) : Nat := if k = 3 then n3 else t.n.toList.getD k 1
      if ¬ d.valid ∨ 12 < d.code ∨ ((List.range 4).any fun k => d.ndim ≤ k ∧ ext k ≠ 1) then .trap tensorTrap
      else .ok (d.dtype.bits / 8) s

/-- The issue checks of a copy in the order of R330 and R245, and the command they give. -/
def copyCheck (s : State) (n : Nat) (sa sb sc : Word) (tag : BitVec 6) : Res CopyCmd :=
  if s.launch.header.ntag ≤ tag.toNat then .trap { cause := .tagbound }
  else
    match s.launch.tables.templates[n]? with
    | none => .trap ⟨.undef, 13, 0⟩
    | some t =>
      let n3 := if sc.extractLsb' 0 16 = 0 then t.n[3] else (sc.extractLsb' 0 16).toNat
      if t.mc ∧ ¬ (copyGroup s t).getLsbD 0 then .trap ⟨.undef, 13, 0⟩
      else if sc.extractLsb' 16 48 ≠ 0 then .trap ⟨.undef, 15, 0⟩
      else if t.mc ∧ sb.getLsbD 23 then .trap ⟨.undef, 15, 0⟩
      else
        (copyTensor t n3 s).bind fun es s =>
          let c : CopyCmd :=
            { id := s.channel.nextId, tpl := t, sa := sa, sb := sb, n3 := n3, es := es, tag := tag, isn := s.isn,
              mcast := if t.mc then copyGroup s t else 0, helper := false, term := false, started := false, moved := 0,
              ended := false, fault := none, left := 0, ws := [] }
          match copyScrTrap s c with
          | some t => .trap t
          | none => .ok c s

/-- Routed copies in the cluster's stream queue, the running one among them (R251). -/
def routedCopies (s : State) : List CopyCmd :=
  let of (x : Stream) : Option CopyCmd := match x.kind with | .routed c => some c | _ => none
  s.grid.queue.filterMap of ++ (match s.grid.run with | some r => (of r.stream).toList | none => [])

/-- The channel and its routed copies. -/
def copiesHeld (s : State) : List CopyCmd := s.channel.cmds ++ routedCopies s

/-- What holds a copy back at issue, as the kind of the wait (R180, R245, R251, R329). -/
def copyHeld (s : State) (c : CopyCmd) : Option Nat :=
  if c.tpl.mc ∧ s.channel.table.quiesced.getLsbD c.tpl.mcg then some 0
  else if Config.copyDepth ≤ (copiesHeld s).length then some 8
  else if c.tpl.fgr ∧ Config.streamDepth ≤ s.grid.queue.length then some 8
  else if s.tagFull c.tag then some 8
  else none

/-- The copy is issued: TagIssue, and the channel or the stream queue takes it (R73, R245, R251). -/
def startCopy (s : State) (c : CopyCmd) : State :=
  let s := s.tagIssue c.tag
  let s := { s with channel := { s.channel with nextId := s.channel.nextId + 1 } }
  if c.tpl.fgr then
    let x : Stream := ⟨c.tpl.graph, .routed c, c.tag, c.isn, c.term⟩
    { s with grid := { s.grid with queue := s.grid.queue ++ [x] } }
  else { s with channel := { s.channel with cmds := s.channel.cmds ++ [c] } }

/-- CPY (R245). -/
def execCpy (o : AOp) (s : State) : Out :=
  withRegs s [o.a, o.b, o.c]
    (match copyCheck s o.id.toNat (s.getReg o.a) (s.getReg o.b) (s.getReg o.c) (o.imm.extractLsb' 0 6) with
     | .trap t => trapNow s t
     | .wait s => hold s
     | .fail t s => .next (s.trapAt t)
     | .ok c s =>
       match copyHeld s c with
       | some k => stall s k
       | none => .next ((startCopy s c).advance 2))

/-! Moving a box -/

/-- The index of an element of a FAR 2 box in each dimension of the tensor (R243, R245). -/
def copyIndex (c : CopyCmd) (nd i0 : Nat) (r : Nat × Nat × Nat) : List Int :=
  let at_ (k : Nat) : Int :=
    match k with
    | 0 => c.tpl.fs[0] + (c.sa.extractLsb' 32 32).toInt + i0
    | 1 => c.tpl.fs[1] + (c.sa.extractLsb' 0 32).toInt + r.1
    | 2 => c.tpl.fs[2] + r.2.1
    | 3 => c.tpl.fs[3] + r.2.2
    | _ => 0
  (List.range nd).map fun d => at_ (nd - 1 - d)

/-- The bytes of an element of a tensor for a reader or writer of rank g (R89, R90). -/
def elementBytes (s : State) (v : TensorView) (reads : Bool) (es : Nat) (x : List Int) : List FarByte :=
  let me := s.launch.rank4
  match v.place s.launch.mesh me x with
  | none => List.replicate es (.bad tensorTrap)
  | some p =>
    if reads ∧ v.isPartial p then List.replicate es (.bad { cause := .partialT })
    else
      match p with
      | .zero _ => List.replicate es (if reads then .zero else .bad tensorTrap)
      | .at r a _ => (List.range es).map fun j =>
        let a := (a + j) % 2 ^ 64
        if r = me then .va a else .peer (regionBase (peerRegion (deviceOfRank s r)) + a % 2 ^ 48) a

/-- The far bytes of the box, in box order. -/
def copyFarBytes (s : State) (c : CopyCmd) : Res (List FarByte) :=
  if c.tpl.far = 2 then
    (openTensor s (c.tpl.fbase.toNat % 4096)).bind fun v s =>
      .ok ((copyRows c).flatMap fun r => (List.range c.tpl.n[0]).flatMap fun i0 =>
        elementBytes s v c.tpl.dirIn c.es (copyIndex c v.old.desc.ndim i0 r)) s
  else .ok ((copyRows c).flatMap fun r =>
    (List.range c.tpl.n[0]).map fun i => .va ((copyFar s.launch.data c r + i) % 2 ^ 64)) s

/-- The scratchpad addresses of the box's bytes, in box order. -/
def copyScrBytes (c : CopyCmd) : List Nat :=
  (copyRows c).flatMap fun r => (List.range (copyRowBytes c)).map fun i => copyScr c r + i

/-- The location or the fault of far bytes of one unit: a packed page is seen raw (R85, R98, R109, R245). -/
def farLocs (s : State) (k : Access) (fs : List FarByte) : Except Trap (List Nat × List Nat) :=
  match fs.findSome? fun f => match f with | .bad t => some t | _ => none with
  | some t => .error t
  | none =>
    let vas := fs.filterMap fun f => match f with | .va v => some v | _ => none
    let peers := fs.filterMap fun f => match f with | .peer l v => some (l, v) | _ => none
    match s.locsOf k true false vas with
    | .error t => .error t
    | .ok ls => .ok (vas ++ peers.map (·.2), ls ++ peers.map (·.1))

/-- An engine reads far bytes of one unit at their homes (R98). -/
def readFar (s : State) (fs : List FarByte) : Res (List Byte) :=
  if fs.all (· == .zero) then .ok (fs.map fun _ => 0) s
  else
    match farLocs s .load fs with
    | .error t => .trap t
    | .ok (vas, locs) => (s.note vas).readImm vas locs

/-- The byte at a scratchpad address; a poisoned bank word faults (R337). -/
def scrByte (s : State) (a : Nat) : Except Trap Byte :=
  match s.readScr a 1 with
  | .ok bs _ => .ok (bs.headD 0)
  | .trap t => .error t
  | _ => .ok 0

/-- Core numbers that a membership word names (R246). -/
def castCores (w : Word) : List Nat :=
  (List.range 256).filter fun c =>
    w.getLsbD (1 + c / 64) ∧ w.getLsbD (5 + c / 4 % 16) ∧ w.getLsbD (21 + c % 4)

/-- The level-1 ranks of the task's domain on which a multicast copy lands; the other destinations' scratchpads belong to
other domains (DESIGN CHOICE, log entry 2). -/
def castRanks (s : State) (w : Word) : List Nat :=
  ((castCores w).filterMap fun c =>
    if c = s.core.toNat then some (s.rankAt 1)
    else
      match s.sched.occupied.find? fun o => o.core = c ∧ o.entry = s.launch.entry with
      | some o => if o.task / s.launch.m1 = s.launch.task / s.launch.m1 then some (o.task % s.launch.m1) else none
      | none => none).eraseDups

/-- A copy writes scratchpad bytes: at its own side, or at the same offsets of every destination of its group. -/
def copyPutScr (s : State) (c : CopyCmd) (ws : List (Nat × Byte)) : State :=
  let keyed := ws.filterMap fun w => match s.scrKey w.1 with | .ok k => some (k, w.2) | .error _ => none
  if c.tpl.mc then
    s.putScr ((castRanks s c.mcast).flatMap fun r => keyed.map fun w => (r * 2 ^ 20 + w.1 % 2 ^ 20, w.2))
  else s.putScr keyed

/-- The requests made since a number belong to an engine's command (R355). -/
def chargeReqs (s : State) (start : Nat) (o : ReqOwner) : State :=
  { s with memory := { s.memory with reqs := s.memory.reqs.map fun r => if start ≤ r.id then { r with owner := o } else r } }

/-- The bytes that a quantising copy writes for one row: codes and side word of each block (R129, R196, R197, R245). `first`
counts the elements before the row.
DEDUCED: log entry 34. -/
def quantRow (s : State) (c : CopyCmd) (first : Nat) (bs : List Byte) : List Byte :=
  let st := ElemType.ofCode c.tpl.srcT
  let ct := ElemType.ofCode c.tpl.codeT
  let xs := bytesToElems st (bs.length / (st.bits / 8)) bs
  let rm := Rounding.ofCode c.tpl.rm
  (List.range (xs.length / 32)).flatMap fun b =>
    let rnds := (List.range 32).map fun i =>
      if rm = .rsr then rndBits s.launch.seed s.launch.task (c.isn % 2 ^ 52) 0 ((first + 32 * b + i) % 4096) else 0
    let q := quantBlock ct rm c.tpl.sat c.tpl.spec rnds (((xs.drop (32 * b)).take 32).map (readNum st))
    natToBytes (32 * ct.bits / 8) (q.1.zipIdx.foldl (fun a k => a + k.1 * 2 ^ (ct.bits * k.2)) 0) ++ natToBytes 2 q.2.1

/-- What an outgoing copy writes, byte by byte: a far byte with its value or the fault of its source. -/
def copyOut (s : State) (c : CopyCmd) (far : List FarByte) : List (FarByte × Except Trap Byte) :=
  if c.tpl.qnt then
    (copyRows c).zipIdx.flatMap fun p =>
      let src := (List.range (copyRowBytes c)).map fun i => scrByte s (copyScr c p.1 + i)
      let bad := src.findSome? fun x => match x with | .error t => some t | .ok _ => none
      let es := (ElemType.ofCode c.tpl.srcT).bits / 8
      let out := quantRow s c (p.2 * (copyRowBytes c / es)) (src.map fun x => match x with | .ok b => b | .error _ => 0)
      let base := copyFar s.launch.data c p.1
      out.zipIdx.map fun b => (.va ((base + b.2) % 2 ^ 64), match bad with | some t => .error t | none => .ok b.1)
  else far.zip ((copyScrBytes c).map (scrByte s))

/-- Writes one unit of an outgoing copy (R109, R245). -/
def copyUnitOut (s : State) (unit : List (FarByte × Except Trap Byte)) : Res (List (Nat × Byte)) :=
  match unit.findSome? fun u => match u.2 with | .error t => some t | .ok _ => none with
  | some t => .trap t
  | none =>
    match farLocs s .store (unit.map (·.1)) with
    | .error t => .trap t
    | .ok (vas, locs) =>
      let ws := locs.zip (unit.map fun u => match u.2 with | .ok b => b | .error _ => 0)
      if s.stackWaits locs then .wait s else .ok ws ((s.note vas).engineWrite ws)

/-- Moves units of an outgoing copy, one after the other; it stops at a fault (R245, R349). -/
def copyUnitsOut (c : CopyCmd) : List (List (FarByte × Except Trap Byte)) → State → CopyCmd × State
  | [], s => (c, s)
  | u :: us, s =>
    match copyUnitOut s u with
    | .ok ws s => copyUnitsOut { c with moved := c.moved + 1, left := c.left - u.length, ws := c.ws ++ ws } us s
    | .trap t => ({ c with fault := some t, ended := true }, s)
    | .fail t s => ({ c with fault := some t, ended := true }, s)
    | .wait s => (c, s)

/-- Moves units of an incoming copy, one after the other. -/
def copyUnitsIn (c : CopyCmd) : List (List (Nat × FarByte)) → State → CopyCmd × State
  | [], s => (c, s)
  | u :: us, s =>
    match readFar s (u.map (·.2)) with
    | .ok bs s =>
      copyUnitsIn { c with moved := c.moved + 1, left := c.left - u.length } us (copyPutScr s c ((u.map (·.1)).zip bs))
    | .trap t => ({ c with fault := some t, ended := true }, s)
    | .fail t s => ({ c with fault := some t, ended := true }, s)
    | .wait s => (c, s)

/-- Moves up to `k` more units of a box, 0 for all of them, and marks the copy ended after the last. -/
def copyMove (c : CopyCmd) (k : Nat) (s : State) : CopyCmd × State :=
  let start := s.memory.nextReq
  let upTo {α : Type} (us : List α) : List α := if k = 0 then us.drop c.moved else (us.drop c.moved).take k
  match copyFarBytes s c with
  | .trap t => ({ c with fault := some t, ended := true }, s)
  | .fail t s => ({ c with fault := some t, ended := true }, s)
  | .wait s => (c, chargeReqs s start (.copy c.id))
  | .ok far s =>
    let r := if c.tpl.dirIn then
        let us := ((copyScrBytes c).zip far).splitBy fun x y => x.2.joins y.2
        let r := copyUnitsIn c (upTo us) s
        ({ r.1 with ended := r.1.ended || us.length ≤ r.1.moved }, r.2)
      else
        let us := (copyOut s c far).splitBy fun x y => x.1.joins y.1
        let r := copyUnitsOut c (upTo us) s
        ({ r.1 with ended := r.1.ended || us.length ≤ r.1.moved }, r.2)
    (r.1, chargeReqs r.2 start (.copy c.id))

/-- Bytes that a copy has to write (R349). -/
def copyTotal (c : CopyCmd) : Nat :=
  if c.tpl.qnt then
    let st := ElemType.ofCode c.tpl.srcT
    let ct := ElemType.ofCode c.tpl.codeT
    copyBytes c / (32 * (st.bits / 8)) * (32 * ct.bits / 8 + 2)
  else copyBytes c

/-- Replaces a command of the channel. -/
def setCopy (s : State) (c : CopyCmd) : State :=
  { s with channel := { s.channel with cmds := s.channel.cmds.map fun x => if x.id = c.id then c else x } }

/-- No request of a command is outstanding. -/
def reqsDone (s : State) (o : ReqOwner) : Bool := s.memory.reqs.all fun r => r.owner ≠ o

/-- The scope at which a copy's completion publishes what it has written (R109). -/
def copyScope (c : CopyCmd) : Scope := if c.tpl.scv then (Scope.ofCode? c.tpl.scope.toNat).getD .dev else .dev

/-- What a copy has written is published at its scope: sent, or at grp and sys acknowledged (R99, R106, R109). -/
def copyPublished (s : State) (c : CopyCmd) : Bool :=
  s.memory.reqs.all fun r =>
    r.owner ≠ .copy c.id ∨ (¬ State.scopeFar (copyScope c) ∧ r.sent ∧ ¬ (State.reqLocs r).isEmpty)

/-- A command that has units to move and waits for no response. -/
def copyReady (s : State) (c : CopyCmd) : Bool := ¬ c.ended ∧ reqsDone s (.copy c.id)

/-- COPY_START: the channel moves units of the command that the event names, so many or all (R245). -/
def execCopyStart (s : State) : Out :=
  match s.channel.cmds.find? fun c => c.id = s.input.index ∧ copyReady s c with
  | none => .next s
  | some c =>
    let c := if c.started then c else { c with started := true, left := copyTotal c }
    let r := copyMove c s.input.index2 s
    .next (setCopy r.2 r.1)

/-- The tag, the record and the publication of a copy that has ended (R73, R109, R245, R349). -/
def finishCopy (s : State) (c : CopyCmd) : State :=
  let s := match c.fault with
    | some t => s.engineRecord 0x21 (some t) c.tag.toNat State.noPeer c.left
    | none => s
  (s.engineDone (.tag c.tag.toNat) c.ws).tagDone c.tag c.fault.isSome

/-- COPY_COMPLETE: a copy whose units are all moved and published ends (R109, R245). -/
def execCopyComplete (s : State) : Out :=
  match s.channel.cmds.find? fun c => c.id = s.input.index ∧ c.ended ∧ copyPublished s c with
  | none => .next s
  | some c =>
    .next (finishCopy { s with channel := { s.channel with cmds := s.channel.cmds.filter fun x => x.id ≠ c.id } } c)

/-! Multicast groups (R180, R246) -/

/-- One group of a set of groups. -/
def groupBit (g : BitVec 4) : BitVec 16 := 1#16 <<< g.toNat

/-- Changes the multicast table of the launch in focus. -/
def State.onTable (s : State) (f : McastTable → McastTable) : State :=
  { s with channel := { s.channel with table := f s.channel.table } }

/-- A group is quiesced by a task of the launch (R180). -/
def McastTable.quiesce (t : McastTable) (g : BitVec 4) : McastTable := { t with quiesced := t.quiesced ||| groupBit g }

/-- A group's entry is replaced, and its quiesced mark is gone (R180). -/
def McastTable.replace (t : McastTable) (g : BitVec 4) (v : Word) : McastTable :=
  { t with entries := t.entries.set g.toNat v g.isLt, quiesced := t.quiesced &&& ~~~ groupBit g }

/-- Copies of other tasks of the launch name a group, or none does (R180). -/
def McastTable.name (t : McastTable) (g : BitVec 4) (on : Bool) : McastTable :=
  { t with others := if on then t.others ||| groupBit g else t.others &&& ~~~ groupBit g }

/-- A copy of the launch on this device that names the group has not completed (R180). -/
def groupBusy (s : State) (g : BitVec 4) : Bool :=
  (copiesHeld s).any (fun c => c.tpl.mc ∧ c.tpl.mcg = g.toNat) ∨ s.channel.table.others.getLsbD g.toNat

/-- A group is quiesced by this task, or no task has it quiesced any more. -/
def State.setMine (s : State) (g : BitVec 4) (on : Bool) : State :=
  { s with channel := { s.channel with mine := if on then s.channel.mine ||| groupBit g else s.channel.mine &&& ~~~ groupBit g } }

/-- MCQUI (R180). -/
def execMcqui (a : Reg) (s : State) : Out :=
  withRegs s [a]
    (let g := (s.getReg a).setWidth 4
     let s := (s.onTable (·.quiesce g)).setMine g true
     if groupBusy s g then stall s 6 else .next (s.advance 1))

/-- MCSET (R180, R246). The mark that it clears is every task's (DEDUCED, log entry 57). -/
def execMcset (a b : Reg) (s : State) : Out :=
  withRegs s [a, b]
    (let g := (s.getReg a).setWidth 4
     let v := s.getReg b
     if ¬ s.channel.mine.getLsbD g.toNat then trapNow s ⟨.undef, 2, 0⟩
     else if v.extractLsb' 25 39 ≠ 0 then trapNow s ⟨.undef, 15, 0⟩
     else .next (((s.onTable (·.replace g v)).setMine g false).advance 1))

/-- The table of a launch as its image gives it (R246). -/
def imageTable (l : Launch) : McastTable := ⟨Vector.ofFn fun k => l.tables.mcast.getD k.val 0, 0, 0⟩

/-- The multicast table of a launch comes into focus: that which its tasks have used so far, or its image's; the one that was
there is kept for its launch (R180, R246). -/
def Channel.focus (c : Channel) (entry : Nat) (fresh : McastTable) : Channel :=
  if c.tableOf = some entry then c
  else
    let kept := match c.tableOf with
      | some e => (e, c.table) :: c.tables
      | none => c.tables
    { c with
      table := match kept.find? fun x => x.1 = entry with | some x => x.2 | none => fresh
      tableOf := some entry
      tables := kept.filter fun x => x.1 ≠ entry }

/-- A scoreboard entry's number goes to a new launch, and no table stands under it (R246). -/
def Channel.forget (c : Channel) (entry : Nat) : Channel :=
  { c with
    tableOf := if c.tableOf = some entry then none else c.tableOf
    tables := c.tables.filter fun x => x.1 ≠ entry }

end Sys2Proof.Machine
end

