-- ==== Sys2Proof/Machine/Sync.lean ====
section
/-! DEFINITION. Synchronisation: fences, publication, phases, waits on tags, lines and time, the return queue's pops, and
named barriers (R97, R99, R103, R163 to R173, R262, R295). -/

namespace Sys2Proof.Machine

/-- The queue has ended every entry issued before (R97). -/
def queueEmpty (s : State) (q : Queue) : Bool :=
  (s.queue q).entries.isEmpty ∧ (s.queue q).table.isNone

/-- Every L, C and S entry has finished (R97). -/
def queuesEmpty (s : State) : Bool := queueEmpty s .l ∧ queueEmpty s .c ∧ queueEmpty s .s

/-- Every immediate of the task that has left for another device has been acknowledged (R97). -/
def repliesDone (s : State) : Bool := s.memory.reqs.all fun r => r.owner ≠ .task ∨ (State.reqLocs r).isEmpty

/-- Every immediate of the task has performed and has been acknowledged (R97): none is on its way to another device, and no
ordered access of the task is held at its homes (R296). -/
def immediatesDone (s : State) : Bool := repliesDone s ∧ s.ordered.held.all fun h => ¬ h.mine

/-- The flags of finished entries are ordered before the sequencer (R125). -/
def orderFlags (s : State) : State := { s with fpstat := s.fpstat ||| s.fpPend, fpPend := 0 }

/-- FENCE (R97). -/
def execFence (_sc : Scope) (s : State) : Out :=
  if queuesEmpty s ∧ immediatesDone s then
    match uncertainTrap s with
    | some (t, s) => trapNow s t
    | none => .next ((orderFlags s).advance 1)
  else stall s 10

/-- PUB (R97, R99). -/
def execPub (sc : Scope) (s : State) : Out := publishing s sc (some 10) fun s => .next (s.advance 1)

/-- OPEN (R97, R100). -/
def execOpen (_sc : Scope) (s : State) : Out := .next ((s.openSnap false).advance 1)

/-- SQWAIT (R97, R125). -/
def execSqwait (q : Queue) (s : State) : Out :=
  if queueEmpty s q then .next ((if q = .c then orderFlags s else s).advance 1) else stall s 10

/-- ROINV: what precedes it the read-only path sees (R95). -/
def execRoinv (s : State) : Out :=
  .next ({ s with memory := { s.memory with roBase := s.memory.snap, roOwn := s.memory.wrote } }.advance 1)

/-! Phases -/

/-- The scope of a level's phase (R164). -/
def levelScope (level : BitVec 2) : Scope :=
  match level.toNat with
  | 0 => .clu | 1 => .die | 2 => .dev | _ => .grp

/-- The checkpoint of a PHASE boundary (R62): the pc after the PHASE. -/
def checkpointOf (s : State) (ranges : List (Nat × Nat)) (arms : List Bool) : Checkpoint :=
  { pc := s.pc + 4, regs := s.regFile, kregs := s.kregs, mregs := s.mregs, rebase := s.rebase, fpstat := s.fpstat,
    trapen := s.trap.trapen, isn := s.isn + 1, bars := s.bars, ranges := ranges, arms := arms
    interval := s.ordered.interval }

/-- Every member of the level's domain has arrived (R164): the others' arrivals of this generation are counted. -/
def membersArrived (s : State) (level : BitVec 2) : Bool :=
  s.membAt (level.toNat + 1) ≤ (s.domArr[level.toNat]'level.isLt) + 1

/-- A new phase opens (R62, R100, R106, R164): the arrivals are used up, the checkpoint is taken and written under CKPT, the
task is revocable again, and a level-4 opening drops every fabric-cached copy. -/
def openPhase (s : State) (level : BitVec 2) (ranges : List (Nat × Nat)) (arms : List Bool) : State :=
  let used := s.membAt (level.toNat + 1) - 1
  let s := { s with domArr := s.domArr.set level.toNat ((s.domArr[level.toNat]'level.isLt) - used) level.isLt }
  let s := if s.launch.header.ckpt then { writeCheckpoint s with ckpt := some (checkpointOf s ranges arms) } else s
  let s := if level = 3 then { s with memory := { s.memory with cached := [] } } else s
  { s.openSnap false with revocable := !s.launch.header.tailm, phased := true }

/-- PHASE after its publication and arrival: the wait for the members, then the opening. -/
def phaseWait (level : BitVec 2) (upTo : Nat) (ranges : List (Nat × Nat)) (arms : List Bool) (s : State) : Out :=
  if membersArrived s level then .next ((openPhase s level ranges arms).advance 1)
  else stall { s with wait := some (.phase level upTo true) } 4

/-- PHASE after its commit: the wait for the publication, the report of UNCERTAIN writes before arriving (R164). -/
def phasePublished (level : BitVec 2) (upTo : Nat) (ranges : List (Nat × Nat)) (arms : List Bool) (s : State) : Out :=
  if s.published (levelScope level) upTo then
    match uncertainTrap s with
    | some (t, s) => trapNow s t
    | none => phaseWait level upTo ranges arms s
  else stall { s with wait := some (.phase level upTo false) } 4

/-- PHASE, with the invalid ranges and arm states that a checkpoint holds (R62, R164, R371). -/
def phaseExec (level : BitVec 2) (ranges : List (Nat × Nat)) (arms : List Bool) (s : State) : Out :=
  match s.wait with
  | some (.phase _ upTo true) => phaseWait level upTo ranges arms s
  | some (.phase _ upTo false) => phasePublished level upTo ranges arms s
  | _ =>
    if s.launch.header.ndom < level.toNat + 1 then trapNow s ⟨.undef, 3, 0⟩
    else if ¬ (queuesEmpty s ∧ immediatesDone s) then stall s 4
    else if s.memory.stagingBad then
      lostStaging s
    else if s.stagingWaits then hold s
    else
      let s := (orderFlags s).commit (levelScope level)
      phasePublished level s.memory.nextReq ranges arms s

/-! Tags -/

/-- A mask names a tag at or above NTAG (R165). -/
def tagBound (s : State) (m : Word) : Bool := m.toNat / 2 ^ s.launch.header.ntag ≠ 0

/-- The task has waited for these tags (R109, R165). -/
def tagsSeen (s : State) (m : Word) : State :=
  (List.range 64).foldl (fun s n => if m.getLsbD n ∧ s.tags.rdy.getLsbD n then s.engineSeen (.tag n) else s) s

/-- TWANY (R165). -/
def execTwany (a : Reg) (s : State) : Out :=
  withRegs s [a]
    (if tagBound s (s.getReg a) then trapNow s { cause := .tagbound }
     else if s.launch.det then trapNow s ⟨.detviol, 1, 0⟩
     else if s.getReg a = 0 ∨ s.tags.rdy &&& s.getReg a ≠ 0 then .next ((tagsSeen s (s.getReg a)).advance 1)
     else stall s 1)

/-- TWALL (R165). -/
def execTwall (a : Reg) (s : State) : Out :=
  withRegs s [a]
    (if tagBound s (s.getReg a) then trapNow s { cause := .tagbound }
     else if s.tags.rdy &&& s.getReg a = s.getReg a then .next ((tagsSeen s (s.getReg a)).advance 1)
     else stall s 1)

/-- The lowest set bit of a word, or 64. -/
def lowestBit (w : Word) : Nat := ((List.range 64).find? fun i => w.getLsbD i).getD 64

/-- TFFR (R165). -/
def execTffr (d a : Reg) (s : State) : Out :=
  withRegs s [d, a]
    (if tagBound s (s.getReg a) then trapNow s { cause := .tagbound }
     else if s.launch.det then trapNow s ⟨.detviol, 1, 0⟩
     else
       let n := lowestBit (s.tags.rdy &&& s.getReg a)
       let s1 := if n < 64 then s.engineSeen (.tag n) else s
       .next ((s1.setReg d (BitVec.ofNat 64 n)).advance 1))

/-! Lines and time -/

/-- The location of an address that WAITA arms: a page of mode 0 or 4, unpoisoned (R166, R322, R338). -/
def waitaLoc (s : State) (va : Word) : Except Trap Nat :=
  match s.leafOf va.toNat with
  | .error t => .error t
  | .ok (leaf, size) =>
    if Leaf.mode leaf = 0 ∨ Leaf.mode leaf = 4 then
      match s.leafLoc leaf size va.toNat false false with
      | .error t => .error t
      | .ok l =>
        if [0, 64].any fun o => s.memory.poison.contains (State.physOf l / 128 * 128 + o) then .error ⟨.eccunc, 5, va⟩
        else .ok l
    else .error ⟨.prot, if Leaf.w leaf then 4 else 1, va⟩

/-- The four addresses of a WAITA. -/
def waitaAddrs (a : Reg) (s : State) : List Word := (List.range 4).map fun i => s.getReg (a + BitVec.ofNat 6 i)

/-- Arms the addresses in order: the count remembered for each line, or its Count now, entered in the table (R166). -/
def waitaArm (s : State) : List Word → Except Trap (List (Option Lane32) × State)
  | [] => .ok ([], s)
  | v :: vs =>
    if v = 0 then
      match waitaArm s vs with
      | .error t => .error t
      | .ok (cs, s) => .ok (none :: cs, s)
    else
      match waitaLoc s v with
      | .error t => .error t
      | .ok l =>
        let line := State.physOf l / 128
        let c := match s.seen.find? fun e => e.1 = line with | some e => e.2 | none => s.lineCount (State.physOf l)
        let s := { s.note [v.toNat] with seen := ((line, c) :: s.seen.filter fun e => e.1 ≠ line).take 8 }
        match waitaArm s vs with
        | .error t => .error t
        | .ok (cs, s) => .ok (some c :: cs, s)

/-- The lowest armed line whose Count is not the armed one. -/
def waitaChanged (s : State) (vs : List Word) (cs : List (Option Lane32)) : Option Nat :=
  ((vs.zip cs).zipIdx.find? fun p =>
    match p.1.2, waitaLoc s p.1.1 with
    | some c, .ok l => s.lineCount (State.physOf l) ≠ c
    | _, _ => false).map (·.2)

/-- The lowest armed index. -/
def waitaArmed (cs : List (Option Lane32)) : Option Nat := (cs.zipIdx.find? fun p => p.1.isSome).map (·.2)

/-- WAITA with its counts armed: it ends with an index, 4 at the deadline, or sleeps on (R166, R329). -/
def waitaSleep (d a b : Reg) (cs : List (Option Lane32)) (s : State) : Out :=
  let deadline := s.getReg b
  let done (n : Nat) : Out := .next (({ s with wake := false }.setReg d (BitVec.ofNat 64 n)).advance 1)
  match waitaChanged s (waitaAddrs a s) cs with
  | some i => done i
  | none =>
    if deadline ≠ 0 ∧ deadline.toNat ≤ s.device.time then done 4
    else
      match waitaArmed cs with
      | none => if deadline = 0 then done 4 else hold { s with wait := some (.waita cs), wake := false }
      | some i =>
        if s.wake then done i
        else if deadline = 0 then stall { s with wait := some (.waita cs) } 7
        else hold { s with wait := some (.waita cs) }

/-- WAITA (R166). -/
def execWaita (d a b : Reg) (s : State) : Out :=
  withRegs s [d, a, a + 1, a + 2, a + 3, b]
    (match s.wait with
     | some (.waita cs) => waitaSleep d a b cs s
     | _ =>
       if s.launch.det then trapNow s ⟨.detviol, 1, 0⟩
       else
         match waitaArm s (waitaAddrs a s) with
         | .error t => trapNow s t
         | .ok (cs, s) => waitaSleep d a b cs { s with wake := false })

/-- WAITT (R167). -/
def execWaitt (a : Reg) (s : State) : Out :=
  withRegs s [a] (if (s.getReg a).toNat ≤ s.device.time then .next (s.advance 1) else hold s)

/-- The page of a DISC (R168, R322). -/
def discLoc (s : State) (va : Word) : Except Trap Nat :=
  match s.leafOf va.toNat with
  | .error t => .error t
  | .ok (leaf, size) =>
    if ¬ Leaf.w leaf then .error ⟨.prot, 1, va⟩
    else if Leaf.pk leaf ∨ ¬ (Leaf.mode leaf = 0 ∨ Leaf.mode leaf = 4) then .error ⟨.prot, 4, va⟩
    else s.leafLoc leaf size va.toNat false false

/-- DISC (R103, R168). -/
def execDisc (a : Reg) (s : State) : Out :=
  withRegs s [a]
    (match discLoc s (s.getReg a) with
     | .error t => trapNow s t
     | .ok l =>
       if s.fillPending [(s.getReg a).toNat] ∨ s.stackWaits [l] then hold s
       else
         let base := l / 128 * 128
         let s := s.note [(s.getReg a).toNat]
         let s := { s with memory := { s.memory with staging := Overlay.dropRange s.memory.staging base 128 } }
         let s := s.writeImm ((List.range 128).map fun i => (base + i, (0 : Byte)))
         .next ((s.remember l).advance 1))

/-! The return queue's pops -/

/-- AGETS on a matched entry: its value, the trap of a value that will not come, or the wait (R51, R169, R297, R355). -/
def agetsTake (d : Reg) (slot : Nat) (s : State) : Out :=
  match s.ret.find? fun e => e.id = slot with
  | none => trapNow s ⟨.undef, 1, 0⟩
  | some e =>
    match e.bad, e.value with
    | some t, _ => .next ((s.retFree slot).trapAt t)
    | none, some (.scalar v) => .next (((s.retFree slot).setReg d v).advance 1)
    | none, some (.vector rs) => .next (((s.retFree slot).setReg d ((rs.headD 0).setWidth 64)).advance 1)
    | none, none => stall { s with wait := some (.agets slot) } 3

/-- AGETS (R51, R169). -/
def execAgets (d : Reg) (s : State) : Out :=
  withRegs s [d]
    (match s.wait with
     | some (.agets slot) => agetsTake d slot s
     | _ =>
       match s.retMatch with
       | none => trapNow s ⟨.undef, 1, 0⟩
       | some (slot, s1) => if tooEarly s slot then trapNow s ⟨.detviol, 5, 0⟩ else agetsTake d slot s1)

/-! Named barriers -/

/-- A barrier of the task (R170). -/
def bar (s : State) (n : BitVec 9) : Barrier := s.bars[n.toNat]'n.isLt

/-- Replaces a barrier. -/
def setBar (s : State) (n : BitVec 9) (b : Barrier) : State := { s with bars := s.bars.set n.toNat b n.isLt }

/-- The instruction names a declared barrier, else BARBOUND (R172). -/
def withBar (s : State) (n : BitVec 9) (k : Out) : Out :=
  if n.toNat < s.launch.header.nbar then k else trapNow s { cause := .barbound }

/-- The barrier is the interval barrier of a DET launch (R295). -/
def isInterval (s : State) (n : BitVec 9) : Bool := s.launch.det ∧ n.toNat + 1 = s.launch.header.nbar

/-- The task's own arrival: at the bound interval barrier it ends the interval and sends its end marker (R295). -/
def ownArrive (s : State) (n : BitVec 9) : State :=
  let s := setBar s n { bar s n with watch := (bar s n).gen }
  let s := if isInterval s n ∧ (bar s n).level = 3 then
      { s with ordered := { s.ordered with
          markers := s.ordered.markers ++ [(ordDomain s, s.ordered.interval, s.launch.task)]
          interval := s.ordered.interval + 1 } }
    else s
  s.arrive n

/-- An entry of the S queue may still send ordered accesses to their homes. -/
def mayHold (s : State) (e : Entry) : Bool :=
  match e.instr with
  | .vrdm _ | .tacc _ | .tblrun .. => true
  | .vatom _ => s.memory.vatom.isNone ∨ e.stage = .pop
  | _ => false

/-- An arrival at the interval barrier waits until every ordered access of the interval has reached its home (R295). -/
def arrivalWaits (s : State) (n : BitVec 9) : Bool :=
  isInterval s n ∧ (bar s n).level = 3 ∧ s.queues.s.entries.any (mayHold s)

/-- BARV (R172). -/
def execBarv (n : BitVec 9) (s : State) : Out :=
  withBar s n (if arrivalWaits s n then stall s 2 else .next ((ownArrive s n).advance 2))

/-- A generation is one of those that a wait which ends now has waited for: they follow WATCH, up to GEN. -/
def Barrier.passes (b : Barrier) (g : BitVec 16) : Bool := g ≠ b.watch ∧ (g - b.watch).toNat ≤ (b.gen - b.watch).toNat

/-- The wait of BAWT and BARW: WATCH follows GEN, and a failed generation traps with the engine's cause (R171, R262). -/
def barWait (n : BitVec 9) (mark : Option Wait) (s : State) : Out :=
  let b := bar s n
  if b.gen ≠ b.watch then
    let s := setBar s n { b with watch := b.gen, failed := b.failed.filter fun f => ¬ b.passes f.1 }
    match b.failed.find? fun f => b.passes f.1 with
    | some f => trapNow s f.2
    | none => .next ((s.engineSeen (.bar n.toNat)).advance 2)
  else stall { s with wait := mark } 2

/-- BAWT (R172). -/
def execBawt (n : BitVec 9) (s : State) : Out := withBar s n (barWait n none s)

/-- BARW (R172, R371). -/
def execBarw (n : BitVec 9) (s : State) : Out :=
  withBar s n
    (match s.wait with
     | some (.barw _) => barWait n (some (.barw n)) s
     | _ => if arrivalWaits s n then stall s 2 else barWait n (some (.barw n)) (ownArrive s n))

/-- BASET, immediate form or register form by a (R172, R294). -/
def execBaset (a : Reg) (target : BitVec 15) (n : BitVec 9) (s : State) : Out :=
  withRegs s [a]
    (withBar s n
      (let v : Word := if a = 0 then target.setWidth 64 else s.getReg a
       if v = 0 ∨ 2 ^ 15 ≤ v.toNat then trapNow s ⟨.undef, 4, 0⟩
       else if s.launch.det ∧ a ≠ 0 then trapNow s ⟨.detviol, 1, 0⟩
       else if isInterval s n then trapNow s ⟨.detviol, 4, 0⟩
       else
         let b := bar s n
         .next ((setBar s n { b with target := v.setWidth 15, count := 0, watch := b.gen }).advance 2)))

/-- Members of the domain of a binding: the named level, or for an unbinding the level that is bound. -/
def bagrpLevel (s : State) (n : BitVec 9) (l : Nat) : Nat := if l = 0 then (bar s n).level.toNat else l

/-- The other members that have executed BAGRP for n with this level. -/
def bagrpJoined (s : State) (n : BitVec 9) (l : Nat) : Nat :=
  ((bar s n).joined.filter fun x => x.toNat = l).length

/-- A binding of the interval barrier at level 3 starts the interval number and the end markers of the domain anew (R295). -/
def newIntervals (s : State) (n : BitVec 9) (v : Nat) : State :=
  if isInterval s n ∧ v = 3 then
    { s with ordered := { s.ordered with
        interval := 0
        markers := s.ordered.markers.filter fun m => m.1 ≠ ordDomain s } }
  else s

/-- BAGRP (R173, R331).
DEDUCED: log entry 35. -/
def execBagrp (a : Reg) (n : BitVec 9) (s : State) : Out :=
  withRegs s [a]
    (withBar s n
      (let v := (s.getReg a).toNat
       if 3 < v then trapNow s ⟨.undef, 15, 0⟩
       else if s.launch.header.ndom < v then trapNow s ⟨.undef, 3, 0⟩
       else
         let b := bar s n
         let lvl := bagrpLevel s n v
         if lvl = 0 then
           .next ((setBar s n { b with count := 0, target := 1, level := 0, watch := b.gen }).advance 2)
         else if isInterval s n ∧ s.ordered.held.any (fun h => h.mine ∧ h.interval < s.ordered.interval) then stall s 0
         else if s.membAt lvl ≤ bagrpJoined s n v + 1 then
           let joined := b.joined.filter fun x => x.toNat ≠ v
           if v = 0 then
             .next ((setBar s n { b with count := 0, target := 1, level := 0, watch := b.gen, joined := joined }).advance 2)
           else
             .next ((setBar (newIntervals s n v) n { b with
               count := 0, target := BitVec.ofNat 15 (s.membAt lvl), level := BitVec.ofNat 2 v, gen := 0, watch := 0,
               joined := joined }).advance 2)
         else stall s 0))

/-- The image of a barrier (R170). -/
def barImage (b : Barrier) : Word :=
  b.count.setWidth 64 ||| (b.target.setWidth 64 <<< 15) ||| (b.level.setWidth 64 <<< 30) |||
    (b.gen.setWidth 64 <<< 32) ||| (b.watch.setWidth 64 <<< 48)

/-- BATST (R172, R294). -/
def execBatst (a : Reg) (n : BitVec 9) (s : State) : Out :=
  withRegs s [a]
    (withBar s n
      (if s.launch.det then trapNow s ⟨.detviol, 1, 0⟩
       else .next ((s.setReg a (barImage (bar s n))).advance 2)))

end Sys2Proof.Machine
end

