-- ==== Sys2Proof/Machine/Vector.lean ====
section
/-! DEFINITION. Vector arithmetic of integers and floats, compares, masks, permutations, reductions and moves (R189 to
R194, R202). -/

namespace Sys2Proof.Machine

/-- An integer operation on the values of two elements, wrapped or clamped (R126, R189). -/
def intOp2 (o : EOp) (f : Int → Int → Int) : Body :=
  map2 o fun a b => deliverInt o.ty o.sat (f (unpackInt o.ty a) (unpackInt o.ty b))

/-- An integer operation on the value of one element. -/
def intOp1 (o : EOp) (f : Int → Int) : Body := map1 o fun a => deliverInt o.ty o.sat (f (unpackInt o.ty a))

/-- An operation on the bits of two elements. -/
def bitOp2 (o : EOp) (f : Nat → Nat → Nat) : Body := map2 o fun a b => (f a b % 2 ^ o.ty.bits, 0)

/-- The amounts of a shift: of b, or with alt one amount in imm12[5:0] (R189). -/
def shiftAmounts (o : EOp) (s : State) (i : Nat) : Nat :=
  if o.alt then (o.imm.extractLsb' 0 6).toNat % o.ty.bits else (srcElems o o.b o.ty s).getD i 0 % o.ty.bits

/-- A shift of each active element (R189). -/
def shiftOp (o : EOp) (f : Nat → Nat → Nat × Flags) : Body := fun _ s =>
  let a := srcElems o o.a o.ty s
  .ok () (writeMasked o o.ty (fun i => f (a.getD i 0) (shiftAmounts o s i)) s)

/-- A W-bit element of a scalar (R185). -/
def scalarElem (t : ElemType) (w : Word) : Nat := w.toNat % 2 ^ t.bits

/-- An operation on the values of an element and a scalar (R189). -/
def intOpS (o : EOp) (f : Int → Int → Int) : Body := fun e s =>
  let a := srcElems o o.a o.ty s
  let v := unpackInt o.ty (scalarElem o.ty (e.reg o.b))
  .ok () (writeMasked o o.ty (fun i => deliverInt o.ty o.sat (f (unpackInt o.ty (a.getD i 0)) v)) s)

/-- Leading zeros of an element. -/
def clzNat (bits a : Nat) : Nat := if a = 0 then bits else bits - 1 - Nat.log2 a

/-- Set bits of an element. -/
def popNat (bits a : Nat) : Nat := (List.range bits).countP fun i => a / 2 ^ i % 2 = 1

/-- The entry of VADD (R189). -/
def runVadd (o : EOp) : Body := intOp2 o (· + ·)
/-- VADD (R189). -/
def execVadd (o : EOp) (s : State) : Out := issue s .c (.vadd o) {} (runVadd o)

/-- The entry of VSUB (R189). -/
def runVsub (o : EOp) : Body := intOp2 o (· - ·)
/-- VSUB (R189). -/
def execVsub (o : EOp) (s : State) : Out := issue s .c (.vsub o) {} (runVsub o)

/-- The entry of VMUL (R189). -/
def runVmul (o : EOp) : Body := intOp2 o (· * ·)
/-- VMUL (R189). -/
def execVmul (o : EOp) (s : State) : Out := issue s .c (.vmul o) {} (runVmul o)

/-- The entry of VMULH (R189). -/
def runVmulh (o : EOp) : Body := intOp2 o fun a b => a * b / ((2 ^ o.ty.bits : Nat) : Int)
/-- VMULH (R189). -/
def execVmulh (o : EOp) (s : State) : Out := issue s .c (.vmulh o) {} (runVmulh o)

/-- The entry of VMIN (R189). -/
def runVmin (o : EOp) : Body := intOp2 o min
/-- VMIN (R189). -/
def execVmin (o : EOp) (s : State) : Out := issue s .c (.vmin o) {} (runVmin o)

/-- The entry of VMAX (R189). -/
def runVmax (o : EOp) : Body := intOp2 o max
/-- VMAX (R189). -/
def execVmax (o : EOp) (s : State) : Out := issue s .c (.vmax o) {} (runVmax o)

/-- The entry of VAND (R189). -/
def runVand (o : EOp) : Body := bitOp2 o (· &&& ·)
/-- VAND (R189). -/
def execVand (o : EOp) (s : State) : Out := issue s .c (.vand o) {} (runVand o)

/-- The entry of VOR (R189). -/
def runVor (o : EOp) : Body := bitOp2 o (· ||| ·)
/-- VOR (R189). -/
def execVor (o : EOp) (s : State) : Out := issue s .c (.vor o) {} (runVor o)

/-- The entry of VXOR (R189). -/
def runVxor (o : EOp) : Body := bitOp2 o (· ^^^ ·)
/-- VXOR (R189). -/
def execVxor (o : EOp) (s : State) : Out := issue s .c (.vxor o) {} (runVxor o)

/-- The entry of VANDN (R189). -/
def runVandn (o : EOp) : Body := bitOp2 o fun a b => a &&& (2 ^ o.ty.bits - 1 - b)
/-- VANDN (R189). -/
def execVandn (o : EOp) (s : State) : Out := issue s .c (.vandn o) {} (runVandn o)

/-- The entry of VSHL (R189). -/
def runVshl (o : EOp) : Body := shiftOp o fun a n => deliverInt o.ty o.sat (unpackInt o.ty a * ((2 ^ n : Nat) : Int))
/-- VSHL (R189). -/
def execVshl (o : EOp) (s : State) : Out := issue s .c (.vshl o) {} (runVshl o)

/-- The entry of VSHR (R189). -/
def runVshr (o : EOp) : Body := shiftOp o fun a n => (a / 2 ^ n, 0)
/-- VSHR (R189). -/
def execVshr (o : EOp) (s : State) : Out := issue s .c (.vshr o) {} (runVshr o)

/-- The entry of VSHRA (R189). -/
def runVshra (o : EOp) : Body := shiftOp o fun a n =>
  (((BitVec.ofNat o.ty.bits a).sshiftRight n).toNat, 0)
/-- VSHRA (R189). -/
def execVshra (o : EOp) (s : State) : Out := issue s .c (.vshra o) {} (runVshra o)

/-- The entry of VABS (R189). -/
def runVabs (o : EOp) : Body := intOp1 o fun a => if a < 0 then -a else a
/-- VABS (R189). -/
def execVabs (o : EOp) (s : State) : Out := issue s .c (.vabs o) {} (runVabs o)

/-- The entry of VNEG (R189). -/
def runVneg (o : EOp) : Body := intOp1 o fun a => -a
/-- VNEG (R189). -/
def execVneg (o : EOp) (s : State) : Out := issue s .c (.vneg o) {} (runVneg o)

/-- The entry of VADDS (R189). -/
def runVadds (o : EOp) : Body := intOpS o (· + ·)
/-- VADDS (R189). -/
def execVadds (o : EOp) (s : State) : Out := issue s .c (.vadds o) {} (runVadds o)

/-- The entry of VSUBS (R189). -/
def runVsubs (o : EOp) : Body := intOpS o (· - ·)
/-- VSUBS (R189). -/
def execVsubs (o : EOp) (s : State) : Out := issue s .c (.vsubs o) {} (runVsubs o)

/-- The entry of VAVG (R189). -/
def runVavg (o : EOp) : Body := intOp2 o fun a b => (a + b + 1) / 2
/-- VAVG (R189). -/
def execVavg (o : EOp) (s : State) : Out := issue s .c (.vavg o) {} (runVavg o)

/-- The entry of VCLZ (R189). -/
def runVclz (o : EOp) : Body := map1 o fun a => (clzNat o.ty.bits a, 0)
/-- VCLZ (R189). -/
def execVclz (o : EOp) (s : State) : Out := issue s .c (.vclz o) {} (runVclz o)

/-- The entry of VPOPC (R189). -/
def runVpopc (o : EOp) : Body := map1 o fun a => (popNat o.ty.bits a, 0)
/-- VPOPC (R189). -/
def execVpopc (o : EOp) (s : State) : Out := issue s .c (.vpopc o) {} (runVpopc o)

/-- The entry of VSEL (R189). -/
def runVsel (o : EOp) : Body := fun _ s =>
  let a := srcElems o o.a o.ty s
  let b := srcElems o o.b o.ty s
  let act := s.active o.k o.w o.ty.bits (o.elems o.ty)
  .ok () (writeWhole o o.ty (fun i => (if act.getD i false then a.getD i 0 else b.getD i 0, 0)) s)
/-- VSEL (R189). -/
def execVsel (o : EOp) (s : State) : Out := issue s .c (.vsel o) {} (runVsel o)

/-- The entry of VIOTA (R189). -/
def runViota (o : EOp) : Body := fun _ s =>
  .ok () (writeMasked o o.ty (fun i => (packInt o.ty (i + o.imm.toInt), 0)) s)
/-- VIOTA (R189). -/
def execViota (o : EOp) (s : State) : Out := issue s .c (.viota o) {} (runViota o)

/-- A float operation on two elements: the exact value rounded once (R188, R190). -/
def fltOp2 (o : EOp) (f : FVal → FVal → FVal × Flags) : Body := fun e s =>
  let a := srcElems o o.a o.ty s
  let b := srcElems o o.b o.ty s
  .ok () (writeMasked o o.ty (fun i =>
    let r := f (unpackFloat o.ty (a.getD i 0)) (unpackFloat o.ty (b.getD i 0))
    let d := deliverVal o.ty (roundCtl o e s i) r.1
    (d.1, r.2 ||| d.2)) s)

/-- Minimum or maximum of two float codes of a type: a NaN operand gives Canon, and −0 is below +0 (R190). -/
def fltMinMax (t : ElemType) (isMax : Bool) (x y : Nat) : Nat :=
  let a := unpackFloat t x
  let b := unpackFloat t y
  if a = .nan ∨ b = .nan then canonNaN t
  else if isMax then (if fLess a b then y else x) else (if fLess b a then y else x)

/-- A code with its sign bit set to `neg`; a NaN gives Canon (R190). -/
def fltSignOf (t : ElemType) (neg : Bool → Bool) (x : Nat) : Nat :=
  match unpackFloat t x with
  | .nan => canonNaN t
  | v => x % 2 ^ (t.bits - 1) + (if neg v.sgn then 2 ^ (t.bits - 1) else 0)

/-- A float value rounded to an integer by the mode, kept in its type (R190). -/
def fltRound (t : ElemType) (c : RoundCtl) (x : Nat) : Nat × Flags :=
  match unpackFloat t x with
  | .nan => (canonNaN t, 0)
  | .inf n => (infCode (fmtOf t) n, 0)
  | .fin n m e =>
    let r := roundUnits c m e 0 false
    let v := deliver t .rne (.num n r.1 0 false)
    (v.1, if r.2 then Flags.nx else 0)

/-- A fused multiply-add with the signs of the product and the addend (R190). -/
def fmaOp (o : EOp) (negP negC : Bool) : Body := fun e s =>
  let a := srcElems o o.a o.ty s
  let b := srcElems o o.b o.ty s
  let c := srcElems o o.c o.ty s
  .ok () (writeMasked o o.ty (fun i =>
    let x := unpackFloat o.ty (a.getD i 0)
    let z := unpackFloat o.ty (c.getD i 0)
    let r := fFma (if negP then x.neg else x) (unpackFloat o.ty (b.getD i 0)) (if negC then z.neg else z)
    let d := deliverVal o.ty (roundCtl o e s i) r.1
    (d.1, r.2 ||| d.2)) s)

/-- The entry of VFADD (R190). -/
def runVfadd (o : EOp) : Body := fltOp2 o fAdd
/-- VFADD (R190). -/
def execVfadd (o : EOp) (s : State) : Out := issue s .c (.vfadd o) {} (runVfadd o)

/-- The entry of VFSUB (R190). -/
def runVfsub (o : EOp) : Body := fltOp2 o fun a b => fAdd a b.neg
/-- VFSUB (R190). -/
def execVfsub (o : EOp) (s : State) : Out := issue s .c (.vfsub o) {} (runVfsub o)

/-- The entry of VFMUL (R190). -/
def runVfmul (o : EOp) : Body := fltOp2 o fMul
/-- VFMUL (R190). -/
def execVfmul (o : EOp) (s : State) : Out := issue s .c (.vfmul o) {} (runVfmul o)

/-- The entry of VFMIN (R190). -/
def runVfmin (o : EOp) : Body := map2 o fun a b => (fltMinMax o.ty false a b, 0)
/-- VFMIN (R190). -/
def execVfmin (o : EOp) (s : State) : Out := issue s .c (.vfmin o) {} (runVfmin o)

/-- The entry of VFMAX (R190). -/
def runVfmax (o : EOp) : Body := map2 o fun a b => (fltMinMax o.ty true a b, 0)
/-- VFMAX (R190). -/
def execVfmax (o : EOp) (s : State) : Out := issue s .c (.vfmax o) {} (runVfmax o)

/-- The entry of VFABS (R190). -/
def runVfabs (o : EOp) : Body := map1 o fun a => (fltSignOf o.ty (fun _ => false) a, 0)
/-- VFABS (R190). -/
def execVfabs (o : EOp) (s : State) : Out := issue s .c (.vfabs o) {} (runVfabs o)

/-- The entry of VFNEG (R190). -/
def runVfneg (o : EOp) : Body := map1 o fun a => (fltSignOf o.ty not a, 0)
/-- VFNEG (R190). -/
def execVfneg (o : EOp) (s : State) : Out := issue s .c (.vfneg o) {} (runVfneg o)

/-- The entry of VFDIV (R190). -/
def runVfdiv (o : EOp) : Body := fun e s =>
  let a := srcElems o o.a o.ty s
  let b := srcElems o o.b o.ty s
  .ok () (writeMasked o o.ty (fun i =>
    let r := fDiv (unpackFloat o.ty (a.getD i 0)) (unpackFloat o.ty (b.getD i 0))
    let d := deliver o.ty (roundCtl o e s i) r.1
    (d.1, r.2 ||| d.2)) s)
/-- VFDIV (R190). -/
def execVfdiv (o : EOp) (s : State) : Out := issue s .c (.vfdiv o) {} (runVfdiv o)

/-- The entry of VFSQRT (R190). -/
def runVfsqrt (o : EOp) : Body := fun e s =>
  let a := srcElems o o.a o.ty s
  .ok () (writeMasked o o.ty (fun i =>
    let r := fSqrt (unpackFloat o.ty (a.getD i 0))
    let d := deliver o.ty (roundCtl o e s i) r.1
    (d.1, r.2 ||| d.2)) s)
/-- VFSQRT (R190). -/
def execVfsqrt (o : EOp) (s : State) : Out := issue s .c (.vfsqrt o) {} (runVfsqrt o)

/-- The entry of VFRND (R190). -/
def runVfrnd (o : EOp) : Body := fun e s =>
  let a := srcElems o o.a o.ty s
  .ok () (writeMasked o o.ty (fun i => fltRound o.ty (roundCtl o e s i) (a.getD i 0)) s)
/-- VFRND (R190). -/
def execVfrnd (o : EOp) (s : State) : Out := issue s .c (.vfrnd o) {} (runVfrnd o)

/-- The entry of VFMA (R190). -/
def runVfma (o : EOp) : Body := fmaOp o false false
/-- VFMA (R190). -/
def execVfma (o : EOp) (s : State) : Out := issue s .c (.vfma o) {} (runVfma o)

/-- The entry of VFMS (R190). -/
def runVfms (o : EOp) : Body := fmaOp o false true
/-- VFMS (R190). -/
def execVfms (o : EOp) (s : State) : Out := issue s .c (.vfms o) {} (runVfms o)

/-- The entry of VFNMA (R190). -/
def runVfnma (o : EOp) : Body := fmaOp o true false
/-- VFNMA (R190). -/
def execVfnma (o : EOp) (s : State) : Out := issue s .c (.vfnma o) {} (runVfnma o)

/-- The entry of VFNMS (R190). -/
def runVfnms (o : EOp) : Body := fmaOp o true true
/-- VFNMS (R190). -/
def execVfnms (o : EOp) (s : State) : Out := issue s .c (.vfnms o) {} (runVfnms o)

/-- The truth of a condition, by the sign of the comparison; none when a float operand is a NaN (R142, R191). -/
def condHolds (c : Nat) (r : Option Int) : Bool :=
  match c, r with
  | 0, some d => d = 0
  | 1, some d => d ≠ 0
  | 1, none => true
  | 2, some d => d < 0
  | 3, some d => d ≤ 0
  | 4, some d => 0 < d
  | 5, some d => 0 ≤ d
  | 6, none => true
  | _, _ => false

/-- The bits of a mask that govern the bytes of the elements that `act` marks, taken from `res`; the others keep their
values (R141, R191). -/
def maskMerge (old : KReg) (w es : Nat) (act res : List Bool) : KReg :=
  BitVec.ofNat 256 ((List.range 256).foldl (fun a j =>
    let i := j * 2 ^ w / es
    let bit := if act.getD i false then res.getD i false else old.getLsbD j
    a + (if bit then 2 ^ j else 0)) 0)

/-- The entry of VCMP (R191). -/
def runVcmp (o : EOp) : Body := fun _ s =>
  let a := srcElems o o.a o.ty s
  let b := srcElems o o.b o.ty s
  let n := o.elems o.ty
  let res := (List.range n).map fun i =>
    condHolds (o.imm.extractLsb' 0 3).toNat (fCmp (readNum o.ty (a.getD i 0)) (readNum o.ty (b.getD i 0)))
  let act := s.active o.k o.w o.ty.bits n
  let d := o.d.toNat
  .ok () (s.setKreg d (maskMerge (s.kreg d) o.w.toNat (o.ty.bits / 8) act res))
/-- VCMP (R191). -/
def execVcmp (o : EOp) (s : State) : Out := issue s .c (.vcmp o) {} (runVcmp o)

/-- The entry of KAND (R192). -/
def runKand (o : EOp) : Body := fun _ s => .ok () (s.setKreg o.d.toNat (s.kreg o.a.toNat &&& s.kreg o.b.toNat))
/-- KAND (R192). -/
def execKand (o : EOp) (s : State) : Out := issue s .c (.kand o) {} (runKand o)

/-- The entry of KOR (R192). -/
def runKor (o : EOp) : Body := fun _ s => .ok () (s.setKreg o.d.toNat (s.kreg o.a.toNat ||| s.kreg o.b.toNat))
/-- KOR (R192). -/
def execKor (o : EOp) (s : State) : Out := issue s .c (.kor o) {} (runKor o)

/-- The entry of KXOR (R192). -/
def runKxor (o : EOp) : Body := fun _ s => .ok () (s.setKreg o.d.toNat (s.kreg o.a.toNat ^^^ s.kreg o.b.toNat))
/-- KXOR (R192). -/
def execKxor (o : EOp) (s : State) : Out := issue s .c (.kxor o) {} (runKxor o)

/-- The entry of KNOT (R192). -/
def runKnot (o : EOp) : Body := fun _ s => .ok () (s.setKreg o.d.toNat (~~~ s.kreg o.a.toNat))
/-- KNOT (R192). -/
def execKnot (o : EOp) (s : State) : Out := issue s .c (.knot o) {} (runKnot o)

/-- The entry of KPOPC (R192). -/
def runKpopc (o : EOp) : Body := fun e s =>
  .ok () (deliverOld e.slot (BitVec.ofNat 64 (popNat 256 (s.kreg o.a.toNat).toNat)) s)
/-- KPOPC (R192). -/
def execKpopc (o : EOp) (s : State) : Out := issue s .c (.kpopc o) (returning s) (runKpopc o)

/-- The entry of KFFS (R192). -/
def runKffs (o : EOp) : Body := fun _ s =>
  let k := s.kreg o.a.toNat
  .ok () (s.setKreg o.d.toNat (k &&& -k))
/-- KFFS (R192). -/
def execKffs (o : EOp) (s : State) : Out := issue s .c (.kffs o) {} (runKffs o)

/-- The entry of KMOV (R192). -/
def runKmov (o : EOp) : Body := fun _ s => .ok () (s.setKreg o.d.toNat (s.kreg o.a.toNat))
/-- KMOV (R192). -/
def execKmov (o : EOp) (s : State) : Out := issue s .c (.kmov o) {} (runKmov o)

/-- The entry of KSET (R192). -/
def runKset (o : EOp) : Body := fun _ s => .ok () (s.setKreg o.d.toNat (BitVec.ofNat 256 (2 ^ o.imm.toNat - 1)))
/-- KSET (R192). -/
def execKset (o : EOp) (s : State) : Out := issue s .c (.kset o) {} (runKset o)

/-- A permutation: element i of d from the sources (R186, R193). -/
def permOp (o : EOp) (f : List Nat → List Nat → Nat → Nat) : Body := fun _ s =>
  let a := srcElems o o.a o.ty s
  let b := srcElems o o.b o.ty s
  .ok () (writeMasked o o.ty (fun i => (f a b i, 0)) s)

/-- The number of alt in an index. -/
def altNat (o : EOp) : Nat := if o.alt then 1 else 0

/-- The active elements of a list in order. -/
def actives (act : List Bool) (xs : List Nat) : List Nat := ((xs.zip act).filter (·.2)).map (·.1)

/-- Gives the active elements of d the values of a list in order. -/
def expandInto : List Bool → List Nat → List Nat → List Nat
  | [], _, _ => []
  | _, _, [] => []
  | true :: act, x :: xs, _ :: old => x :: expandInto act xs old
  | true :: act, [], d :: old => d :: expandInto act [] old
  | false :: act, xs, d :: old => d :: expandInto act xs old

/-- The entry of VPERM (R193). -/
def runVperm (o : EOp) : Body := permOp o fun a b i => a.getD (b.getD i 0) 0
/-- VPERM (R193). -/
def execVperm (o : EOp) (s : State) : Out := issue s .c (.vperm o) {} (runVperm o)

/-- The entry of VSHUF (R193). -/
def runVshuf (o : EOp) : Body := permOp o fun a _ i => a.getD (i / 4 * 4 + o.imm.toNat / 2 ^ (2 * (i % 4)) % 4) 0
/-- VSHUF (R193). -/
def execVshuf (o : EOp) (s : State) : Out := issue s .c (.vshuf o) {} (runVshuf o)

/-- The entry of VSLIDE (R193). -/
def runVslide (o : EOp) : Body := permOp o fun a b i => (a ++ b).getD (i + o.imm.toNat) 0
/-- VSLIDE (R193). -/
def execVslide (o : EOp) (s : State) : Out := issue s .c (.vslide o) {} (runVslide o)

/-- The entry of VBCAST (R193). -/
def runVbcast (o : EOp) : Body := fun e s =>
  let v := if o.alt then (srcElems o o.a o.ty s).getD o.imm.toNat 0 else scalarElem o.ty (e.reg o.a)
  .ok () (writeMasked o o.ty (fun _ => (v, 0)) s)
/-- VBCAST (R193). -/
def execVbcast (o : EOp) (s : State) : Out := issue s .c (.vbcast o) {} (runVbcast o)

/-- The entry of VZIP (R193). -/
def runVzip (o : EOp) : Body := permOp o fun a b i =>
  (if i % 2 = 0 then a else b).getD (altNat o * o.elems o.ty / 2 + i / 2) 0
/-- VZIP (R193). -/
def execVzip (o : EOp) (s : State) : Out := issue s .c (.vzip o) {} (runVzip o)

/-- The entry of VUNZIP (R193). -/
def runVunzip (o : EOp) : Body := permOp o fun a b i => (a ++ b).getD (2 * i + altNat o) 0
/-- VUNZIP (R193). -/
def execVunzip (o : EOp) (s : State) : Out := issue s .c (.vunzip o) {} (runVunzip o)

/-- The entry of VTRN (R193). -/
def runVtrn (o : EOp) : Body := permOp o fun a b i => (if i % 2 = 0 then a else b).getD (i / 2 * 2 + altNat o) 0
/-- VTRN (R193). -/
def execVtrn (o : EOp) (s : State) : Out := issue s .c (.vtrn o) {} (runVtrn o)

/-- The entry of VCMPR (R193). -/
def runVcmpr (o : EOp) : Body := fun _ s =>
  let xs := actives (s.active o.k o.w o.ty.bits (o.elems o.ty)) (srcElems o o.a o.ty s)
  .ok () (writeWhole o o.ty (fun i => (xs.getD i 0, 0)) s)
/-- VCMPR (R193). -/
def execVcmpr (o : EOp) (s : State) : Out := issue s .c (.vcmpr o) {} (runVcmpr o)

/-- The entry of VEXPD (R193). -/
def runVexpd (o : EOp) : Body := fun _ s =>
  let act := s.active o.k o.w o.ty.bits (o.elems o.ty)
  let xs := expandInto act (srcElems o o.a o.ty s) (srcElems o o.d o.ty s)
  .ok () (writeWhole o o.ty (fun i => (xs.getD i 0, 0)) s)
/-- VEXPD (R193). -/
def execVexpd (o : EOp) (s : State) : Out := issue s .c (.vexpd o) {} (runVexpd o)

/-- One Combine of a lane sum, with the flags so far (R132, R194). -/
def sumCombine (o : EOp) (c : RoundCtl) (x y : Nat × Flags) : Nat × Flags :=
  let r :=
    if o.ty.isInt then deliverInt o.ty o.sat (unpackInt o.ty x.1 + unpackInt o.ty y.1)
    else
      let v := fAdd (unpackFloat o.ty x.1) (unpackFloat o.ty y.1)
      let d := deliverVal o.ty c v.1
      (d.1, v.2 ||| d.2)
  (r.1, x.2 ||| y.2 ||| r.2)

/-- A single NaN term gives the canonical NaN (R121, R133). -/
def canonTerm (t : ElemType) (x : Nat) : Nat :=
  if t.isInt then x else if unpackFloat t x = .nan then canonNaN t else x

/-- The sum of terms by the canonical tree; no term gives zero (R132, R194). -/
def laneSum (o : EOp) (c : RoundCtl) (xs : List Nat) : Nat × Flags :=
  (canonTree (sumCombine o c) 16 (xs.map fun x => (canonTerm o.ty x, (0 : Flags)))).getD (0, 0)

/-- The maximum or minimum of terms (R194). -/
def laneExtreme (t : ElemType) (isMax : Bool) (xs : List Nat) : Nat :=
  if t.isInt then
    let vs := xs.map (unpackInt t)
    packInt t (if isMax then vs.foldl max (intMin t) else vs.foldl min (intMax t))
  else xs.foldl (fltMinMax t isMax) (infCode (fmtOf t) isMax)

/-- A reduction into d_0, with the other elements zero (R194). -/
def reduceOp (o : EOp) (f : Entry → State → List Nat → Nat × Flags) : Body := fun e s =>
  let xs := actives (s.active o.k o.w o.ty.bits (o.elems o.ty)) (srcElems o o.a o.ty s)
  let r := f e s xs
  .ok () (writeWhole o o.ty (fun i => if i = 0 then r else (0, 0)) s)

/-- The entry of VRSUM (R194). -/
def runVrsum (o : EOp) : Body := reduceOp o fun e s xs => laneSum o (roundCtl o e s 0) xs
/-- VRSUM (R194). -/
def execVrsum (o : EOp) (s : State) : Out := issue s .c (.vrsum o) {} (runVrsum o)

/-- The entry of VRMAX (R194). -/
def runVrmax (o : EOp) : Body := reduceOp o fun _ _ xs => (laneExtreme o.ty true xs, 0)
/-- VRMAX (R194). -/
def execVrmax (o : EOp) (s : State) : Out := issue s .c (.vrmax o) {} (runVrmax o)

/-- The entry of VRMIN (R194). -/
def runVrmin (o : EOp) : Body := reduceOp o fun _ _ xs => (laneExtreme o.ty false xs, 0)
/-- VRMIN (R194). -/
def execVrmin (o : EOp) (s : State) : Out := issue s .c (.vrmin o) {} (runVrmin o)

/-- The entry of VRAND (R194). -/
def runVrand (o : EOp) : Body := reduceOp o fun _ _ xs => (xs.foldl (· &&& ·) (2 ^ o.ty.bits - 1), 0)
/-- VRAND (R194). -/
def execVrand (o : EOp) (s : State) : Out := issue s .c (.vrand o) {} (runVrand o)

/-- The entry of VROR (R194). -/
def runVror (o : EOp) : Body := reduceOp o fun _ _ xs => (xs.foldl (· ||| ·) 0, 0)
/-- VROR (R194). -/
def execVror (o : EOp) (s : State) : Out := issue s .c (.vror o) {} (runVror o)

/-- The entry of VPSUM (R194). -/
def runVpsum (o : EOp) : Body := fun e s =>
  let act := s.active o.k o.w o.ty.bits (o.elems o.ty)
  let a := srcElems o o.a o.ty s
  .ok () (writeMasked o o.ty (fun i =>
    laneSum o (roundCtl o e s i) (actives (act.take (i + altNat o)) (a.take (i + altNat o)))) s)
/-- VPSUM (R194). -/
def execVpsum (o : EOp) (s : State) : Out := issue s .c (.vpsum o) {} (runVpsum o)

/-- The entry of VMOV (R202). -/
def runVmov (o : EOp) : Body := fun _ s =>
  let a := srcElems o o.a o.ty s
  .ok () (writeMasked o o.ty (fun i => (a.getD i 0, 0)) s)
/-- VMOV (R202). -/
def execVmov (o : EOp) (s : State) : Out := issue s .c (.vmov o) {} (runVmov o)

/-- The entry of VINS (R202). -/
def runVins (o : EOp) : Body := fun e s =>
  let xs := (srcElems o o.d o.ty s).set o.imm.toNat (scalarElem o.ty (e.reg o.a))
  .ok () (s.setElems o.d o.regs o.ty.bits xs)
/-- VINS (R202). -/
def execVins (o : EOp) (s : State) : Out := issue s .c (.vins o) {} (runVins o)

/-- The entry of VEXT (R202). -/
def runVext (o : EOp) : Body := fun e s =>
  let x := (srcElems o o.a o.ty s).getD o.imm.toNat 0
  .ok () (deliverOld e.slot (if o.ty.isSigned then BitVec.ofInt 64 (unpackInt o.ty x) else BitVec.ofNat 64 x) s)
/-- VEXT (R202). -/
def execVext (o : EOp) (s : State) : Out := issue s .c (.vext o) (returning s) (runVext o)

/-- The entry of VLI (R202). -/
def runVli (o : EOp) : Body := fun e s =>
  .ok () (writeMasked o o.ty (fun i =>
    if o.ty.isInt then (packInt o.ty o.imm.toInt, 0)
    else deliverVal o.ty (roundCtl o e s i) (.fin (o.imm.toInt < 0) o.imm.toInt.natAbs 0)) s)
/-- VLI (R202). -/
def execVli (o : EOp) (s : State) : Out := issue s .c (.vli o) {} (runVli o)

end Sys2Proof.Machine
end

