-- ==== Sys2Proof/Machine/Grid.lean ====
section
/-! DEFINITION. The Farandole grid: stream queue, graph loads, and the firing of cells (R247 to R252, R313, R314, R350,
R369, R370). -/

namespace Sys2Proof.Machine

/-- Graph g of the launch (R247). -/
def graphOf (s : State) (g : Nat) : Graph := s.launch.tables.graphs.getD g ⟨0, []⟩

/-- The graph is resident and its plane's checksum holds (R252, R350). -/
def isResident (s : State) (g : Nat) : Bool :=
  match s.grid.resident with
  | some (n, cells, crc) => n = g ∧ cells = (graphOf s g).cells ∧ planeCrc cells = crc
  | none => false

/-! Issue -/

/-- FST's checks in the order of R330, for the operands' scratchpad offsets (R251). -/
def fstCheck (s : State) (g src len : Nat) (tag : BitVec 6) : Option Trap :=
  if s.launch.header.ntag ≤ tag.toNat then some { cause := .tagbound }
  else if s.launch.header.nfg ≤ g then some ⟨.undef, 13, 0⟩
  else if len % 4 ≠ 0 then some ⟨.undef, 15, 0⟩
  else if len = 0 then none
  else match s.scrKeys src len with
    | .error t => some t
    | .ok _ => none

/-- What holds a stream back at issue (R73, R251). -/
def streamHeld (s : State) (tag : BitVec 6) : Bool :=
  Config.streamDepth ≤ s.grid.queue.length ∨ s.tagFull tag

/-- The stream enters the queue with its TagIssue (R251). -/
def startStream (s : State) (g src len dst : Nat) (tag : BitVec 6) (term : Bool) : State :=
  let x : Stream := ⟨g, .fst src len dst, tag, s.isn, term⟩
  { s.tagIssue tag with grid := { s.grid with queue := s.grid.queue ++ [x] } }

/-- FST (R251). -/
def execFst (o : AOp) (s : State) : Out :=
  withRegs s [o.a, o.b, o.c]
    (let tag := o.imm.extractLsb' 0 6
     let low (r : Reg) : Nat := (s.getReg r).toNat % 2 ^ 32
     match fstCheck s o.id.toNat (low o.a) (low o.b) tag with
     | some t => trapNow s t
     | none =>
       if streamHeld s tag then stall s 8
       else .next ((startStream s o.id.toNat (low o.a) (low o.b) (low o.c) tag false).advance 2))

/-- FLOAD (R251): its place in the queue, the wait for the load, and its result. -/
def execFload (o : AOp) (s : State) : Out :=
  withRegs s [o.a]
    (let g := o.id.toNat
     let wait (s : State) : Out := stall { s with wait := some .fload } 6
     if s.launch.header.nfg ≤ g then trapNow s ⟨.undef, 13, 0⟩
     else if s.wait ≠ some .fload then
       wait { s with grid := { s.grid with fload := some (g, s.grid.queue.length), floaded := none } }
     else
       match s.grid.floaded with
       | some rolled =>
         .next (({ s with grid := { s.grid with floaded := none } }.setReg o.a (if rolled then 1 else 0)).advance 2)
       | none => wait s)

/-- FQUI (R251). -/
def execFqui (s : State) : Out :=
  if s.grid.queue.isEmpty ∧ s.grid.run.isNone then .next (s.advance 2) else stall s 6

/-! Streams: start, load, end -/

/-- An FLOAD stands at the head of the stream queue. -/
def floadFirst (s : State) : Bool := match s.grid.fload with | some (_, 0) => true | _ => false

/-- The graph that the grid has to make resident next. -/
def wantedGraph (s : State) : Option Nat :=
  if s.grid.run.isSome then none
  else match s.grid.fload with
    | some (g, 0) => some g
    | _ => s.grid.queue.head?.map (·.graph)

/-- The head of the stream queue leaves it. -/
def dropStream (s : State) : State :=
  { s with grid := { s.grid with
      queue := s.grid.queue.tail
      fload := s.grid.fload.map fun f => (f.1, f.2 - 1) } }

/-- A stream whose load has rolled back ends with an error (R252). -/
def rollStream (s : State) (x : Stream) : State :=
  let kind := match x.kind with | .fst .. => 0x22 | .routed _ => 0x21
  let left := match x.kind with | .fst .. => 0 | .routed c => copyTotal c
  (((dropStream s).engineRecord kind none x.tag.toNat State.noPeer left).tagDone x.tag true).pulse 4 x.tag.toNat

/-- GRAPH_LOAD: one transfer of the wanted graph; `flag` says that the transfer met an error. The planes switch on a
match; a third mismatch rolls back (R252). -/
def execGraphLoad (s : State) : Out :=
  match wantedGraph s with
  | none => .next s
  | some g =>
    let gr := graphOf s g
    let load := floadFirst s
    let grid := { s.grid with fload := if load then none else s.grid.fload }
    if planeCrc gr.cells = gr.crc ∧ ¬ s.input.flag then
      .next { s with grid := { grid with
        resident := some (g, gr.cells, gr.crc), misses := 0
        floaded := if load then some false else s.grid.floaded } }
    else if s.grid.misses < 2 then .next { s with grid := { s.grid with misses := s.grid.misses + 1 } }
    else
      let s := { s with grid := { grid with
        resident := none, misses := 0
        floaded := if load then some true else s.grid.floaded } }
      let s := s.engineRecord 0x23 none g State.noPeer 0
      .next (if load then s else match s.grid.queue with | x :: _ => rollStream s x | [] => s)

/-- The primary input's bytes of a routed copy: the box's source (R251). -/
def routedInput (s : State) (c : CopyCmd) : Res (List Byte) :=
  if c.tpl.dirIn then
    (copyFarBytes s c).bind fun far s =>
      (far.splitBy fun x y => x.joins y).foldl (fun r u =>
        r.bind fun bs s => (readFar s u).bind fun b s => .ok (bs ++ b) s) (.ok [] s)
  else
    let src := (copyScrBytes c).map (scrByte s)
    match src.findSome? fun x => match x with | .error t => some t | .ok _ => none with
    | some t => .trap t
    | none => .ok (src.map fun x => match x with | .ok b => b | .error _ => 0) s

/-- A cell before its stream's first firing. -/
def CellRun.fresh (c : Cell) : CellRun :=
  { cell := c, a := [], b := [], bits := 0, nbits := 0, hold := [], out := [], taken := 0, made := 0, done := false }

/-- A run of a stream's cells. -/
def freshRun (x : Stream) (cells : List Cell) (input : List Byte) : StreamRun :=
  { stream := x, input := input, pos := 0, cells := cells.map CellRun.fresh, idle := 0, dst := [] }

/-- Elements of the primary input (R251). -/
def primaryCount (r : StreamRun) : Nat :=
  match r.stream.kind with
  | .fst _ len _ => len / 4
  | .routed _ => (r.input.length + 3) / 4

/-- The position's cell has emitted its last element. -/
def producerDone (r : StreamRun) (p : Option (Nat × Nat)) : Bool :=
  match p with
  | none => true
  | some p => r.cells.any fun c => c.cell.row = p.1 ∧ c.cell.col = p.2 ∧ c.done

/-- Input A has ended (R370). -/
def overA (r : StreamRun) (c : CellRun) : Bool :=
  if c.cell.primary then primaryCount r ≤ r.pos else c.a.isEmpty ∧ producerDone r c.cell.aFrom

/-- Input B has ended. -/
def overB (r : StreamRun) (c : CellRun) : Bool := c.b.isEmpty ∧ producerDone r c.cell.bFrom

/-- The cell needs no further element: its output ends with what it holds (R370). -/
def cellOver (r : StreamRun) (c : CellRun) : Bool :=
  match c.cell.op with
  | 17 => c.cell.p1.toNat / 65536 ≤ c.taken ∨ c.cell.p1.toNat % 65536 = 0
  | 5 | 6 | 7 | 8 | 9 => overA r c ∨ overB r c
  | 1 => overA r c ∨ (c.nbits = 0 ∧ overB r c)
  | 2 => overA r c ∨ (c.cell.inbv ∧ c.nbits = 0 ∧ overB r c)
  | 15 => overA r c ∧ overB r c
  | _ => overA r c

/-- What a cell emits after its last input: TRN's incomplete group, PACK's padded word (R248). -/
def cellTail (c : CellRun) : List Nat :=
  match c.cell.op with
  | 10 => c.hold
  | 13 => if 0 < c.nbits then [c.bits] else []
  | _ => []

/-- One round of the ends: a cell without more to emit is done, and takes and drops what still arrives (R370). -/
def closeOnce (r : StreamRun) : StreamRun :=
  { r with cells := r.cells.map fun c =>
      if c.done then { c with a := [], b := [] }
      else if ¬ c.out.isEmpty ∨ ¬ cellOver r c then c
      else if (cellTail c).isEmpty then { c with done := true, a := [], b := [] }
      else { c with out := cellTail c, hold := [], nbits := 0, bits := 0 } }

/-- The ends propagate through the graph. -/
def closeRounds : Nat → StreamRun → StreamRun
  | 0, r => r
  | n + 1, r => closeRounds n (closeOnce r)

/-- A cell whose output has ended takes and drops what is left of the primary input (R370). -/
def dropPrimary (r : StreamRun) : StreamRun :=
  if r.cells.any fun c => c.done ∧ c.cell.primary then { r with pos := max r.pos (primaryCount r) } else r

/-- Every end that follows from what has been emitted. -/
def closeCells (r : StreamRun) : StreamRun := dropPrimary (closeRounds (r.cells.length + 1) r)

/-- A routed copy's stream ends: its destination bytes are written as far as they were emitted, and the channel completes
the command (R245, R251). -/
def routedEnd (s : State) (r : StreamRun) (c : CopyCmd) (t : Option Trap) : State :=
  let start := s.memory.nextReq
  let c := { c with started := true, ended := true, fault := t, left := copyTotal c }
  let keep {α : Type} (xs : List α) : List (α × Byte) := xs.zipIdx.filterMap fun p =>
    (r.dst.find? fun d => d.1 = p.2).map fun d => (p.1, d.2)
  let done := if c.tpl.dirIn then
      let ws := keep (copyScrBytes c)
      ({ c with left := c.left - ws.length }, copyPutScr s c ws)
    else
      match copyFarBytes s c with
      | .ok far s =>
        let ws := keep far
        let us := (ws.map fun w => (w.1, (.ok w.2 : Except Trap Byte))).splitBy fun x y => x.1.joins y.1
        let r := copyUnitsOut c us s
        ({ r.1 with ended := true, fault := if r.1.fault.isSome then r.1.fault else t }, r.2)
      | .trap u => ({ c with fault := some u }, s)
      | .fail u s => ({ c with fault := some u }, s)
      | .wait s => (c, s)
  let s := chargeReqs done.2 start (.copy c.id)
  { s with channel := { s.channel with cmds := s.channel.cmds ++ [done.1] } }

/-- The state that waits for the descriptor or the tables of a routed copy's destination, or for its memory stacks (R311); none when
they are there. -/
def endWaits (s : State) (r : StreamRun) : Option State :=
  match r.stream.kind with
  | .fst .. => none
  | .routed c =>
    if c.tpl.dirIn then none
    else match copyFarBytes s c with
      | .wait u => some (chargeReqs u s.memory.nextReq (.copy c.id))
      | .ok far u =>
        match farLocs u .store far with
        | .ok (_, ls) => if u.stackWaits ls then some s else none
        | .error _ => none
      | _ => none

/-- A stream ends, with a fault or without, once the place of its output is known (R249, R349, R350). -/
def endStream (s : State) (r : StreamRun) (t : Option Trap) : State :=
  match endWaits s r with
  | some s => { s with grid := { s.grid with run := some { r with ending := some t } } }
  | none =>
    let s := { s with grid := { s.grid with run := none } }
    let s := match r.stream.kind with
      | .routed c => routedEnd s r c t
      | .fst .. =>
        let s := match t with
          | some t => s.engineRecord 0x22 (some t) r.stream.tag.toNat State.noPeer 0
          | none => s
        s.tagDone r.stream.tag t.isSome
    s.pulse 4 r.stream.tag.toNat

/-- STREAM_START: the stream at the head starts once its graph is resident; `flag` says that a soft error has hit the
plane (R251, R252, R350). -/
def execStreamStart (s : State) : Out :=
  match s.grid.queue with
  | [] => .next s
  | x :: _ =>
    if s.grid.run.isSome ∨ floadFirst s then .next s
    else if s.input.flag then .next { s with grid := { s.grid with resident := none } }
    else if ¬ isResident s x.graph then .next s
    else
      let begin_ (input : List Byte) (s : State) : Out :=
        .next { dropStream s with grid := { (dropStream s).grid with
          run := some (closeCells (freshRun x (graphOf s x.graph).cells input)) } }
      match x.kind with
      | .fst .. => begin_ [] s
      | .routed c =>
        let start := s.memory.nextReq
        match routedInput s c with
        | .ok bs s => begin_ bs (chargeReqs s start (.copy c.id))
        | .wait s => .next (chargeReqs s start (.copy c.id))
        | .trap t => .next (endStream (dropStream s) (freshRun x [] []) (some t))
        | .fail t s => .next (endStream (dropStream s) (freshRun x [] []) (some t))

/-! Firing -/

/-- The inputs that port `port` of a cell feeds: position in the list, and whether it is the B input. -/
def consumers (r : StreamRun) (c : Cell) (port : Bool) : List (Nat × Bool) :=
  r.cells.zipIdx.flatMap fun p =>
    (if p.1.cell.aFrom = some (c.row, c.col) ∧ ¬ p.1.cell.primary ∧ p.1.cell.inap = port then [(p.2, false)] else [])
    ++ (if p.1.cell.bFrom = some (c.row, c.col) ∧ p.1.cell.inbp = port then [(p.2, true)] else [])

/-- The port that the cell's next element leaves by: a SPLIT alternates by chunks (R248). -/
def portOf (c : CellRun) : Bool :=
  c.cell.op = 14 ∧ c.made / (c.cell.p0.toNat % 65536) % 2 = 1

/-- Room for one element on every link that it would take (R249). -/
def hasRoom (r : StreamRun) (c : CellRun) : Bool :=
  (consumers r c.cell (portOf c)).all fun k =>
    match r.cells[k.1]? with
    | some d => d.done ∨ (if k.2 then d.b.length else d.a.length) < Config.linkDepth
    | none => true

/-- An element goes onto its links; a cell whose output has ended drops it (R370). -/
def pushElem (r : StreamRun) (c : CellRun) (v : Nat) : StreamRun :=
  let ks := consumers r c.cell (portOf c)
  { r with cells := r.cells.zipIdx.map fun p =>
      if p.1.done then p.1
      else
        let d := if ks.contains (p.2, false) then { p.1 with a := p.1.a ++ [v] } else p.1
        if ks.contains (p.2, true) then { d with b := d.b ++ [v] } else d }

/-- Replaces a cell of the run. -/
def setCell (r : StreamRun) (i : Nat) (c : CellRun) : StreamRun := { r with cells := r.cells.set i c }

/-- What a firing takes and gives: the cell after it, the elements formed, and a sink's bytes. -/
structure Firing where
  takeA : Bool := false
  takeB : Bool := false
  cell  : CellRun
  outs  : List Nat := []
  sink  : Option (List Byte) := none

/-- The element at the head of input A: the primary input's next element, or the link's (R251). -/
def headA (s : State) (r : StreamRun) (c : CellRun) : Option (Except Trap Nat) :=
  if c.cell.primary then
    if primaryCount r ≤ r.pos then none
    else match r.stream.kind with
      | .fst src _ _ =>
        match s.readScr (src + 4 * r.pos) 4 with
        | .ok bs _ => some (.ok (bytesToNat bs))
        | .trap t => some (.error t)
        | _ => none
      | .routed _ => some (.ok (bytesToNat ((r.input.drop (4 * r.pos)).take 4)))
  else c.a.head?.map .ok

/-- The input types of a cell. -/
def typeA (r : StreamRun) (c : CellRun) : ElemType := inputType (r.cells.map (·.cell)) c.cell.aFrom

/-- The random bits of a rounding cell's element n (R369). -/
def cellRnd (s : State) (r : StreamRun) (c : CellRun) (n : Nat) : Nat :=
  philox s.launch.seed s.launch.task (r.stream.isn % 2 ^ 32) n
    (2 ^ 31 + (8 * c.cell.row + c.cell.col) * 2 ^ 20 + r.stream.isn / 2 ^ 32 % 2 ^ 20) % 2 ^ 16

/-- A cell's rounding: rm, sat, and its random bits under rsr (R248, R369). -/
def cellCtl (s : State) (r : StreamRun) (c : CellRun) (rm : Nat) (sat : Bool) (n : Nat) : RoundCtl :=
  let m := Rounding.ofCode (BitVec.ofNat 2 rm)
  ⟨m, sat, if m = .rsr then cellRnd s r c n else 0⟩

/-- Splits so many fields of w bits off a bit string. -/
def takeFields (w : Nat) : Nat → Nat → List Nat
  | 0, _ => []
  | n + 1, bits => bits % 2 ^ w :: takeFields w n (bits / 2 ^ w)

/-- The units of a zero-suppressed record, or none while it is incomplete (R131). -/
def zexpRecord (bs : List Nat) : Option (List Nat) :=
  let word (i : Nat) : Nat := (List.range 4).foldl (fun a j => a + bs.getD (4 * i + j) 0 * 2 ^ (8 * j)) 0
  let p := word 0
  let cnt := ((List.range 32).filter fun i => p / 2 ^ i % 2 = 1).length
  if bs.length < 4 ∨ bs.length < 4 + 4 * cnt then none
  else
    some (((List.range 32).foldl (fun (acc : List Nat × Nat) i =>
      if p / 2 ^ i % 2 = 1 then (acc.1 ++ [word acc.2], acc.2 + 1) else (acc.1 ++ [0], acc.2)) ([], 1)).1)

/-- A two-operand element operation (R248). -/
def cellBin (s : State) (r : StreamRun) (c : CellRun) (x y : Nat) : Nat :=
  let t := c.cell.ty
  let p0 := c.cell.p0.toNat
  let ctl := cellCtl s r c (p0 % 4) (p0 / 4 % 2 = 1) c.made
  let vx := readNum (typeA r c) x
  let vy := readNum (typeA r c) y
  match c.cell.op with
  | 8 => if condHolds (p0 % 8) (fCmp vx vy) then 1 else 0
  | 9 => if condHolds (p0 % 8) (fCmp vx vy) then x else y
  | 7 => (deliverVal t ctl (fFma vx vy (unpackFloat t c.cell.p1.toNat)).1).1
  | 6 => if t.isInt then (deliverInt t ctl.sat (unpackInt t x * unpackInt t y)).1
    else (deliverVal t ctl (fMul vx vy).1).1
  | _ => if t.isInt then (deliverInt t ctl.sat (unpackInt t x + unpackInt t y)).1
    else (deliverVal t ctl (fAdd vx vy).1).1

/-- A firing that takes an element of A (R248). -/
def fireA (s : State) (r : StreamRun) (c : CellRun) (x : Nat) : Except Trap Firing :=
  let t := c.cell.ty
  let ta := typeA r c
  let p0 := c.cell.p0.toNat
  let c1 := { c with taken := c.taken + 1 }
  let one (v : Nat) : Except Trap Firing := .ok { takeA := true, cell := c1, outs := [v] }
  match c.cell.op with
  | 0 =>
    let bits := c.bits + x * 2 ^ c.nbits
    let n := (c.nbits + ta.bits) / p0
    .ok { takeA := true, outs := (takeFields p0 n bits).map (· % 2 ^ t.bits)
          cell := { c1 with bits := bits / 2 ^ (p0 * n), nbits := (c.nbits + ta.bits) % p0 } }
  | 1 =>
    let v := if x < p0 then cbExpand t (c.hold.getD x 0) else canonNaN t
    .ok { takeA := true, outs := [v], cell := { c1 with nbits := c.nbits - 1, hold := if c.nbits = 1 then [] else c.hold } }
  | 2 =>
    let sc := if c.cell.inbv then c.hold.headD 0 else p0
    let v := (deliverVal t .rne (fMul (readNum ta x) (unpackFloat .f32 sc)).1).1
    .ok { takeA := true, outs := [v]
          cell := if c.cell.inbv then { c1 with nbits := c.nbits - 1, hold := if c.nbits = 1 then [] else c.hold } else c1 }
  | 3 =>
    let hold := c.hold ++ [x]
    if hold.length < 32 then .ok { takeA := true, cell := { c1 with hold := hold } }
    else
      let q := ElemType.ofCode (BitVec.ofNat 4 p0)
      let rm := Rounding.ofCode (BitVec.ofNat 2 (p0 / 16))
      let rnds := (List.range 32).map fun i => if rm = .rsr then cellRnd s r c (c.taken - 31 + i) else 0
      let b := quantBlock q rm (p0 / 64 % 2 = 1) (p0 / 128 % 2 = 1) rnds (hold.map (readNum ta))
      let bytes := natToBytes (32 * q.bits / 8) (b.1.zipIdx.foldl (fun a k => a + k.1 * 2 ^ (q.bits * k.2)) 0)
        ++ natToBytes 2 b.2.1
      .ok { takeA := true, cell := { c1 with hold := [] }, outs := bytes.map (·.toNat) }
  | 4 => one (convert t ta (cellCtl s r c (p0 % 4) (p0 / 4 % 2 = 1) c.made) x).1
  | 10 =>
    let hold := c.hold ++ [x]
    let rows := p0 % 16 + 1
    let cols := p0 / 16 % 16 + 1
    if hold.length < rows * cols then .ok { takeA := true, cell := { c1 with hold := hold } }
    else
      .ok { takeA := true, cell := { c1 with hold := [] }
            outs := (List.range cols).flatMap fun k => (List.range rows).map fun i => hold.getD (i * cols + k) 0 }
  | 11 =>
    let a := p0 + x * (t.bits / 8)
    if 2 ^ 32 ≤ a then .error ⟨.scrbound, 0, BitVec.ofNat 64 (a % 2 ^ 32)⟩
    else match s.readScr a (t.bits / 8) with
      | .ok bs _ => one (bytesToNat bs)
      | .trap t => .error t
      | _ => .ok { cell := c }
  | 12 =>
    let hold := c.hold ++ [x % 256]
    match zexpRecord hold with
    | some us => .ok { takeA := true, cell := { c1 with hold := [] }, outs := us }
    | none => .ok { takeA := true, cell := { c1 with hold := hold } }
  | 13 =>
    let bits := c.bits + x % 2 ^ p0 * 2 ^ c.nbits
    let n := c.nbits + p0
    if n < 32 then .ok { takeA := true, cell := { c1 with bits := bits, nbits := n } }
    else .ok { takeA := true, cell := { c1 with bits := bits / 2 ^ 32, nbits := n - 32 }, outs := [bits % 2 ^ 32] }
  | 14 => one x
  | _ => .ok { takeA := true, cell := c1, sink := some (natToBytes (ta.bits / 8) x) }

/-- JOIN takes P0 elements of A, then of B, and so on; when one input ends, the rest of the other follows (R248). -/
def fireJoin (s : State) (r : StreamRun) (c : CellRun) : Option (Except Trap Firing) :=
  let onA := c.bits % 2 = 0
  let swap := if onA then overA r c else overB r c
  let useA := if swap then !onA else onA
  let n := if swap then 0 else c.nbits
  match (if useA then headA s r c else c.b.head?.map .ok) with
  | none => none
  | some (.error t) => some (.error t)
  | some (.ok v) =>
    let n := n + 1
    let side := if useA then 0 else 1
    let c1 := if n = c.cell.p0.toNat % 65536 then { c with nbits := 0, bits := 1 - side } else { c with nbits := n, bits := side }
    some (.ok { takeA := useA, takeB := !useA, cell := c1, outs := [v] })

/-- A SRC waits for the gate of its next chunk (R248). -/
def srcGated (s : State) (c : CellRun) : Bool :=
  let p2 := c.cell.p2.toNat
  p2 / 64 % 2 = 1 ∧ c.nbits = 0 ∧ ¬ s.tags.rdy.getLsbD ((p2 % 64 + c.taken) % 64)

/-- SRC reads its next chunk after its gate, one bank word at a time; `nbits` counts the chunk's bytes read, `hold` has those of an
element that the next word completes (R248, R314). -/
def fireSrc (s : State) (c : CellRun) : Option (Except Trap Firing) :=
  let cb := c.cell.p1.toNat % 65536
  let es := c.cell.ty.bits / 8
  let a := (c.cell.p0.toNat + c.taken * cb + c.nbits) % 2 ^ 32
  let n := min (cb - c.nbits) (64 - a % 64)
  if srcGated s c then none
  else
    match s.readScr a n with
    | .ok bs _ =>
      let all := c.hold ++ bs.map (·.toNat)
      let k := all.length / es
      let full := cb ≤ c.nbits + n
      some (.ok {
        cell := { c with
          hold := all.drop (k * es), nbits := if full then 0 else c.nbits + n, taken := if full then c.taken + 1 else c.taken }
        outs := bytesToElems c.cell.ty k (all.map (BitVec.ofNat 8)) })
    | .trap t => some (.error t)
    | _ => none

/-- LUT and SCALE take from B what the next block needs (R248). -/
def needsEntry (c : CellRun) : Bool := (c.cell.op = 1 ∨ (c.cell.op = 2 ∧ c.cell.inbv)) ∧ c.nbits = 0

/-- The cell with one more entry of the next block; the block begins when it has all of them. -/
def takeEntry (c : CellRun) (v : Nat) : CellRun :=
  let hold := c.hold ++ [v]
  let need := if c.cell.op = 1 then c.cell.p0.toNat else 1
  if hold.length = need then { c with hold := hold, nbits := c.cell.p1.toNat % 65536 } else { c with hold := hold }

/-- What a cell that has nothing left to emit does next; none when it lacks an input (R248, R249). -/
def nextFiring (s : State) (r : StreamRun) (c : CellRun) : Option (Except Trap Firing) :=
  if c.cell.op = 17 then fireSrc s c
  else if c.cell.op = 15 then fireJoin s r c
  else if [5, 6, 7, 8, 9].contains c.cell.op then
    match headA s r c, c.b.head? with
    | some (.ok x), some y =>
      some (.ok { takeA := true, takeB := true, cell := { c with taken := c.taken + 1 }, outs := [cellBin s r c x y] })
    | some (.error t), _ => some (.error t)
    | _, _ => none
  else if needsEntry c then
    c.b.head?.map fun v => .ok { takeB := true, cell := takeEntry c v }
  else
    match headA s r c with
    | some (.ok x) => some (fireA s r c x)
    | some (.error t) => some (.error t)
    | none => none

/-- A sink's bytes go to scratchpad, or to the box of a routed copy (R248, R251). -/
def sinkWrite (s : State) (r : StreamRun) (c : CellRun) (bs : List Byte) : Except Trap (State × StreamRun) :=
  let at_ := c.cell.p1.toNat + c.made * bs.length
  let scr (a : Nat) : Except Trap (State × StreamRun) :=
    match s.writeScr (a % 2 ^ 32) bs with
    | .ok _ s => .ok (s, r)
    | .trap t => .error t
    | _ => .ok (s, r)
  if c.cell.p0.toNat % 2 = 1 then scr at_
  else match r.stream.kind with
    | .fst _ _ dst => scr (dst + at_)
    | .routed _ => .ok (s, { r with dst := bs.zipIdx.foldl (fun d b => (at_ + b.2, b.1) :: d.filter fun x => x.1 ≠ at_ + b.2) r.dst })

/-- The run after a cell has taken its inputs. -/
def takeInputs (r : StreamRun) (i : Nat) (f : Firing) : StreamRun :=
  let c := f.cell
  let c := if f.takeA ∧ ¬ c.cell.primary then { c with a := c.a.tail } else c
  let c := if f.takeB then { c with b := c.b.tail } else c
  let r := if f.takeA ∧ c.cell.primary then { r with pos := r.pos + 1 } else r
  setCell r i c

/-- One firing of cell i: none when it cannot fire, else the run after it or the stream's fault (R249). -/
def fireCell (s : State) (r : StreamRun) (i : Nat) : Option (Except Trap (State × StreamRun)) :=
  match r.cells[i]? with
  | none => none
  | some c =>
    if c.done then none
    else
      match c.out with
      | v :: rest =>
        if hasRoom r c then
          some (.ok (s, pushElem (setCell r i { c with out := rest, made := c.made + 1 }) c v))
        else none
      | [] =>
        match nextFiring s r c with
        | none => none
        | some (.error t) => some (.error t)
        | some (.ok f) =>
          match f.outs, f.sink with
          | v :: rest, _ =>
            if hasRoom r c then
              let r := takeInputs r i { f with cell := { f.cell with out := rest, made := c.made + 1 } }
              some (.ok (s, pushElem r c v))
            else none
          | [], some bs =>
            some ((sinkWrite s r c bs).map fun p =>
              (p.1, takeInputs p.2 i { f with cell := { f.cell with made := c.made + 1 } }))
          | [], none => some (.ok (s, takeInputs r i f))

/-- CELL_FIRE: the cell that the event names fires once (R249). -/
def execCellFire (s : State) : Out :=
  match s.grid.run with
  | none => .next s
  | some r =>
    match if r.ending.isSome then none else fireCell s r s.input.index with
    | none => .next s
    | some (.error t) => .next (endStream s r (some t))
    | some (.ok (s, r)) => .next { s with grid := { s.grid with run := some { closeCells r with idle := 0 } } }

/-- The first cell that can fire. -/
def readyCell (s : State) (r : StreamRun) : Option Nat :=
  if r.ending.isSome then none else (List.range r.cells.length).find? fun i => (fireCell s r i).isSome

/-- A SRC waits on its gate (R249). -/
def gateWaits (s : State) (r : StreamRun) : Bool :=
  r.cells.any fun c => c.cell.op = 17 ∧ ¬ c.done ∧ c.out.isEmpty ∧ srcGated s c

/-- Every input is exhausted and every cell has emitted its last element (R249). -/
def streamOver (r : StreamRun) : Bool := primaryCount r ≤ r.pos ∧ r.cells.all (·.done)

/-- STREAM_END (R249). -/
def execStreamEnd (s : State) : Out :=
  match s.grid.run with
  | none => .next s
  | some r =>
    match r.ending with
    | some t => .next (endStream s r t)
    | none => if streamOver r then .next (endStream s r none) else .next s

/-- STREAM_WATCHDOG: no cell could fire for 2^20 clk and no SRC waits on a gate (R249). -/
def execStreamWatchdog (s : State) : Out :=
  match s.grid.run with
  | none => .next s
  | some r =>
    if Config.starveClk ≤ r.idle ∧ (readyCell s r).isNone ∧ ¬ gateWaits s r ∧ ¬ streamOver r ∧ r.ending.isNone then
      .next (endStream s r (some ⟨.watchdog, 11, 0⟩))
    else .next s

/-- The stream's count of clk without a firing goes on, and stops while a SRC waits on a gate (R249). -/
def tickStream (s : State) (dt : Nat) : State :=
  match s.grid.run with
  | none => s
  | some r =>
    let idle := if gateWaits s r then 0 else r.idle + dt
    { s with grid := { s.grid with run := some { r with idle := idle } } }

end Sys2Proof.Machine
end

