-- ==== Sys2Proof/Machine/Helper.lean ====
section
/-! DEFINITION. The helper sequencer (R53, R253, R254, R326, R349). -/

namespace Sys2Proof.Machine

/-- The helper is idle, with a fault still to report or not. -/
def Helper.idle (h : Helper) : Helper := { h with running := false, stopping := false, counters := [], issued := [] }

/-- The report of a helper fault at HSEQ, HSTOP or EXIT: QFAULT with Q 3; the helper returns to idle (R254, R326). -/
def helperReport (s : State) (t : Trap) : Out :=
  .next ({ s with helper := { s.helper.idle with fault := none } }.takeTrap Cause.qfault.code s.pc t.va (stsOf t 3 0) s.keptWait)

/-- The helper can take a new program: it runs none and has no fault to report. -/
def helperFree (s : State) : Bool := ¬ s.helper.running ∧ s.helper.fault.isNone

/-- A helper program starts at an address with its offsets (R253). -/
def startHelper (s : State) (va o0 o1 : Word) : State :=
  { s with helper :=
      { running := true, stopping := false, pc := va, offs := #v[o0, o1, 0, 0], counters := [], issued := [], fault := none } }

/-- HSEQ (R53, R253, R254).
DEDUCED: log entry 36. -/
def execHseq (o : AOp) (s : State) : Out :=
  withRegs s [o.a, o.b, o.c]
    (match s.helper.fault with
     | some t => helperReport s t
     | none =>
       if (s.getReg o.a).toNat % 4 ≠ 0 then trapNow s ⟨.misalign, 0, s.getReg o.a⟩
       else if s.helper.running then stall s 6
       else .next ((startHelper s (s.getReg o.a) (s.getReg o.b) (s.getReg o.c)).advance 2))

/-- The helper fetches its word as an engine read at the home (R254). -/
def helperFetch (s : State) : Res Nat :=
  let vas := bytesAt s.helper.pc.toNat 4
  match s.locsOf .load false false vas with
  | .error t => .trap t
  | .ok locs => ((s.note vas).readImm vas locs).bind fun bs s => .ok (bytesToNat bs) s

/-- The helper faults and halts at its word, with a record (R254, R349). -/
def helperFault (s : State) (t : Trap) : State :=
  { s with helper := { s.helper with running := false, stopping := false, fault := some t } }.engineRecord 0x24 (some t) 0
    State.noPeer 0

/-- Every copy that the run issued since its start or its last flag has completed (R254). -/
def helperCopiesDone (s : State) : Bool := s.helper.issued.all fun i => (copiesHeld s).all fun c => c.id ≠ i

/-- The offset register n. -/
def helperOff (s : State) (n : BitVec 2) : Word := s.helper.offs[n.toNat]'n.isLt

/-- The issue checks of an HCPY (R254). -/
def hcpyCheck (s : State) (tpl : BitVec 5) (tag : BitVec 6) (oe : Bool) (reg : BitVec 2) : Res CopyCmd :=
  copyCheck s tpl.toNat (if oe then helperOff s reg else 0) 0 0 tag

/-- The word at the helper's address has begun and waits: HWTAG, HFLAG, or a copy that is held back. -/
def helperWaits (s : State) : Bool :=
  match helperFetch s with
  | .ok w _ =>
    match decodeHelper w with
    | .ok (.hwtag g) => ¬ s.tags.rdy.getLsbD g.toNat
    | .ok (.hflag _ _) => ¬ helperCopiesDone s
    | .ok (.hcpy tpl tag oe reg) =>
      match hcpyCheck s tpl tag oe reg with
      | .ok c s => (copyHeld s c).isSome
      | .wait _ => true
      | _ => false
    | _ => false
  | _ => false

/-- The helper runs its words: the task is in focus, and no pre-emption has halted or saved it (R110, R276, R315). -/
def helperLive (s : State) : Bool :=
  s.helper.running ∧ s.status ≠ .none ∧ s.status ≠ .halted ∧ s.status ≠ .saved

/-- HSTOP (R253): the helper stops after its current word. -/
def execHstop (s : State) : Out :=
  match s.helper.fault with
  | some t => helperReport s t
  | none =>
    if s.helper.running ∧ helperWaits s then
      stall { s with helper := { s.helper with stopping := true } } 6
    else .next ({ s with helper := s.helper.idle }.advance 2)

/-! Words: each runs while the helper runs -/

/-- The helper goes on at an address, or stops there when HSTOP has asked for it. -/
def helperNext (s : State) (pc : Word) : Out :=
  let h := { s.helper with pc := pc }
  .next { s with helper := if h.stopping then h.idle else h }

/-- A word runs only while the helper does. -/
def helperRuns (s : State) (k : Out) : Out := if helperLive s then k else .next s

/-- HCPY (R254). -/
def execHcpy (tpl : BitVec 5) (tag : BitVec 6) (oe : Bool) (reg : BitVec 2) (s : State) : Out :=
  helperRuns s
    (match hcpyCheck s tpl tag oe reg with
     | .trap t => .next (helperFault s t)
     | .fail t s => .next (helperFault s t)
     | .wait s => .next s
     | .ok c s =>
       if (copyHeld s c).isSome then .next s
       else
         let s := startCopy s { c with helper := true }
         helperNext { s with helper := { s.helper with issued := s.helper.issued ++ [c.id] } } (s.helper.pc + 4))

/-- HWTAG (R254). -/
def execHwtag (tag : BitVec 6) (s : State) : Out :=
  helperRuns s
    (if s.launch.header.ntag ≤ tag.toNat then .next (helperFault s { cause := .tagbound })
     else if s.tags.rdy.getLsbD tag.toNat then helperNext s (s.helper.pc + 4)
     else .next s)

/-- HADD (R254). -/
def execHadd (reg : BitVec 2) (inc : BitVec 26) (s : State) : Out :=
  helperRuns s
    (helperNext { s with helper := { s.helper with
      offs := s.helper.offs.set reg.toNat (helperOff s reg + inc.signExtend 64) reg.isLt } } (s.helper.pc + 4))

/-- HLOOP (R151, R254); no word goes back by 0. -/
def execHloop (back : BitVec 8) (cnt : BitVec 20) (s : State) : Out :=
  helperRuns s
    (let at_ := s.helper.pc.toNat
     let cs := s.helper.counters
     let rest := cs.filter fun c => c.1 ≠ at_
     let go (n : Nat) : Out :=
       if 0 < n then
         helperNext { s with helper := { s.helper with counters := (at_, n - 1) :: rest } }
           (s.helper.pc - BitVec.ofNat 64 (4 * back.toNat))
       else helperNext { s with helper := { s.helper with counters := rest } } (s.helper.pc + 4)
     if back = 0 then .next (helperFault s ⟨.undef, 0, 0⟩)
     else match cs.find? fun c => c.1 = at_ with
     | some c => go c.2
     | none =>
       if cnt = 0 ∨ 4 ≤ cs.length then .next (helperFault s ⟨.undef, 15, 0⟩)
       else go (cnt.toNat - 1))

/-- HEND (R254). -/
def execHend (s : State) : Out := helperRuns s (.next { s with helper := s.helper.idle })

/-- HFLAG (R254). -/
def execHflag (off : BitVec 18) (val : Byte) (s : State) : Out :=
  helperRuns s
    (if helperCopiesDone s then
      match s.writeScr (4 * off.toNat) [val, 0, 0, 0] with
      | .ok _ s => helperNext { s with helper := { s.helper with issued := [] } } (s.helper.pc + 4)
      | .trap t => .next (helperFault s t)
      | .fail t s => .next (helperFault s t)
      | .wait s => .next s
    else .next s)

end Sys2Proof.Machine
end

