-- ==== Sys2Proof/Machine/Caller.lean ====
section
/-! DEFINITION. The Caller (R54, R256 to R258, R349). -/

namespace Sys2Proof.Machine

/-- A term of the Caller. -/
def termOf (s : State) (t : BitVec 5) : Term := s.caller.terms[t.toNat]'t.isLt

/-- Replaces a term. -/
def setTerm (s : State) (t : BitVec 5) (x : Term) : State :=
  { s with caller := { s.caller with terms := s.caller.terms.set t.toNat x t.isLt } }

/-- EVCFG (R258). -/
def execEvcfg (a : Reg) (t : BitVec 5) (s : State) : Out :=
  withRegs s [a, a + 1]
    (let w : BitVec 128 := s.getReg (a + 1) ++ s.getReg a
     match Term.bad s.launch.header w with
     | some c => trapNow s ⟨c, Term.detail s.launch.header w, 0⟩
     | none => .next ((setTerm s t { termOf s t with word := w, armed := false }).advance 2))

/-- EVARM (R258). -/
def execEvarm (t : BitVec 5) (s : State) : Out :=
  .next ((setTerm s t { termOf s t with armed := true, cnt := 0, fa := false, fb := false }).advance 2)

/-- EVOFF (R258). -/
def execEvoff (t : BitVec 5) (s : State) : Out :=
  .next ((setTerm s t { termOf s t with armed := false }).advance 2)

/-- One armed term at one clk: it counts its pulses, and at COUNT its action becomes pending (R257). -/
def Term.step (ps : List Pulse) (x : Term) : Term :=
  if ¬ x.armed then x
  else
    let w := x.word
    let a := Term.ska w ≠ 0 ∧ ps.any fun p => p.kind = Term.ska w ∧ p.num = Term.sna w
    let b := Term.skb w ≠ 0 ∧ ps.any fun p => p.kind = Term.skb w ∧ p.num = Term.snb w
    let one (c : Prop) [Decidable c] : Nat := if c then 1 else 0
    let y : Term :=
      if ¬ Term.comb w then { x with cnt := x.cnt + one a + one b }
      else
        let fa : Bool := x.fa ∨ a
        let fb : Bool := x.fb ∨ b
        if fa ∧ fb then { x with cnt := x.cnt + 1, fa := false, fb := false } else { x with fa := fa, fb := fb }
    if Term.count w ≤ y.cnt ∧ y.pending.isNone then
      { y with cnt := y.cnt - Term.count w, pending := some w, armed := Term.rearm w }
    else y

/-- The pulses of the earliest clk that the terms have not seen. -/
def firstPulses (s : State) : List Pulse :=
  match s.caller.pulses with
  | [] => []
  | p :: _ => s.caller.pulses.filter fun q => q.clk = p.clk

/-- Every armed term takes the pulses of one clk (R257). -/
def callerClk (s : State) : State :=
  let ps := firstPulses s
  { s with caller :=
    { terms := s.caller.terms.map (Term.step ps)
      pulses := s.caller.pulses.filter fun q => ¬ ps.contains q } }

/-- CALLER_TERM_FIRE: the terms act at one clk (R257). -/
def execCallerTermFire (s : State) : Out := .next (callerClk s)

/-- A pulse has not been taken, or a term would act without one. -/
def callerDue (s : State) : Bool :=
  ¬ s.caller.pulses.isEmpty ∨ s.caller.terms.toList.any fun x => x.armed ∧ x.pending.isNone ∧ Term.count x.word ≤ x.cnt

/-- The terms act at every clk that has passed. -/
def callerClks : Nat → State → State
  | 0, s => s
  | n + 1, s => if callerDue s then callerClks n (callerClk s) else s

/-- The action is made or refused: the term is no longer held back. -/
def actionDone (s : State) (t : BitVec 5) : State := setTerm s t { termOf s t with pending := none }

/-- An action that breaks an issue check: a record, and the term is disarmed (R257, R349). -/
def refuseAction (s : State) (t : BitVec 5) (f : Trap) : State :=
  (setTerm s t { termOf s t with pending := none, armed := false }).engineRecord 0x25 (some f) t.toNat State.noPeer 0

/-- A pending action starts, is refused, or waits on (R54, R257). -/
def startAction (s : State) (t : BitVec 5) (w : BitVec 128) : Out :=
  let arg := Term.arg w
  let tg : BitVec 6 := BitVec.ofNat 6 (Term.tg w)
  match Term.tk w with
  | 0 =>
    match copyCheck s (Term.tn w) (BitVec.ofNat 64 arg) 0 0 tg with
    | .trap f => .next (refuseAction s t f)
    | .fail f s => .next (refuseAction s t f)
    | .wait s => .next s
    | .ok c s => if (copyHeld s c).isSome then .next s else .next (actionDone (startCopy s { c with term := true }) t)
  | 1 =>
    let src := arg % 2 ^ 20
    let len := arg / 2 ^ 20 % 2 ^ 20
    match fstCheck s (Term.tn w) src len tg with
    | some f => .next (refuseAction s t f)
    | none =>
      if streamHeld s tg then .next s
      else .next (actionDone (startStream s (Term.tn w) src len (arg / 2 ^ 40 % 2 ^ 20) tg true) t)
  | 2 =>
    if arg % 4 ≠ 0 then .next (refuseAction s t ⟨.misalign, 0, BitVec.ofNat 64 arg⟩)
    else if helperFree s then .next (actionDone (startHelper s (BitVec.ofNat 64 arg) 0 0) t)
    else .next s
  | 3 => .next ((actionDone s t).arrive (BitVec.ofNat 9 (Term.tn w)))
  | _ =>
    let n := Term.tn w % 64
    let s1 := { actionDone s t with tags := { s.tags with rdy := s.tags.rdy ||| 1 <<< n } }
    .next (if s.tags.rdy.getLsbD n then s1 else s1.pulse 1 n)

/-- CALLER_ACTION_START: the pending action of the term that the event names (R257). -/
def execCallerActionStart (s : State) : Out :=
  let t : BitVec 5 := BitVec.ofNat 5 s.input.index
  match (termOf s t).pending with
  | none => .next s
  | some w => startAction s t w

/-- The action of a term could start or be refused now. -/
def actionReady (s : State) (t : BitVec 5) : Bool :=
  match (termOf s t).pending with
  | none => false
  | some w =>
    match Term.tk w with
    | 0 =>
      match copyCheck s (Term.tn w) (BitVec.ofNat 64 (Term.arg w)) 0 0 (BitVec.ofNat 6 (Term.tg w)) with
      | .ok c s => (copyHeld s c).isNone
      | .wait _ => false
      | _ => true
    | 1 => ¬ streamHeld s (BitVec.ofNat 6 (Term.tg w))
    | 2 => Term.arg w % 4 ≠ 0 ∨ helperFree s
    | _ => true

/-- Actions that the terms have started and that have not begun (R63). -/
def actionsPending (s : State) : Bool := s.caller.terms.toList.any fun x => x.pending.isSome

end Sys2Proof.Machine
end

