-- ==== Sys2Proof/Machine/Collective.lean ====
section
/-! DEFINITION. Collective programs: CRUN, the words of R150, transfers, and failures (R108, R259 to R262, R288, R358). -/

namespace Sys2Proof.Machine

/-- The address of a slot register (R259). -/
def slotVa (w : Word) : Nat := w.toNat % 2 ^ 52

/-- The size of a slot in 256-B units; 0 where none is given (R259). -/
def slotUnits (w : Word) : Nat := w.toNat / 2 ^ 52 * 16

/-- The locations of a range of addresses, page by page, as spans; pages without a translation have none. -/
def spansOf (s : State) (lo n : Nat) : List (Nat × Nat) :=
  let hi := lo + n
  ((List.range (hi / 65536 - lo / 65536 + 1)).map fun i => (lo / 65536 + i) * 65536).filterMap fun pg =>
    match s.locOf .load false true pg with
    | .ok l => some (l + (max lo pg - pg), l + (min hi (pg + 65536) - pg))
    | .error _ => none

/-- The buffers that the slots name with a size (R108, R259). -/
def slotSpans (s : State) (slots : List Word) : List (Nat × Nat) :=
  (slots.filter (· ≠ 0)).flatMap fun w => spansOf s (slotVa w) (256 * slotUnits w)

/-- The commit at CRUN (R108): what lies in the slots, or all of it where a present slot has no size. -/
def commitSlots (s : State) (slots : List Word) : State :=
  let staged := s.memory.staging.map (·.1)
  if slots.any fun w => w ≠ 0 ∧ slotUnits w = 0 then s.commitPart .grp staged
  else
    let spans := slotSpans s slots
    s.commitPart .grp (staged.filter (State.inSpans spans))

/-- The version that the launch's group has adopted does not name this device, and the task's collectives span the group (R265). -/
def leftGroup (s : State) : Bool :=
  match groupDesc s with
  | some d => s.launch.group ≠ 0 ∧ s.launch.header.ndom = 4 ∧ ¬ d.ranks.contains s.fabric.devid
  | none => false

/-- The die's engine caches the descriptor on first use (R264).
DESIGN CHOICE: log entry 18. -/
def cacheGroup (s : State) : State := { s with group := { s.group with cached := groupDesc s } }

/-- CRUNs of program p so far; under 64 + T the RSHDs of tensor T. -/
def crunCount (s : State) (p : Nat) : Nat :=
  match s.coll.counts.find? fun c => c.1 = p with | some c => c.2 | none => 0

/-- A new instance at this rank. -/
def freshInstance (s : State) (p : Nat) (bar : BitVec 9) (slots : Vector Word 8) : Instance :=
  { id := p + 64 * crunCount s p, prog := p, at_ := 0, bar := bar, slots := slots, offs := Vector.replicate 8 0
    c := Vector.replicate 4 0, peerT := none, peerF := none, rank := s.rankAt s.launch.header.ndom
    n := s.membAt s.launch.header.ndom, loops := [], pend := [], sent := [], got := [], ws := [], after := s.memory.nextReq }

/-- The device on which a rank of the instance's domain stands. -/
def rankDevice (s : State) (r : Nat) : Nat :=
  if s.launch.header.ndom = 4 then deviceOfRank s (r / s.launch.m3) else s.fabric.devid.toNat

/-- The request brings collective data. -/
def isData (op : RemoteOp) : Bool := match op with | .data _ => true | _ => false

/-- The location that names a device and nothing in it. -/
def deviceLoc (dev : Nat) : Nat := regionBase (peerRegion dev)

/-- A rank tells another one that it has aborted (R261). -/
def tellAbort (s : State) (x : Instance) (r : Nat) : State :=
  if rankDevice s r = s.fabric.devid.toNat then { s with coll := { s.coll with notices := s.coll.notices ++ [(x.id, r)] } }
  else s.request (deviceLoc (rankDevice s r)) (.notice x.id x.rank r) none .engine

/-- The abort notices to the other ranks (R261). -/
def tellAborts (s : State) (x : Instance) : State := ((List.range x.n).filter (· ≠ x.rank)).foldl (fun s r => tellAbort s x r) s

/-- An instance stops at this rank: a failed arrival at its barrier and a record; `tell` sends the abort notice to the
other ranks (R261, R262, R358). What it sends is sent no more. -/
def failInstance (s : State) (x : Instance) (t : Trap) (peer : Nat) (tell : Bool) : State :=
  let s := { s with
    coll := { s.coll with
      live := s.coll.live.filter fun y => y.id ≠ x.id
      inbox := s.coll.inbox.filter fun d => d.inst ≠ x.id }
    memory := { s.memory with reqs := s.memory.reqs.filter fun r => ¬ (isData r.op ∧ r.owner = .coll x.id) } }
  let s := if tell then tellAborts s x else s
  ((s.engineDone (.bar x.bar.toNat) x.ws).engineRecord 0x26 (some t) x.prog peer 0).arriveFailed x.bar t

/-- CRUN (R259).
DEDUCED: log entry 35. -/
def execCrun (o : AOp) (s : State) : Out :=
  let regs : List Reg := (List.range 8).map fun i => o.a + BitVec.ofNat 6 i
  withRegs s regs
    (let bar : BitVec 9 := o.imm.extractLsb' 0 9
     let p := o.id.toNat
     let slots : Vector Word 8 := Vector.ofFn fun i => s.getReg (o.a + BitVec.ofNat 6 i.val)
     withBar s bar
       (if s.launch.header.ncp ≤ p then trapNow s ⟨.undef, 13, 0⟩
        else if slots.toList.any fun w => w.toNat % 4 ≠ 0 then trapNow s ⟨.undef, 15, 0⟩
        else if isInterval s bar then trapNow s ⟨.detviol, 4, 0⟩
        else if 4 ≤ s.coll.live.length then stall s 0
        else if s.stagingWaits then hold s
        else
          let s := cacheGroup (commitSlots s slots.toList)
          let x := freshInstance s p bar slots
          let s := { s with coll := { s.coll with
            live := s.coll.live ++ [x]
            counts := (p, crunCount s p + 1) :: s.coll.counts.filter fun c => c.1 ≠ p } }
          let s := s.advance 2
          .next (if leftGroup s then failInstance s x { cause := .groupver } s.fabric.devid.toNat true else s)))

/-! Transfers -/

/-- The instance that an event names. -/
def instanceOf (s : State) (id : Nat) : Option Instance := s.coll.live.find? fun x => x.id = id

/-- Replaces a live instance. -/
def setInstance (s : State) (x : Instance) : State :=
  { s with coll := { s.coll with live := s.coll.live.map fun y => if y.id = x.id then x else y } }

/-- The fault of an operand of a collective word (R261). -/
def collOperand : Trap := ⟨.undef, 15, 0⟩

/-- L of a transfer word, in 256-B units (R260).
DEDUCED: log entry 33. -/
def transferUnits (x : Instance) (slot : BitVec 3) (len : BitVec 16) : Except Trap Nat :=
  let w := x.slots[slot.toNat]'slot.isLt
  let off := x.offs[slot.toNat]'slot.isLt
  if len ≠ 0 then .ok len.toNat
  else if w = 0 ∨ slotUnits w = 0 ∨ slotUnits w < off then .error collOperand
  else .ok (slotUnits w - off)

/-- The region of L units of a slot as VA and bytes (R260, R261). -/
def slotRegion (x : Instance) (slot : BitVec 3) (l : Nat) : Except Trap (Nat × Nat) :=
  let w := x.slots[slot.toNat]'slot.isLt
  let off := x.offs[slot.toNat]'slot.isLt
  if w = 0 ∨ (slotUnits w ≠ 0 ∧ slotUnits w < off + l) then .error collOperand
  else .ok ((slotVa w + 256 * off) % 2 ^ 64, 256 * l)

/-- Two regions share a byte. -/
def overlaps (a b : Nat × Nat) : Bool := a.1 < b.1 + b.2 ∧ b.1 < a.1 + a.2

/-- The regions that a transfer reads: RRS also reads what it sends onward. -/
def Transfer.reads (t : Transfer) : List (Nat × Nat) :=
  t.sa.toList ++ (if t.dst.isSome ∧ t.src.isSome then t.sb.toList else [])

/-- The region that a transfer writes. -/
def Transfer.writes (t : Transfer) : List (Nat × Nat) := t.sb.toList

/-- A transfer may not start before an earlier one has completed locally (R260). -/
def Transfer.after (t e : Transfer) : Bool :=
  (t.reads.any fun a => e.writes.any (overlaps a)) || (t.writes.any fun a => e.reads.any (overlaps a))

/-- One element of a reduction (R190, R260). -/
def combineElem (r : Rop) (t : ElemType) (x y : Nat) : Nat :=
  match r with
  | .sum =>
    if t.isInt then packInt t (unpackInt t x + unpackInt t y)
    else (deliverVal t .rne (fAdd (readNum t x) (readNum t y)).1).1
  | .max => if t.isInt then packInt t (max (unpackInt t x) (unpackInt t y)) else fltMinMax t true x y
  | .min => if t.isInt then packInt t (min (unpackInt t x) (unpackInt t y)) else fltMinMax t false x y

/-- The reduction of two regions, and whether an element is a NaN (R260, R288). -/
def combineBytes (r : Rop) (t : ElemType) (a b : List Byte) : List Byte × Bool :=
  let es := t.bits / 8
  let n := a.length / es
  let rs := ((bytesToElems t n a).zip (bytesToElems t n b)).map fun p => combineElem r t p.1 p.2
  (elemsToBytes t rs, ¬ t.isInt ∧ rs.any fun v => readNum t v == FVal.nan)

/-- An engine reads a region at its homes (R98). -/
def readRegion (s : State) (g : Nat × Nat) : Res (List Byte) :=
  let vas := (bytesAt g.1 g.2).map (· % 2 ^ 64)
  match s.locsOf .load false false vas with
  | .error t => .trap t
  | .ok locs => (s.note vas).readImm vas locs

/-- An engine writes a region at its homes (R109), once their stacks are ready (R311): the state and what it wrote. -/
def writeRegion (s : State) (g : Nat × Nat) (bs : List Byte) : Res (List (Nat × Byte)) :=
  let vas := (bytesAt g.1 g.2).map (· % 2 ^ 64)
  match s.locsOf .store false false vas with
  | .error t => .trap t
  | .ok locs => if s.stackWaits locs then .wait s else .ok (locs.zip bs) ((s.note vas).engineWrite (locs.zip bs))

/-- The parts of a receive's data that have arrived (R261). -/
def partsFor (s : State) (id : Nat) (src : Nat × Nat) : List CollData :=
  s.coll.inbox.filter fun d => d.inst = id ∧ d.rank = src.1 ∧ d.seq = src.2

/-- The data of a receive, if all of them have arrived: the parts by their place (R261). -/
def arrived (s : State) (id : Nat) (src : Option (Nat × Nat)) : Option (List Byte) :=
  match src with
  | none => none
  | some f =>
    match partsFor s id f with
    | [] => none
    | d :: ds =>
      let first := ds.foldl (fun a e => min a e.off) d.off
      let bs := (List.range (ds.length + 1)).flatMap fun i =>
        match (d :: ds).find? fun e => e.off = first + 4096 * i with | some e => e.bytes | none => []
      if bs.length = d.total then some bs else none

/-- The parts in which data leave (R279): at most 4,096 bytes each, and one where there is none. -/
def dataParts (d : CollData) : List CollData :=
  (List.range (max 1 ((d.bytes.length + 4095) / 4096))).map fun i =>
    { d with off := d.off + 4096 * i, bytes := (d.bytes.drop (4096 * i)).take 4096 }

/-- Data leave for a rank: an own transfer at once into the engine's store, those of a rank of this device within it, the others as
requests to its device (R261, R282). -/
def sendData (s : State) (x : Instance) (t : Transfer) (dst : Nat × Nat) (bs : List Byte) : State :=
  let d : CollData := ⟨x.id, x.rank, dst.1, dst.2, t.word, t.off, bs.length, bs⟩
  if dst.1 = x.rank then { s with coll := { s.coll with inbox := s.coll.inbox ++ dataParts d } }
  else if rankDevice s dst.1 = s.fabric.devid.toNat then { s with coll := { s.coll with outbox := s.coll.outbox ++ [d] } }
  else (dataParts d).foldl (fun s d => s.request (deviceLoc (rankDevice s dst.1)) (.data d) none (.coll x.id)) s

/-- The commit at the instance's CRUN has been acknowledged (R108). -/
def committed (s : State) (x : Instance) : Bool := s.memory.reqs.all fun r => ¬ (r.owner = .pub ∧ r.id < x.after)

/-- A transfer's engine does its part: data, reduction, region, send (R260, R261). It waits for data that have not arrived and for
units of other devices. -/
def runTransfer (s : State) (x : Instance) (t : Transfer) : Res Instance :=
  let got := arrived s x.id t.src
  if (t.src.isSome ∧ got.isNone) ∨ ¬ committed s x then .wait s
  else
    let data := got.getD []
    let short : Bool := match t.sb with | some g => data.length ≠ g.2 | none => false
    if t.src.isSome ∧ short then .trap collOperand
    else
      let a := match t.sa with | some g => readRegion s g | none => .ok [] s
      a.bind fun a s =>
        let res : List Byte × Bool := match t.rop, t.src with
          | some (r, ty), _ => combineBytes r ty a data
          | none, some _ => (data, false)
          | none, none => (a, false)
        let s := if res.2 then { s with fabric := { s.fabric with inv := true } } else s
        let w := match t.sb with | some g => writeRegion s g res.1 | none => .ok [] s
        w.bind fun ws s =>
          let s := match t.src with
            | some f => { s with coll := { s.coll with inbox := s.coll.inbox.filter fun d => ¬ (partsFor s x.id f).contains d } }
            | none => s
          let s := match t.dst with | some d => sendData s x t d res.1 | none => s
          .ok { x with ws := x.ws ++ ws } s

/-- A transfer has completed locally: its data have left the device, and its region's writes are acknowledged (R260). -/
def localDone (s : State) (t : Transfer) : Bool :=
  match t.asked with
  | none => false
  | some a => s.memory.reqs.all fun r => r.id < a.1 ∨ a.2 ≤ r.id ∨ (isData r.op ∧ r.sent)

/-- The transfers of an instance that can start do, in order; those that wait, or have not completed locally, keep their places. The
result is the instance, or the fault of a transfer. -/
def runPending (x : Instance) : (todo kept : List Transfer) → State → Except Trap Instance × State
  | [], kept, s => (.ok { x with pend := kept }, s)
  | t :: rest, kept, s =>
    if localDone s t then runPending x rest kept s
    else if t.asked.isSome ∨ kept.any t.after then runPending x rest (kept ++ [t]) s
    else
      let start := s.memory.nextReq
      match runTransfer s x t with
      | .ok x s =>
        let t := { t with asked := some (start, s.memory.nextReq) }
        let s := chargeReqs s start (.coll x.id)
        runPending x rest (if localDone s t then kept else kept ++ [t]) s
      | .wait s => runPending x rest (kept ++ [t]) (chargeReqs s start (.coll x.id))
      | .trap f => (.error f, s)
      | .fail f s => (.error f, s)

/-- The device that a fault of an instance concerns. -/
def faultPeer (s : State) : Nat := s.fabric.devid.toNat

/-- An instance goes on: what can move moves, or the instance faults. -/
def pumpInstance (s : State) (x : Instance) : State :=
  match runPending x x.pend [] s with
  | (.ok x, s) => setInstance s x
  | (.error t, s) => failInstance s x t (faultPeer s) true

/-! Words -/

/-- A word of the instance that the event names; with no such instance nothing happens. -/
def withInstance (s : State) (k : Instance → State) : Out :=
  match instanceOf s s.input.index with
  | none => .next s
  | some x => .next (k x)

/-- The instance faults at its word (R261). -/
def collFault (s : State) (x : Instance) (t : Trap) : State := failInstance s x t (faultPeer s) true

/-- Transfers of an instance with a peer so far. -/
def pairCount (cs : List (Nat × Nat)) (r : Nat) : Nat := match cs.find? fun c => c.1 = r with | some c => c.2 | none => 0

/-- One more transfer with a peer. -/
def pairNext (cs : List (Nat × Nat)) (r : Nat) : List (Nat × Nat) := (r, pairCount cs r + 1) :: cs.filter fun c => c.1 ≠ r

/-- A transfer word joins the instance's transfers (R260): its slots, reduction, and whether it sends and receives. -/
def transferWord (s : State) (x : Instance) (sa sb : Option (BitVec 3)) (rop : Option (Rop × ElemType)) (sends recvs : Bool)
    (len : BitVec 16) : State :=
  let slot := (sa.or sb).getD 0
  let region (l : Nat) (k : Option (BitVec 3)) : Except Trap (Option (Nat × Nat)) :=
    match k with
    | none => .ok none
    | some k => (slotRegion x k l).map some
  match transferUnits x slot len with
  | .error t => collFault s x t
  | .ok l =>
    match region l sa, region l sb with
    | .error t, _ => collFault s x t
    | .ok _, .error t => collFault s x t
    | .ok a, .ok b =>
      if (sends ∧ x.peerT.isNone) ∨ (recvs ∧ x.peerF.isNone) then collFault s x collOperand
      else
        let peer := x.peerT.getD 0
        let from_ := x.peerF.getD 0
        let t : Transfer :=
          { sa := a, sb := b, rop := rop, dst := if sends then some (peer, pairCount x.sent peer) else none
            src := if recvs then some (from_, pairCount x.got from_) else none, since := s.device.time, word := x.at_
            off := 256 * x.offs[slot.toNat]'slot.isLt }
        pumpInstance s { x with
          at_ := x.at_ + 1
          pend := x.pend ++ [t]
          sent := if sends then pairNext x.sent peer else x.sent
          got := if recvs then pairNext x.got from_ else x.got }

/-- SEND (R260). -/
def execSend (sa : BitVec 3) (len : BitVec 16) (s : State) : Out :=
  withInstance s fun x => transferWord s x (some sa) none none true false len
/-- RECV (R260). -/
def execRecv (sb : BitVec 3) (len : BitVec 16) (s : State) : Out :=
  withInstance s fun x => transferWord s x none (some sb) none false true len
/-- RRS (R260). -/
def execRrs (sa sb : BitVec 3) (rop : Rop) (ty : ElemType) (len : BitVec 16) (s : State) : Out :=
  withInstance s fun x => transferWord s x (some sa) (some sb) (some (rop, ty)) true true len
/-- RRED (R260). -/
def execRred (sa sb : BitVec 3) (rop : Rop) (ty : ElemType) (len : BitVec 16) (s : State) : Out :=
  withInstance s fun x => transferWord s x (some sa) (some sb) (some (rop, ty)) false true len
/-- COPY (R260). -/
def execCopy (sa sb : BitVec 3) (len : BitVec 16) (s : State) : Out :=
  withInstance s fun x => transferWord s x (some sa) (some sb) none false false len

/-- Every earlier transfer of the instance has completed locally (R260). -/
def collDrained (s : State) (x : Instance) : Bool := x.pend.all (localDone s)

/-- A word that first waits for the earlier transfers (R260). -/
def afterTransfers (s : State) (x : Instance) (k : State) : State := if collDrained s x then k else pumpInstance s x

/-- WAIT (R260). -/
def execWait (s : State) : Out :=
  withInstance s fun x => afterTransfers s x (setInstance s { x with at_ := x.at_ + 1 })

/-- SIG (R257, R260). -/
def execSig (bar : BitVec 9) (s : State) : Out :=
  withInstance s fun x => afterTransfers s x
    (if s.launch.header.nbar ≤ bar.toNat then collFault s x { cause := .barbound }
     else (((setInstance s { x with at_ := x.at_ + 1 }).engineDone (.bar bar.toNat) x.ws).arrive bar).pulse 5 bar.toNat)

/-- HALT (R108, R109, R260): the instance ends with an arrival at the barrier of its CRUN. -/
def execHalt (s : State) : Out :=
  withInstance s fun x => afterTransfers s x
    (({ s with coll := { s.coll with live := s.coll.live.filter fun y => y.id ≠ x.id } }.engineDone (.bar x.bar.toNat) x.ws
      (slotSpans s x.slots.toList)).arrive x.bar)

/-- LOOP (R260). -/
def execLoop (n : BitVec 2) (cnt : BitVec 16) (s : State) : Out :=
  withInstance s fun x => setInstance s { x with
    c := x.c.set n.toNat 0 n.isLt
    loops := (n.toNat, x.at_ + 1, cnt.toNat) :: x.loops.filter fun l => l.1 ≠ n.toNat
    at_ := x.at_ + 1 }

/-- ENDL (R260). -/
def execEndl (n : BitVec 2) (s : State) : Out :=
  withInstance s fun x =>
    match x.loops.find? fun l => l.1 = n.toNat with
    | none => collFault s x ⟨.undef, 0, 0⟩
    | some l =>
      let k := x.c[n.toNat]'n.isLt + 1
      let x := { x with c := x.c.set n.toNat k n.isLt }
      if k < l.2.2 then setInstance s { x with at_ := l.2.1 }
      else setInstance s { x with at_ := x.at_ + 1, loops := x.loops.filter fun l => l.1 ≠ n.toNat }

/-- k of PEER (R260). -/
def peerK (x : Instance) (src : KSrc) (n : BitVec 2) (imm : BitVec 22) : Nat :=
  let c := x.c[n.toNat]'n.isLt
  match src with
  | .imm => imm.toNat
  | .plusC => imm.toNat + c
  | .shiftC => imm.toNat * 2 ^ c

/-- The peers T and F of PEER (R260). -/
def peersOf (mode : PeerMode) (k r n : Nat) : Nat × Nat :=
  let up := (r + k) % n
  let down := (r + n - k % n) % n
  match mode with
  | .plus => (up, down)
  | .minus => (down, up)
  | .xor => (r ^^^ k, r ^^^ k)
  | .abs => (k, k)

/-- PEER (R260, R261). -/
def execPeer (mode : PeerMode) (ksrc : KSrc) (n : BitVec 2) (imm : BitVec 22) (s : State) : Out :=
  withInstance s fun x =>
    let p := peersOf mode (peerK x ksrc n imm) x.rank x.n
    if x.n ≤ p.1 ∨ x.n ≤ p.2 then collFault s x collOperand
    else setInstance s { x with peerT := some p.1, peerF := some p.2, at_ := x.at_ + 1 }

/-- OFFS (R260). -/
def execOffs (slot : BitVec 3) (n : BitVec 2) (stride : BitVec 23) (s : State) : Out :=
  withInstance s fun x => setInstance s { x with
    offs := x.offs.set slot.toNat (x.c[n.toNat]'n.isLt * stride.toNat) slot.isLt
    at_ := x.at_ + 1 }

/-- The word that an instance runs next, or the fault of a word that it cannot decode (R242, R261). -/
def nextWord (s : State) (x : Instance) : Except Trap Instr :=
  match (s.launch.tables.progs.getD x.prog [])[x.at_]? with
  | none => .error ⟨.undef, 0, 0⟩
  | some w =>
    match decodeCollective w with
    | .ok i => .ok i
    | .error _ => .error ⟨.undef, 0, 0⟩

/-! Events -/

/-- The number of a reshard (R266): those of instances are less. -/
def isReshardId (id : Nat) : Bool := 2 ^ 22 ≤ id

/-- Data of another rank arrive for a rank of this device: the engine of the task in focus keeps its own, and what comes for a
reshard of the device (R261, R319). -/
def takeData (s : State) (d : CollData) : State :=
  if (if isReshardId d.inst then d.dest / s.launch.m3 ≠ s.launch.rank4 else d.dest ≠ s.rankAt s.launch.header.ndom) then s
  else
    let s := { s with coll := { s.coll with inbox := s.coll.inbox ++ [d] } }
    match instanceOf s d.inst with
    | some x => pumpInstance s x
    | none => s

/-- A part of the data of an instance or a reshard has waited 100 ms for credit (R358): the device that it goes to. -/
def lateSend (s : State) (id : Nat) : Option Nat :=
  (s.memory.reqs.find? fun r =>
    r.owner = .coll id ∧ isData r.op ∧ ¬ r.sent ∧ r.at_ + 100000000 ≤ s.device.time).map fun r => regionOf r.loc - 1

/-- The receive of an instance that has waited 100 ms for its data, or the send that has waited as long for credit (R358): the
device that it waits for. -/
def lateTransfer (s : State) (x : Instance) : Option Nat :=
  match x.pend.find? fun t =>
      t.asked.isNone ∧ t.src.isSome ∧ (arrived s x.id t.src).isNone ∧ t.since + 100000000 ≤ s.device.time with
  | some t => t.src.map fun f => rankDevice s f.1
  | none => lateSend s x.id

end Sys2Proof.Machine
end

