-- ==== Sys2Proof/Machine/Convert.lean ====
section
/-! DEFINITION. Conversion, quantisation and expansion, the sit-out queue, and the transcendental functions (R195 to R206). -/

namespace Sys2Proof.Machine

/-- A conversion of the elements of a spanned source into elements of d (R195). -/
def spanElems (r : Reg) (t : ElemType) (n : Nat) (s : State) : List Nat :=
  s.elems r (spanRegs (n * t.bits)) t.bits n

/-- The 16-bit elements of one register. -/
def halves (s : State) (r : Reg) : List Nat := s.elems r 1 16 128

/-- Splits a list into runs of n, so many of them. -/
def groupsOf {α : Type} (n : Nat) : Nat → List α → List (List α)
  | 0, _ => []
  | k + 1, xs => xs.take n :: groupsOf n k (xs.drop n)

/-- The entry of VCVT (R195). -/
def runVcvt (o : EOp) : Body := fun e s =>
  let a := spanElems o.a o.src (o.elems o.ty) s
  .ok () (writeMasked o o.ty (fun i => convert o.ty o.src (roundCtl o e s i) (a.getD i 0)) s)
/-- VCVT (R195). -/
def execVcvt (o : EOp) (s : State) : Out := issue s .c (.vcvt o) {} (runVcvt o)

/-- The entry of VQNT (R196, R197). -/
def runVqnt (o : EOp) : Body := fun e s =>
  let n := o.elems o.src
  let act := s.active o.k o.w o.src.bits n
  let xs := ((s.elems o.a o.regs o.src.bits n).zip act).map fun p =>
    if p.2 then unpackFloat o.src p.1 else .fin false 0 0
  let rnds := (List.range n).map fun i => (roundCtl o e s i).rnd
  let rs := ((groupsOf 32 (n / 32) xs).zip (groupsOf 32 (n / 32) rnds)).map fun p =>
    quantBlock o.ty o.rm o.sat o.alt p.2 p.1
  let s1 := s.setElems o.d (spanRegs (n * o.ty.bits)) o.ty.bits (rs.flatMap (·.1))
  let s2 := s1.setElems o.c 1 16 (rs.map (·.2.1))
  .ok () (s2.setFlags (rs.foldl (fun a r => a ||| r.2.2) 0))
/-- VQNT (R196, R197). -/
def execVqnt (o : EOp) (s : State) : Out := issue s .c (.vqnt o) {} (runVqnt o)

/-- The entry of VDQNT (R198). -/
def runVdqnt (o : EOp) : Body := fun _ s =>
  let a := spanElems o.a o.src (o.elems o.ty) s
  let sides := halves s o.c
  .ok () (writeMasked o o.ty (fun i => blockElem o.src o.ty o.alt (sides.getD (i / 32) 0) (a.getD i 0)) s)
/-- VDQNT (R198). -/
def execVdqnt (o : EOp) (s : State) : Out := issue s .c (.vdqnt o) {} (runVdqnt o)

/-- The entry of VCBX (R199). -/
def runVcbx (o : EOp) : Body := fun e s =>
  let a := spanElems o.a o.src (o.elems o.ty) s
  let tab := halves s o.c
  let size := 2 ^ o.src.bits
  .ok () (writeMasked o o.ty (fun i =>
    convert o.ty .bf16 (roundCtl o e s i) (tab.getD (size * (i / 128) + a.getD i 0) 0)) s)
/-- VCBX (R199). -/
def execVcbx (o : EOp) (s : State) : Out := issue s .c (.vcbx o) {} (runVcbx o)

/-- The entry of VPACK (R200). -/
def runVpack (o : EOp) : Body := fun _ s =>
  let n := o.elems o.src
  let act := s.active o.k o.w o.src.bits n
  let a := s.elems o.a o.regs o.src.bits n
  let old := s.elems o.d (spanRegs (n * o.ty.bits)) o.ty.bits n
  let fieldMin : Int := if o.ty.isSigned then -((2 ^ (o.ty.bits - 1) : Nat) : Int) else 0
  let fieldMax : Int := if o.ty.isSigned then (2 ^ (o.ty.bits - 1) : Nat) - 1 else (2 ^ o.ty.bits : Nat) - 1
  let rs := ((a.zip old).zip act).map fun p =>
    if !p.2 then (p.1.2, (0 : Flags))
    else
      let v := unpackInt o.src p.1.1
      if o.sat ∧ v < fieldMin then ((fieldMin % ((2 ^ o.ty.bits : Nat) : Int)).toNat, Flags.sat)
      else if o.sat ∧ fieldMax < v then (fieldMax.toNat, Flags.sat)
      else ((v % ((2 ^ o.ty.bits : Nat) : Int)).toNat, 0)
  let s1 := s.setElems o.d (spanRegs (n * o.ty.bits)) o.ty.bits (rs.map (·.1))
  .ok () (s1.setFlags (rs.foldl (fun a r => a ||| r.2) 0))
/-- VPACK (R200). -/
def execVpack (o : EOp) (s : State) : Out := issue s .c (.vpack o) {} (runVpack o)

/-- The entry of VUNPK (R200). -/
def runVunpk (o : EOp) : Body := fun _ s =>
  let a := spanElems o.a o.src (o.elems o.ty) s
  .ok () (writeMasked o o.ty (fun i =>
    let x := a.getD i 0
    (if o.src.isSigned then packInt o.ty (unpackInt o.src x) else x, 0)) s)
/-- VUNPK (R200). -/
def execVunpk (o : EOp) (s : State) : Out := issue s .c (.vunpk o) {} (runVunpk o)

/-- Lane i of a register. -/
def lane (s : State) (n i : Nat) : Nat := (s.vreg n).toNat / 2 ^ (32 * i) % 2 ^ 32

/-- Appends the active lanes in ascending order while the queue has room; the refused lanes (R201). -/
def sitIn (o : EOp) (path : Nat → Nat) (s : State) : State :=
  let k := s.kreg o.k.toNat
  let (q, refused, _) := (List.range 64).foldl (fun (a : List SitOut × List Nat × Bool) i =>
      if k.getLsbD (4 * i) then
        if a.2.2 ∨ a.1.length ≥ Config.sitOutDepth then (a.1, i :: a.2.1, true)
        else
          (a.1 ++ [⟨path i, lane s o.b.toNat i, o.w, (List.range o.regs).map fun m => lane s (o.a.toNat + m) i⟩],
            a.2.1, false)
      else a) (s.sitout, [], false)
  let mask := (List.range 64).foldl (fun a i => a + (if refused.contains i then 15 * 2 ^ (4 * i) else 0)) 0
  { s with sitout := q }.setKreg o.d.toNat (BitVec.ofNat 256 mask)

/-- The low path field of imm12. -/
def sitPath (o : EOp) : Nat := (o.imm.extractLsb' 0 4).toNat

/-- What a VDRAIN removes: the oldest entries of a path (R201). -/
def drained (o : EOp) (s : State) : List SitOut :=
  let mine := s.sitout.filter fun e => e.path = sitPath o
  if 64 ≤ mine.length then mine.take 64 else if o.alt then mine else []

/-- The queue without the first n entries of a path. -/
def dropPath (path : Nat) : Nat → List SitOut → List SitOut
  | 0, q => q
  | _, [] => []
  | n + 1, e :: q => if e.path = path then dropPath path n q else e :: dropPath path (n + 1) q

/-- The entry of VSIT (R201). -/
def runVsit (o : EOp) : Body := fun _ s => .ok () (sitIn o (fun _ => sitPath o) s)
/-- VSIT (R201). -/
def execVsit (o : EOp) (s : State) : Out := issue s .c (.vsit o) {} (runVsit o)

/-- The entry of VSITC (R201). -/
def runVsitc (o : EOp) : Body := fun _ s => .ok () (sitIn o (fun i => lane s o.c.toNat i % 16) s)
/-- VSITC (R201). -/
def execVsitc (o : EOp) (s : State) : Out := issue s .c (.vsitc o) {} (runVsitc o)

/-- The entry of VDRAIN (R201). -/
def runVdrain (o : EOp) : Body := fun _ s =>
  let es := drained o s
  let idx := (List.range 64).map fun i => match es[i]? with | some e => e.index | none => 2 ^ 32 - 1
  let words (m : Nat) := (List.range 64).map fun i =>
    match es[i]? with | some e => e.words.getD m 0 | none => 0
  let s := { s with sitout := dropPath (sitPath o) es.length s.sitout }
  let s := (List.range o.regs).foldl (fun s m => s.setVreg (o.d.toNat + m) (BitVec.ofNat 2048
    (State.packElems 32 (words m)))) s
  .ok () (s.setElems o.b 1 32 idx)
/-- VDRAIN (R201). -/
def execVdrain (o : EOp) (s : State) : Out := issue s .c (.vdrain o) {} (runVdrain o)

/-- The entry of VSITCLR (R201). -/
def runVsitclr (o : EOp) : Body := fun _ s =>
  .ok () { s with sitout := if o.alt then [] else s.sitout.filter fun e => e.path ≠ sitPath o }
/-- VSITCLR (R201). -/
def execVsitclr (o : EOp) (s : State) : Out := issue s .c (.vsitclr o) {} (runVsitclr o)

/-- The integer nearest to a ÷ b, even on a tie (R203). -/
def nearDiv (a b : Nat) : Nat :=
  let q := a / b
  let r := a % b
  if 2 * r > b ∨ (2 * r = b ∧ q % 2 = 1) then q + 1 else q

/-- x >> k for every integer (R203). -/
def ishr (x : Int) (k : Nat) : Int := x / ((2 ^ k : Nat) : Int)

/-- T3[j] = Near(2^30 * 2^(j/64)) (R205). -/
def traT3 : List Int :=
  [1073741824, 1085434106, 1097253708, 1109202018, 1121280436, 1133490379, 1145833280, 1158310587, 1170923762,
   1183674286, 1196563654, 1209593378, 1222764986, 1236080024, 1249540052, 1263146652, 1276901417, 1290805962,
   1304861917, 1319070932, 1333434672, 1347954824, 1362633090, 1377471191, 1392470869, 1407633882, 1422962010,
   1438457051, 1454120821, 1469955159, 1485961921, 1502142985, 1518500250] ++    [1535035634, 1551751076,
   1568648537, 1585730000, 1602997467, 1620452965, 1638098541, 1655936265, 1673968228, 1692196547, 1710623359,
   1729250827, 1748081133, 1767116489, 1786359126, 1805811301, 1825475297, 1845353420, 1865448001, 1885761398,
   1906295993, 1927054196, 1948038440, 1969251188, 1990694927, 2012372174, 2034285470, 2056437387, 2078830522,
   2101467502, 2124350982]

/-- L2[j] = Near(2^32 * log2(2^30 / L1[j])) with L1[j] = Near(2^37 / (128 + j)) (R206). -/
def traL2 : List Int :=
  [0, 48220695, 96069026, 143550696, 190671291, 237436253, 283850911, 329920477, 375650044, 421044590, 466108995,
   510848020, 555266327, 599368494, 643158981, 686642161, 729822323, 772703655, 815290272, 857586192, 899595352,
   941321626, 982768791, 1023940558, 1064840564, 1105472364, 1145839466, 1185945288, 1225793193, 1265386481,
   1304728379, 1343822059, 1382670641] ++    [1421277170, 1459644646, 1497776015, 1535674168, 1573341933,
   1610782091, 1647997390, 1684990499, 1721764071, 1758320683, 1794662886, 1830793181, 1866714022, 1902427828,
   1937936972, 1973243775, 2008350541, 2043259528, 2077972937, 2112492959, 2146821735, 2180961373, 2214913937,
   2248681479, 2282265995, 2315669458, 2348893816, 2381940982, 2414812825, 2447511201, 2480037929, 2512394807,
   2544583599] ++    [2576606036, 2608463836, 2640158680, 2671692224, 2703066098, 2734281929, 2765341282,
   2796245721, 2826996790, 2857596002, 2888044854, 2918344809, 2948497311, 2978503802, 3008365686, 3038084341,
   3067661140, 3097097430, 3126394550, 3155553788, 3184576461, 3213463824, 3242217136, 3270837634, 3299326552,
   3327685082, 3355914414, 3384015726, 3411990165, 3439838878, 3467562982, 3495163604, 3522641823] ++
   [3549998720, 3577235367, 3604352830, 3631352121, 3658234273, 3685000317, 3711651230, 3738188006, 3764611615,
   3790923030, 3817123189, 3843213034, 3869193475, 3895065451, 3920829844, 3946487551, 3972039459, 3997486431,
   4022829319, 4048068974, 4073206244, 4098241942, 4123176897, 4148011916, 4172747787, 4197385305, 4221925258,
   4246368396, 4270715493, 4294967296]

/-- C1, C2, C3 = Near(2^30 ln 2), Near(2^30 (ln 2)^2 / 2), Near(2^30 (ln 2)^3 / 6) (R205). -/
def traC : List Int := [744261118, 257941248, 59597083]

/-- B1 to B4 (R206). -/
def traB : List Int :=
  [1663314137230540311, -831657068615270156, 554438045743513437,
   -415828534307635078]

/-- L1[j] (R206). -/
def traL1 (j : Nat) : Nat := nearDiv (2 ^ 37) (128 + j)

/-- T1[j] (R204). -/
def traT1 (j : Nat) : Nat := nearDiv (2 ^ 40) (257 + 2 * j)

/-- T2[j] = Near(2^32 / sqrt(g)): with 256 g = p, the nearest integer to the square root of 2^72 / p (R204). -/
def traT2 (j : Nat) : Nat :=
  let p := (257 + 2 * (j % 128)) * (1 + j / 128)
  let r := isqrt (2 ^ 72 / p) 36
  if p * (2 * r + 1) * (2 * r + 1) < 4 * 2 ^ 72 then r + 1 else r

/-- E and M of a finite non-zero magnitude m * 2^e: 2^23 ≤ M < 2^24 and the magnitude is M * 2^(E - 23) (R203). -/
def normalise (m : Nat) (e : Int) : Int × Nat :=
  let l := Nat.log2 m
  (e + l, if l ≤ 23 then m * 2 ^ (23 - l) else m / 2 ^ (l - 23))

/-- VRCP's value of a finite non-zero input (R204). -/
def rcpAlg (neg : Bool) (m : Nat) (e : Int) : Exact :=
  let (E, M) := normalise m e
  let newton (y : Nat) : Nat := y * (2 ^ 33 - M * y / 2 ^ 23) / 2 ^ 32
  .num neg (newton (newton (traT1 (M / 2 ^ 16 % 128)))) (-32 - E) false

/-- VRSQ's value of a positive input (R204). -/
def rsqAlg (m : Nat) (e : Int) : Exact :=
  let (E, M) := normalise m e
  let odd := E % 2 ≠ 0
  let Mp := if odd then 2 * M else M
  let Ep := if odd then E - 1 else E
  let j := (if odd then 128 else 0) + M / 2 ^ 16 % 128
  let newton (y : Nat) : Nat := y * (3 * 2 ^ 32 - Mp * (y * y / 2 ^ 32) / 2 ^ 23) / 2 ^ 33
  .num false (newton (newton (traT2 j))) (-32 - Ep / 2) false

/-- The whole part of x * 2^30 for x clamped to [-160, 129] (R205). -/
def expFixed (neg : Bool) (m : Nat) (e : Int) : Int :=
  let sh := e + 30
  let k := if 0 ≤ sh then signed neg (m * 2 ^ (min sh.toNat 64)) else ishr (signed neg m) (-sh).toNat
  max (-160 * 2 ^ 30) (min (129 * 2 ^ 30) k)

/-- VEXP2's value of a finite input (R205). -/
def exp2Alg (neg : Bool) (m : Nat) (e : Int) : Exact :=
  let K := expFixed neg m e
  let n := ishr K 30
  let f := (K - n * 2 ^ 30).toNat
  let j := f / 2 ^ 24
  let q : Int := (f % 2 ^ 24 : Nat)
  let p := ishr (traC.getD 2 0 * q) 30
  let p := ishr ((traC.getD 1 0 + p) * q) 30
  let p := ishr ((traC.getD 0 0 + p) * q) 30
  let t := traT3.getD j 0
  .num false (t + ishr (t * p) 30).toNat (n - 30) false

/-- VLOG2's value of a positive input (R206). -/
def log2Alg (m : Nat) (e : Int) : Exact :=
  let (E, M) := normalise m e
  let j := (M + 2 ^ 15) / 2 ^ 16 - 128
  let z : Int := (M * traL1 j : Nat) - (2 ^ 53 : Nat)
  let h := ishr (traB.getD 3 0 * z) 53
  let h := ishr ((traB.getD 2 0 + h) * z) 53
  let h := ishr ((traB.getD 1 0 + h) * z) 53
  let h := ishr ((traB.getD 0 0 + h) * z) 53
  let v := E * 2 ^ 60 + traL2.getD j 0 * 2 ^ 28 + h
  .num (v < 0) v.natAbs (-60) false

/-- A zero of a sign. -/
def exactZero (neg : Bool) : Exact := .num neg 0 0 false

/-- VEXP2 with its special inputs (R203). -/
def exp2Of (x : FVal) : Exact × Flags :=
  match x with
  | .nan => (.nan, 0)
  | .inf n => (if n then exactZero false else .inf false, 0)
  | .fin n m e => (if m = 0 then .num false 1 0 false else exp2Alg n m e, 0)

/-- VLOG2 with its special inputs (R203). -/
def log2Of (x : FVal) : Exact × Flags :=
  match x with
  | .nan => (.nan, 0)
  | .inf n => if n then (.nan, Flags.nv) else (.inf false, 0)
  | .fin n m e => if m = 0 then (.inf true, Flags.dz) else if n then (.nan, Flags.nv) else (log2Alg m e, 0)

/-- VRCP with its special inputs (R203). -/
def rcpOf (x : FVal) : Exact × Flags :=
  match x with
  | .nan => (.nan, 0)
  | .inf n => (exactZero n, 0)
  | .fin n m e => if m = 0 then (.inf n, Flags.dz) else (rcpAlg n m e, 0)

/-- VRSQ with its special inputs (R203). -/
def rsqOf (x : FVal) : Exact × Flags :=
  match x with
  | .nan => (.nan, 0)
  | .inf n => if n then (.nan, Flags.nv) else (exactZero false, 0)
  | .fin n m e => if m = 0 then (.inf n, Flags.dz) else if n then (.nan, Flags.nv) else (rsqAlg m e, 0)

/-- A transcendental function of each active element: one rounding of the algorithm's value (R203). -/
def traOp (o : EOp) (f : FVal → Exact × Flags) : Body := fun e s =>
  let a := srcElems o o.a o.ty s
  .ok () (writeMasked o o.ty (fun i =>
    let r := f (unpackFloat o.ty (a.getD i 0))
    let d := deliver o.ty (roundCtl o e s i) r.1
    (d.1, r.2 ||| d.2)) s)

/-- The entry of VEXP2 (R205). -/
def runVexp2 (o : EOp) : Body := traOp o exp2Of
/-- VEXP2 (R205). -/
def execVexp2 (o : EOp) (s : State) : Out := issue s .c (.vexp2 o) {} (runVexp2 o)

/-- The entry of VLOG2 (R206). -/
def runVlog2 (o : EOp) : Body := traOp o log2Of
/-- VLOG2 (R206). -/
def execVlog2 (o : EOp) (s : State) : Out := issue s .c (.vlog2 o) {} (runVlog2 o)

/-- The entry of VRCP (R204). -/
def runVrcp (o : EOp) : Body := traOp o rcpOf
/-- VRCP (R204). -/
def execVrcp (o : EOp) (s : State) : Out := issue s .c (.vrcp o) {} (runVrcp o)

/-- The entry of VRSQ (R204). -/
def runVrsq (o : EOp) : Body := traOp o rsqOf
/-- VRSQ (R204). -/
def execVrsq (o : EOp) (s : State) : Out := issue s .c (.vrsq o) {} (runVrsq o)

end Sys2Proof.Machine
end

