-- ==== Sys2Proof/Machine/Ciphers.lean ====
section
/-! DEFINITION. The algorithms that R20 names, by their published definitions: AES-256-GCM (R287), XMSS with SHAKE256 and a tree
height of 20 (R285, R304, R305, R308), and ML-KEM-1024 (R307). PRESUMED, log entry 6. -/

namespace Sys2Proof.Machine

/-! AES-256 -/

/-- The product by x in the field of bytes. -/
def byteDouble (a : Byte) : Byte := (a <<< 1) ^^^ (if a.getLsbD 7 then 0x1B else 0)

/-- The product of two bytes in the field. -/
def byteMul (a b : Byte) : Byte :=
  ((List.range 8).foldl (fun (p : Byte × Byte) i => (if b.getLsbD i then p.1 ^^^ p.2 else p.1, byteDouble p.2)) (0, a)).1

/-- The inverse of a byte in the field, a^254, and 0 for 0: what is squared and multiplied by `a` six times is squared last. -/
def byteInverse (a : Byte) : Byte :=
  let r := (List.range 6).foldl (fun r _ => byteMul (byteMul r r) a) a
  byteMul r r

/-- The byte substitution: the inverse, and the affine map over it. -/
def subByte (a : Byte) : Byte :=
  let b := byteInverse a
  (List.range 4).foldl (fun r i => r ^^^ b.rotateLeft (i + 1)) (b ^^^ 0x63)

/-- Bytes added in the field, one by one. -/
def xorBytes (a b : List Byte) : List Byte := List.zipWith (· ^^^ ·) a b

/-- The next word of the key schedule, after those before it. -/
def nextKeyWord (ws : List (List Byte)) : List Byte :=
  let i := ws.length
  let w := ws.getD (i - 1) []
  let w :=
    if i % 8 = 0 then xorBytes ((w.drop 1 ++ w.take 1).map subByte) [(1 : Byte) <<< (i / 8 - 1), 0, 0, 0]
    else if i % 8 = 4 then w.map subByte
    else w
  xorBytes (ws.getD (i - 8) []) w

/-- The 60 words of the key schedule of 32 key bytes. -/
def keySchedule (key : List Byte) : List (List Byte) :=
  (List.range 52).foldl (fun ws _ => ws ++ [nextKeyWord ws]) ((List.range 8).map fun i => (key.drop (4 * i)).take 4)

/-- The substitution of a block with the turn of its rows: row r of column c is that of column c + r. -/
def subShift (b : List Byte) : List Byte :=
  (List.range 16).map fun i => subByte (b.getD ((i + 4 * (i % 4)) % 16) 0)

/-- The mix of the columns: 2, 3, 1 and 1 times a byte and those after it in its column. -/
def mixColumns (b : List Byte) : List Byte :=
  (List.range 16).map fun i =>
    let at_ (k : Nat) : Byte := b.getD (i / 4 * 4 + (i + k) % 4) 0
    byteDouble (at_ 0 ^^^ at_ 1) ^^^ at_ 1 ^^^ at_ 2 ^^^ at_ 3

/-- AES-256 of one block of 16 bytes. -/
def aesBlock (key block : List Byte) : List Byte :=
  let ks := keySchedule key
  let roundKey (r : Nat) : List Byte := ((ks.drop (4 * r)).take 4).flatten
  let b := (List.range 13).foldl (fun b r => xorBytes (mixColumns (subShift b)) (roundKey (r + 1))) (xorBytes block (roundKey 0))
  xorBytes (subShift b) (roundKey 14)

/-! GCM -/

/-- A block as the field element of GHASH: its first bit is the coefficient of 1. -/
abbrev GBlock := BitVec 128

/-- The block of 16 bytes, the first one highest; missing bytes are 0. -/
def gblock (bs : List Byte) : GBlock := BitVec.ofNat 128 (bytesToNat (bs ++ List.replicate (16 - bs.length) 0).reverse)

/-- The bytes of a block. -/
def gbytes (b : GBlock) : List Byte := (natToBytes 16 b.toNat).reverse

/-- The product in the field of GHASH. -/
def gmul (x y : GBlock) : GBlock :=
  ((List.range 128).foldl (fun (p : GBlock × GBlock) i =>
    (if x.getMsbD i then p.1 ^^^ p.2 else p.1, (p.2 >>> 1) ^^^ (if p.2.getLsbD 0 then 0xE1#128 <<< 120 else 0))) (0, y)).1

/-- The blocks of 16 bytes of a text, the last filled up with zeros. -/
def gblocks (bs : List Byte) : List GBlock := (List.range ((bs.length + 15) / 16)).map fun i => gblock ((bs.drop (16 * i)).take 16)

/-- A text under the key stream that follows a counter block (counter mode). -/
def gctr (key : List Byte) (ctr : GBlock) (text : List Byte) : List Byte :=
  let stream (i : Nat) : List Byte :=
    aesBlock key (gbytes (ctr.extractLsb' 32 96 ++ (ctr.extractLsb' 0 32 + BitVec.ofNat 32 i)))
  xorBytes text ((List.range ((text.length + 15) / 16)).flatMap stream)

/-- The first counter block of a nonce. -/
def gcounter (nonce : BitVec 96) : GBlock := nonce ++ 1#32

/-- The tag of a ciphertext and its additional data. -/
def gcmTag (key : List Byte) (nonce : BitVec 96) (aad text : List Byte) : GBlock :=
  let h := gblock (aesBlock key (gbytes 0))
  let bits (bs : List Byte) : BitVec 64 := BitVec.ofNat 64 (8 * bs.length)
  let sum := (gblocks aad ++ gblocks text ++ [bits aad ++ bits text]).foldl (fun y x => gmul (y ^^^ x) h) 0
  sum ^^^ gblock (aesBlock key (gbytes (gcounter nonce)))

/-- The tag as a packet carries it, its first byte lowest. -/
def tagWord (t : GBlock) : BitVec 128 := BitVec.ofNat 128 (bytesToNat (gbytes t))

/-- AES-256-GCM of a payload: key, nonce, additional data, plaintext; the ciphertext and its tag (R287). -/
def gcmSeal (key : BitVec 256) (nonce : BitVec 96) (aad text : List Byte) : List Byte × BitVec 128 :=
  let k := natToBytes 32 key.toNat
  let out := gctr k (gcounter nonce + 1) text
  (out, tagWord (gcmTag k nonce aad out))

/-- AES-256-GCM opening: key, nonce, additional data, ciphertext, tag; none where the tag is another (R287). -/
def gcmOpen (key : BitVec 256) (nonce : BitVec 96) (aad text : List Byte) (tag : BitVec 128) : Option (List Byte) :=
  let k := natToBytes 32 key.toNat
  if tagWord (gcmTag k nonce aad text) = tag then some (gctr k (gcounter nonce + 1) text) else none

/-! XMSS with SHAKE256 -/

/-- The big-endian bytes of a number. -/
def natToBytesBe (n v : Nat) : List Byte := (natToBytes n v).reverse

/-- One of the scheme's hash functions: its number, its key and its text. -/
def xmssHash (number : Nat) (key text : List Byte) : List Byte := shake256 (natToBytesBe 32 number ++ key ++ text) 32

/-- The bytes of a hash address in the one tree there is: its type and its last four words. -/
def xmssAddr (kind a b c d : Nat) : List Byte := natToBytesBe 12 0 ++ [kind, a, b, c, d].flatMap (natToBytesBe 4)

/-- A bitmask or a key that the public seed gives at an address. -/
def xmssMask (seed addr : List Byte) : List Byte := xmssHash 3 seed addr

/-- A chain of a one-time key goes on from step i, so many steps. -/
def xmssChain (seed : List Byte) (leaf chain : Nat) : (steps : Nat) → (i : Nat) → List Byte → List Byte
  | 0, _, x => x
  | n + 1, i, x =>
    let at_ (m : Nat) : List Byte := xmssMask seed (xmssAddr 0 leaf chain i m)
    xmssChain seed leaf chain n (i + 1) (xmssHash 0 (at_ 0) (xorBytes x (at_ 1)))

/-- The parent of two nodes of a tree of that kind, at its place in it. -/
def xmssParent (seed : List Byte) (kind a height index : Nat) (l r : List Byte) : List Byte :=
  let at_ (m : Nat) : List Byte := xmssMask seed (xmssAddr kind a height index m)
  xmssHash 1 (at_ 0) (xorBytes l (at_ 1) ++ xorBytes r (at_ 2))

/-- The 67 digits to base 16 of a digest and of its checksum. -/
def xmssDigits (digest : List Byte) : List Nat :=
  let ds := digest.flatMap fun b => [b.toNat / 16, b.toNat % 16]
  let sum := (ds.map (15 - ·)).sum
  ds ++ [sum / 256, sum / 16 % 16, sum % 16]

/-- One level of the tree over a one-time public key: a node without a partner goes up as it is. -/
def ltreeLevel (seed : List Byte) (leaf height : Nat) (ns : List (List Byte)) : List (List Byte) :=
  (List.range ((ns.length + 1) / 2)).map fun i =>
    if 2 * i + 1 < ns.length then xmssParent seed 1 leaf height i (ns.getD (2 * i) []) (ns.getD (2 * i + 1) []) else ns.getD (2 * i) []

/-- The leaf that a one-time public key makes. -/
def xmssLeaf (seed : List Byte) (leaf : Nat) (pk : List (List Byte)) : List Byte :=
  ((List.range 7).foldl (fun ns h => ltreeLevel seed leaf h ns) pk).headD []

/-- The part of a signature that stands at a place, in units of 32 bytes. -/
def sigPart (sig : List Byte) (i : Nat) : List Byte := (sig.drop (4 + 32 * i)).take 32

/-- The digest that a leaf signs. -/
def xmssDigest (r root : List Byte) (leaf : Nat) (msg : List Byte) : List Byte :=
  xmssHash 2 (r ++ root ++ natToBytesBe 32 leaf) msg

/-- The root that a signature leads to: its leaf, then up by the path of the 20 levels. -/
def xmssRoot (seed : List Byte) (digest sig : List Byte) : List Byte :=
  let leaf := bytesToNat (sig.take 4).reverse
  let pk := (xmssDigits digest).zipIdx.map fun d => xmssChain seed leaf d.2 (15 - d.1) d.1 (sigPart sig (1 + d.2))
  (List.range 20).foldl (fun n h =>
    let other := sigPart sig (68 + h)
    if leaf / 2 ^ h % 2 = 0 then xmssParent seed 2 0 h (leaf / 2 ^ (h + 1)) n other
    else xmssParent seed 2 0 h (leaf / 2 ^ (h + 1)) other n) (xmssLeaf seed leaf pk)

/-- XMSS verification (R285, R304, R308): a public key is its root and its seed; the signature is a leaf number below 2^20, the
random part, 67 chain values and the 20 nodes of the path. -/
def xmssVerify (key msg sig : List Byte) : Bool :=
  let leaf := bytesToNat (sig.take 4).reverse
  let root := key.take 32
  key.length = 64 ∧ sig.length = 4 + 32 * 88 ∧ leaf < 2 ^ 20
    ∧ xmssRoot (key.drop 32) (xmssDigest (sigPart sig 0) root leaf msg) sig = root

/-- The start of a chain of the device's own one-time key. -/
def ownChain (leaf chain : Nat) : List Byte :=
  xmssHash 4 Config.signSecret (Config.signSeed ++ xmssAddr 0 leaf chain 0 0)

/-- A node of the device's own tree. -/
def ownNode : (height : Nat) → (index : Nat) → List Byte
  | 0, i => xmssLeaf Config.signSeed i ((List.range 67).map fun c => xmssChain Config.signSeed i c 15 0 (ownChain i c))
  | h + 1, i => xmssParent Config.signSeed 2 0 h i (ownNode h (2 * i)) (ownNode h (2 * i + 1))

/-- The device's own XMSS signature of a message with one leaf (R285, R305). -/
def xmssSign (leaf : Nat) (msg : List Byte) : List Byte :=
  let r := xmssHash 3 Config.signRandom (natToBytesBe 32 leaf)
  let ds := xmssDigits (xmssDigest r (ownNode 20 0) leaf msg)
  natToBytesBe 4 leaf ++ r ++ (ds.zipIdx.flatMap fun d => xmssChain Config.signSeed leaf d.2 d.1 0 (ownChain leaf d.2))
    ++ (List.range 20).flatMap fun h => ownNode h (leaf / 2 ^ h ^^^ 1)

/-! ML-KEM-1024 -/

/-- The modulus of ML-KEM. -/
def kemQ : Nat := 3329

/-- A polynomial of 256 coefficients. -/
abbrev Poly := List Nat

/-- Two polynomials added. -/
def polyAdd (f g : Poly) : Poly := List.zipWith (fun a b => (a + b) % kemQ) f g

/-- The root of unity of slot i of the transform: 17 to twice the seven bits of i in reverse, and one. -/
def slotExp (i : Nat) : Nat := 2 * (List.range 7).foldl (fun r k => 2 * r + i / 2 ^ k % 2) 0 + 1

/-- A power of 17, which has order 256. -/
def zeta (e : Nat) : Nat := 17 ^ (e % 256) % kemQ

/-- The transform: slot i holds the remainder by X² less its root, its two coefficients as sums over those of f. -/
def ntt (f : Poly) : Poly :=
  (List.range 256).map fun p =>
    ((List.range 128).map fun j => f.getD (2 * j + p % 2) 0 * zeta (slotExp (p / 2) * j)).sum % kemQ

/-- The transform back: the same sums over the inverse roots, and the division by 128. -/
def nttBack (f : Poly) : Poly :=
  (List.range 256).map fun p =>
    3303 * ((List.range 128).map fun i => f.getD (2 * i + p % 2) 0 * zeta (256 - slotExp i * (p / 2) % 256)).sum % kemQ

/-- The product of two transforms, slot by slot. -/
def nttMul (f g : Poly) : Poly :=
  (List.range 256).map fun p =>
    let a (k : Nat) : Nat := f.getD (p / 2 * 2 + k) 0
    let b (k : Nat) : Nat := g.getD (p / 2 * 2 + k) 0
    (if p % 2 = 0 then a 0 * b 0 + a 1 * b 1 * zeta (slotExp (p / 2)) else a 0 * b 1 + a 1 * b 0) % kemQ

/-- The sum of the products of two vectors of transforms. -/
def nttDot (fs gs : List Poly) : Poly := (List.zipWith nttMul fs gs).foldl polyAdd (List.replicate 256 0)

/-- A polynomial of the public matrix, from the bytes of SHAKE128 that are below the modulus, 12 bits each. -/
def sampleUniform (rho : List Byte) (i j : Nat) : Poly :=
  let bs := sponge 168 0x1F (rho ++ [BitVec.ofNat 8 j, BitVec.ofNat 8 i]) 840
  let v := (List.range 280).flatMap fun k =>
    let w := bytesToNat ((bs.drop (3 * k)).take 3)
    [w % 4096, w / 4096]
  (v.filter (· < kemQ)).take 256

/-- A small polynomial: each coefficient is two bits less two bits of SHAKE256. -/
def sampleSmall (coins : List Byte) (n : Nat) : Poly :=
  let v := bytesToNat (shake256 (coins ++ [BitVec.ofNat 8 n]) 128)
  let bit (k : Nat) : Nat := v / 2 ^ k % 2
  (List.range 256).map fun i => (bit (4 * i) + bit (4 * i + 1) + kemQ - bit (4 * i + 2) - bit (4 * i + 3)) % kemQ

/-- A coefficient in d bits, and back. -/
def kemCompress (d x : Nat) : Nat := (2 ^ (d + 1) * x + kemQ) / (2 * kemQ) % 2 ^ d
def kemExpand (d y : Nat) : Nat := (2 * kemQ * y + 2 ^ d) / 2 ^ (d + 1)

/-- A polynomial as bytes, d bits for each coefficient, and back. -/
def polyBytes (d : Nat) (f : Poly) : List Byte := natToBytes (32 * d) (f.foldr (fun a r => a + 2 ^ d * r) 0)
def bytesPoly (d : Nat) (bs : List Byte) : Poly := (List.range 256).map fun i => bytesToNat bs / 2 ^ (d * i) % 2 ^ d

/-- The polynomials of a text of so many bytes each. -/
def polysOf (n d : Nat) (bs : List Byte) : List Poly := (List.range n).map fun i => bytesPoly d ((bs.drop (32 * d * i)).take (32 * d))

/-- The encryption of 32 bytes under an encapsulation key with given coins. -/
def kemEncrypt (ek msg coins : List Byte) : List Byte :=
  let rho := ek.drop 1536
  let t := (polysOf 4 12 ek).map fun f => f.map (· % kemQ)
  let y := (List.range 4).map fun i => ntt (sampleSmall coins i)
  let u := (List.range 4).map fun i =>
    polyAdd (nttBack (nttDot ((List.range 4).map fun j => sampleUniform rho j i) y)) (sampleSmall coins (4 + i))
  let v := polyAdd (polyAdd (nttBack (nttDot t y)) (sampleSmall coins 8)) ((bytesPoly 1 msg).map (kemExpand 1))
  (u.flatMap fun f => polyBytes 11 (f.map (kemCompress 11))) ++ polyBytes 5 (v.map (kemCompress 5))

/-- The decryption with the secret polynomials of a decapsulation key. -/
def kemDecrypt (dk text : List Byte) : List Byte :=
  let u := (polysOf 4 11 text).map fun f => ntt (f.map (kemExpand 11))
  let v := (bytesPoly 5 (text.drop 1408)).map (kemExpand 5)
  let p := nttBack (nttDot (polysOf 4 12 dk) u)
  polyBytes 1 ((List.zipWith (fun a b => (a + kemQ - b) % kemQ) v p).map (kemCompress 1))

/-- The coins of the encryption of a secret: the second half of SHA3-512 over it and SHA3-256 of the key. -/
def kemCoins (secret ek : List Byte) : List Byte := (sponge 72 0x06 (secret ++ sponge 136 0x06 ek 32) 64).drop 32

/-- ML-KEM-1024 encapsulation of a secret for a device, under the key of its attestation report (R307). -/
def mlkemEncapsulate (dev : Nat) (secret : List Byte) : List Byte :=
  kemEncrypt (Config.kemKey dev) secret (kemCoins secret (Config.kemKey dev))

/-- ML-KEM-1024 decapsulation with the device's key: the secret, and none where the ciphertext is not that of the secret (R307). -/
def mlkemDecapsulate (text : List Byte) : Option (List Byte) :=
  let dk := Config.kemSecret
  let ek := (dk.drop 1536).take 1568
  let secret := kemDecrypt dk text
  if text.length = 1568 ∧ kemEncrypt ek secret (kemCoins secret ek) = text then some secret else none

end Sys2Proof.Machine
end

