-- ==== Sys2Proof/Machine/Matrix.lean ====
section
/-! DEFINITION. Format words, the lease, weight loads, products, accumulators and GEMVH (R131, R134, R181, R213 to R228,
R348). -/

namespace Sys2Proof.Machine

/-- The operand classes (R214): type codes, depth of the array. -/
inductive MatClass where
  | half | byte | nibble | int
  deriving DecidableEq

/-- The class of a type, if it has one (R214). -/
def matClass : ElemType → Option MatClass
  | .bf16 | .f16 => some .half
  | .e4m3 | .e5m2 => some .byte
  | .e2m1 | .cb3 | .cb4 => some .nibble
  | .i8 | .n8 => some .int
  | _ => none

/-- K of the array for a class (R214). -/
def classK : MatClass → Nat
  | .half => 64 | .byte => 128 | .nibble => 256 | .int => 128

/-- Fields of a format word (R213). -/
structure FormatWord where
  atype : ElemType
  btype : ElemType
  asc   : Bool
  bsc   : Bool
  b16   : Bool
  spec  : Bool
  azs   : Bool
  bzs   : Bool
  tsa   : Nat
  tsb   : Nat
  bad   : Bool

/-- Reads a format word; `bad` says that a reserved bit is set. -/
def FormatWord.ofBits (w : BitVec 128) : FormatWord :=
  { atype := ElemType.ofCode (w.extractLsb' 0 4), btype := ElemType.ofCode (w.extractLsb' 4 4)
    asc := w.getLsbD 8, bsc := w.getLsbD 9, b16 := w.getLsbD 10, spec := w.getLsbD 11
    azs := w.getLsbD 12, bzs := w.getLsbD 13
    tsa := (w.extractLsb' 32 32).toNat, tsb := (w.extractLsb' 64 32).toNat
    bad := w.extractLsb' 14 18 ≠ 0 ∨ w.extractLsb' 96 32 ≠ 0 }

/-- The type may be block-scaled (R214). -/
def scalable (t : ElemType) : Bool := t = .e4m3 ∨ t = .e5m2 ∨ t = .e2m1

/-- The word is bad for MLDB (R214). -/
def badForLoad (f : FormatWord) : Bool :=
  f.bad ∨ (matClass f.btype).isNone ∨ (f.bsc ∧ ¬ scalable f.btype) ∨ (f.spec ∧ ¬ (f.btype = .e2m1 ∧ f.bsc))

/-- The word is bad for MMA (R214); `b` is the word of the weight buffer where the core owns it (DEDUCED, log entry 16). -/
def badForProduct (f : FormatWord) (b : Option FormatWord) : Bool :=
  let scaledB : Bool := match b with | some b => b.btype = .e2m1 ∧ b.bsc | none => true
  f.bad ∨ (matClass f.atype).isNone ∨ (f.asc ∧ ¬ scalable f.atype)
    ∨ (f.spec ∧ ¬ ((f.atype = .e2m1 ∧ f.asc) ∨ scaledB))

/-- Block size of scaled operands (R127, R213). -/
def blockSize (f : FormatWord) : Nat := if f.b16 then 16 else 32

/-- K is admitted for an operand form (R220). -/
def depthOk (t : ElemType) (sc : Bool) (bl k : Nat) : Bool :=
  match matClass t with
  | none => false
  | some c =>
    if t.isCodebook then k = 128 ∨ k = 256
    else if sc then bl ≤ k ∧ k % bl = 0 ∧ k ≤ classK c
    else 16 ≤ k ∧ k % 16 = 0 ∧ k ≤ classK c

/-- SZ(t, K) (R220). -/
def lineBytes (t : ElemType) (sc : Bool) (bl k : Nat) : Nat :=
  if t.isCodebook then k / 128 * (if t = .cb3 then 64 else 96)
  else if sc then k / bl * (bl * t.bits / 8 + 2)
  else k * t.bits / 8

/-- The stride is admitted (R220). -/
def strideOk (st sz : Nat) (zs : Bool) : Bool := sz ≤ st ∧ st % 4 = 0 ∧ (zs → st % 128 = 0)

/-- Expands zero-suppressed records from a scratchpad address, one 128-B line each (R131). -/
def expandLines (s : State) : (lines : Nat) → (a : Nat) → Res (List Byte)
  | 0, _ => .ok [] s
  | n + 1, a =>
    match s.readScr a 4 with
    | .ok pw _ =>
      let p := bytesToNat pw
      let bits : List Bool := (List.range 32).map fun i => p / 2 ^ i % 2 = 1
      let cnt := (bits.filter id).length
      match s.readScr (a + 4) (4 * cnt) with
      | .ok us _ =>
        let line := (bits.foldl (fun (acc : List Byte × List Byte) b =>
          if b then (acc.1 ++ acc.2.take 4, acc.2.drop 4) else (acc.1 ++ [0, 0, 0, 0], acc.2)) ([], us)).1
        match expandLines s n (a + 4 + 4 * cnt) with
        | .ok r s => .ok (line ++ r) s
        | x => x
      | x => x
    | x => x

/-- The rows of an operand, `n` of them of `sz` bytes at a stride, or from the zero-suppressed stream (R220). -/
def operandBytes (s : State) (a n sz st : Nat) (zs : Bool) : Res (List Byte) :=
  if zs then
    (expandLines s (((n - 1) * st + sz + 127) / 128) a).bind fun bs s =>
      .ok ((List.range n).flatMap fun i => (bs.drop (i * st)).take sz) s
  else
    ((List.range n).map fun i => (a + i * st) % 2 ^ 32).foldl (fun r x =>
      r.bind fun acc s => (s.readScr x sz).bind fun bs s => .ok (acc ++ bs) s) (.ok [] s)

/-- The block-by-block values of one row or column: for each block its scale, or none for a NaN block, and its elements
(R127 to R130, R134). The elements of an unscaled operand that are left over make a shorter last block, and B16 counts for its
blocks too (DESIGN CHOICE, log entry 56). -/
def rowBlocks (t : ElemType) (sc spec : Bool) (bl k : Nat) (bs : List Byte) : List (Option FVal × List FVal) :=
  if t.isCodebook then
    let per := if t = .cb3 then 64 else 96
    let ix := if t = .cb3 then 48 else 64
    let vals := (List.range (k / 128)).flatMap fun b =>
      let blk := (bs.drop (b * per)).take per
      let codes := bytesToNat (blk.take ix)
      let table := blk.drop ix
      (List.range 128).map fun i =>
        let j := codes / 2 ^ (t.bits * i) % 2 ^ t.bits
        unpackFloat .bf16 (bytesToNat ((table.drop (2 * j)).take 2))
    (List.range ((k + bl - 1) / bl)).map fun b => (some (.fin false 1 0), (vals.drop (b * bl)).take bl)
  else if sc then
    let cb := bl * t.bits / 8
    (List.range (k / bl)).map fun b =>
      let blk := (bs.drop (b * (cb + 2))).take (cb + 2)
      let side := bytesToNat (blk.drop cb)
      let codes := bytesToNat (blk.take cb)
      (blockScale side, (List.range bl).map fun i => blockCode t spec side (codes / 2 ^ (t.bits * i) % 2 ^ t.bits))
  else
    let codes := bytesToNat bs
    (List.range ((k + bl - 1) / bl)).map fun b =>
      (some (.fin false 1 0),
       (List.range (min bl (k - b * bl))).map fun i => readNum t (codes / 2 ^ (t.bits * (b * bl + i)) % 2 ^ t.bits))

/-- The exact sum of products of two blocks (R134); a sum of nothing but −0 is +0 (DESIGN CHOICE, log entry 56). -/
def blockDot (x y : List FVal) : FVal :=
  (x.zip y).foldl (fun a p => (fAdd a (fMul p.1 p.2).1).1) (.fin false 0 0)

/-- Rounds to f32 and reads it back. -/
def f32Of (x : FVal) : FVal := unpackFloat .f32 (roundF32 x)

/-- One accumulator element of a float class (R134). -/
def accFloat (row col : List (Option FVal × List FVal)) (p : FVal) (acc : Nat) : Nat :=
  let run := (row.zip col).foldl (fun run b =>
    match b.1.1, b.2.1 with
    | some sa, some sb =>
      let t := (fMul (fMul (blockDot b.1.2 b.2.2) sa).1 sb).1
      f32Of (fAdd run t).1
    | _, _ => .nan) (.fin false 0 0)
  let y := f32Of (fMul run p).1
  roundF32 (fAdd (unpackFloat .f32 acc) y).1

/-- One accumulator element of the integer class (R134). -/
def accInt (ta tb : ElemType) (k : Nat) (row col : List Byte) (acc : Nat) : Nat :=
  let dot := (List.range k).foldl (fun (a : Int) i =>
    a + unpackInt ta (row.getD i 0).toNat * unpackInt tb (col.getD i 0).toNat) 0
  ((acc + dot).emod (2 ^ 32)).toNat

/-- P of a product (R134): 1 where both operands are unscaled floats of the 16-bit and 8-bit classes (DEDUCED, log entry 14). -/
def productScale (f b : FormatWord) : FVal :=
  let plain (t : ElemType) (sc : Bool) : Bool := matClass t = some .half ∨ (matClass t = some .byte ∧ ¬ sc)
  if plain f.atype f.asc ∧ plain b.btype b.bsc then .fin false 1 0
  else f32Of (fMul (unpackFloat .f32 f.tsa) (unpackFloat .f32 f.tsb)).1

/-! The lease -/

/-- The rank of the core in its cluster (R6). -/
def coreRank (s : State) : BitVec 2 := BitVec.ofNat 2 s.core.toNat

/-- The core holds the lease. -/
def hasLease (s : State) : Bool := s.matrix.holder = some (coreRank s)

/-- The slot number of a clk (R216). -/
def slotAt (clk : Nat) : Nat := clk / 256 % 16

/-- The MLEASE that the C queue runs. -/
def waitingLease (s : State) : Option Entry :=
  match s.workOf .c with
  | some e => match e.instr with
    | .mlease _ => if e.stage = .run then some e else none
    | _ => none
  | none => none

/-- The ranks that wait for the array (R216): other cores, and this one for its MLEASE or for the reload of its buffers (R225). -/
def askingRanks (s : State) : List (BitVec 2) :=
  s.matrix.asking ++ if (s.status = .leaseWait ∧ s.matrix.reload) ∨ (waitingLease s).isSome then [coreRank s] else []

/-- The rank that the arbiter grants the array to (R216). -/
def nextHolder (s : State) : Option (BitVec 2) :=
  let e := s.matrix.slots.getD (slotAt s.clk) 4
  let h := s.matrix.last
  if s.matrix.holder.isSome then none
  else (if e.getLsbD 2 then [h + 1, h + 2, h + 3, h] else [e.extractLsb' 0 2]).find? (askingRanks s).contains

/-- The grant (R216). -/
def grantLease (s : State) (r : BitVec 2) : State :=
  { s with matrix := { s.matrix with
    holder := some r, last := r, used := 0, asking := s.matrix.asking.filter (· ≠ r) } }

/-- A core of the cluster has an MLEASE at the head of its C queue, or its lease ends (R216, R217). -/
def mateLease (s : State) (r : BitVec 2) (asks : Bool) : State :=
  { s with matrix := { s.matrix with
    asking := if asks then s.matrix.asking.filter (· ≠ r) ++ [r] else s.matrix.asking.filter (· ≠ r)
    holder := if ¬ asks ∧ s.matrix.holder = some r then none else s.matrix.holder } }

/-- The arbiter's grant to another core of the cluster; this core's is LEASE_GRANT (R216). -/
def grantMate (s : State) : State :=
  match nextHolder s with
  | some r => if r = coreRank s then s else grantLease s r
  | none => s

/-- One tile command counts; the LEASE-th ends the lease (R217). -/
def countTile (s : State) : State :=
  let n := s.matrix.used + 1
  let s := { s with matrix := { s.matrix with used := n } }
  if s.launch.header.lease ≤ n then s.endLease else s

/-- The entry of MLEASE (R219). -/
def runMlease (_o : EOp) : Body := fun _ s => if hasLease s then .ok () s else .wait s

/-- A kernel that declares no lease may not issue this (R219, R331). -/
def leaseUse (s : State) : Option Trap := if s.launch.header.lease = 0 then some ⟨.undef, 8, 0⟩ else none

/-- MLEASE (R219). -/
def execMlease (o : EOp) (s : State) : Out := issue s .c (.mlease o) { use := leaseUse s } (runMlease o)

/-- The entry of MREL (R219). -/
def runMrel (_o : EOp) : Body := fun _ s => .ok () s.endLease
/-- MREL (R219). -/
def execMrel (o : EOp) (s : State) : Out := issue s .c (.mrel o) {} (runMrel o)

/-- A table entry placed in the C queue has not ended (R152). -/
def tableInC (s : State) : Bool :=
  s.queues.c.table.isSome ∨ s.queues.c.entries.any fun e => match e.instr with | .tblrun .. => true | _ => false

/-- Issue of MLDB and MMA: the lease, a table in the queue, and the oldest unmatched format word (R152, R177, R219). -/
def tileCmdSpec (s : State) : IssueSpec :=
  { use := match leaseUse s with
      | some t => some t
      | none =>
        if tableInC s then some ⟨.undef, 15, 0⟩
        else if s.fmt.all (·.matched) then some { cause := .fmtunder } else none
    bindAt := fun s =>
      match s.fmt.find? fun f => ¬ f.matched with
      | some f =>
        (none, some f.word, { s with fmt := s.fmt.map fun x => if x.id = f.id then { x with matched := true } else x })
      | none => (none, none, s) }

/-! Invalid ranges (R224) -/

/-- A range is marked; the ninth replaces all (R224), with its record (R348). -/
def markInvalid (s : State) (start len : Nat) (t : Trap) : State :=
  let r := if s.matrix.invalid.length < 8 then s.matrix.invalid ++ [(start, len)] else [(0, s.launch.header.scratch)]
  { s with matrix := { s.matrix with invalid := r } }.engineRecord 0x20 (some { t with va := BitVec.ofNat 64 start }) 0
    State.noPeer len

/-- The invalid range that an access of own scratchpad bytes overlaps. -/
def invalidHit (s : State) (start len : Nat) : Option (Nat × Nat) :=
  s.matrix.invalid.find? fun r => r.1 < start + len ∧ start < r.1 + r.2

/-! MLDB -/

/-- The buffer that a tile command names. -/
def bufNo (o : EOp) : Nat := if o.alt then 1 else 0

/-- The weight buffer. -/
def weightBuf (s : State) (n : Nat) : WeightBuf := s.matrix.bufs.getD n ⟨none, 0, 0, 0, 0, []⟩

/-- Replaces a weight buffer. -/
def setBuf (s : State) (n : Nat) (b : WeightBuf) : State :=
  { s with matrix := { s.matrix with bufs := s.matrix.bufs.setIfInBounds n b } }

/-- The buffer is owned by no core (R221). -/
def disown (s : State) (n : Nat) : State := setBuf s n { weightBuf s n with owner := none }

/-- The scratchpads as if no bank word were poisoned: what the checks of R66 see. -/
def unpoisoned (s : State) : State := { s with memory := { s.memory with scrPoison := [] } }

/-- The rows of an operand, every byte checked under R66 before any is read (R221, R222). -/
def checkedBytes (s : State) (a n sz st : Nat) (zs : Bool) : Res (List Byte) :=
  match operandBytes (unpoisoned s) a n sz st zs with
  | .trap t => .trap t
  | _ => operandBytes s a n sz st zs

/-- The load of a weight buffer (R221): the columns as B stands in scratchpad, with what the load records. -/
def loadWeights (s : State) (n : Nat) (word : BitVec 128) (a k st : Nat) : Res Unit :=
  let f := FormatWord.ofBits word
  let sz := lineBytes f.btype f.bsc (blockSize f) k
  match checkedBytes s a 256 sz st f.bzs with
  | .ok cols s => .ok () (setBuf s n ⟨some (coreRank s), a, k, st, word, cols⟩)
  | .trap t => if t.cause = .eccunc ∨ (f.bzs ∧ t.va ≠ BitVec.ofNat 64 a) then .fail t (disown s n) else .trap t
  | .wait s => .wait s
  | .fail t s => .fail t s

/-- The entry of MLDB (R221).
DEDUCED: log entry 13. -/
def runMldb (o : EOp) : Body := fun e s =>
  let word := e.fmt.getD 0
  let f := FormatWord.ofBits word
  let a := (e.reg o.a).toNat % 2 ^ 32
  let b := e.reg o.b
  let k := (b.extractLsb' 0 9).toNat
  let st := (b.extractLsb' 16 16).toNat
  if ¬ hasLease s then .trap { cause := .lease }
  else if badForLoad f then
    let t : Trap := { cause := .fmtbad }
    .fail t ((disown s (bufNo o)).engineRecord 0x20 (some t) 0 State.noPeer 0)
  else if a % 4 ≠ 0 ∨ b.extractLsb' 9 7 ≠ 0 ∨ b.extractLsb' 32 32 ≠ 0 ∨ ¬ depthOk f.btype f.bsc (blockSize f) k
      ∨ ¬ strideOk st (lineBytes f.btype f.bsc (blockSize f) k) f.bzs then .trap ⟨.undef, 11, 0⟩
  else (loadWeights s (bufNo o) word a k st).bind fun _ s => .ok () (countTile s)
/-- MLDB (R221). -/
def execMldb (o : EOp) (s : State) : Out := issue s .c (.mldb o) (tileCmdSpec s) (runMldb o)

/-! MMA -/

/-- The accumulator's M rows after a product (R134, R222). -/
def product (f b : FormatWord) (buf : WeightBuf) (m : Nat) (a acc : List Byte) : List Byte :=
  let bl := blockSize f
  let sza := lineBytes f.atype f.asc bl buf.k
  let szb := lineBytes b.btype b.bsc bl buf.k
  let word (i n : Nat) : Nat := bytesToNat ((acc.drop (1024 * i + 4 * n)).take 4)
  if matClass f.atype = some .int then
    (List.range m).flatMap fun i => (List.range 256).flatMap fun n =>
      natToBytes 4 (accInt f.atype b.btype buf.k ((a.drop (i * sza)).take sza) ((buf.cols.drop (n * szb)).take szb) (word i n))
  else
    let p := productScale f b
    let rows := (List.range m).map fun i => rowBlocks f.atype f.asc f.spec bl buf.k ((a.drop (i * sza)).take sza)
    let cols := (List.range 256).map fun n => rowBlocks b.btype b.bsc b.spec bl buf.k ((buf.cols.drop (n * szb)).take szb)
    (rows.zipIdx).flatMap fun r => (cols.zipIdx).flatMap fun c => natToBytes 4 (accFloat r.1 c.1 p (word r.2 c.2))

/-- The geometry of an accumulator tile: aligned, own, 1 to 256 rows (R222). -/
def accOk (d : Nat) (m : Nat) : Bool := d % 64 = 0 ∧ d / 2 ^ 23 % 2 = 0 ∧ 1 ≤ m ∧ m ≤ 256

/-- The entry of MMA (R222). -/
def runMma (o : EOp) : Body := fun e s =>
  let f := FormatWord.ofBits (e.fmt.getD 0)
  let d := (e.reg o.d).toNat % 2 ^ 32
  let a := (e.reg o.a).toNat % 2 ^ 32
  let b := e.reg o.b
  let m := (b.extractLsb' 0 9).toNat
  let st := (b.extractLsb' 16 16).toNat
  let len := 1024 * m
  let buf := weightBuf s (bufNo o)
  let mine := buf.owner = some (coreRank s)
  let bf := FormatWord.ofBits buf.word
  let mark (t : Trap) : Res Unit := .fail t (markInvalid s (d % 2 ^ 20) len t)
  if ¬ hasLease s then .trap { cause := .lease }
  else if badForProduct f (if mine then some bf else none) then mark { cause := .fmtbad }
  else if ¬ mine then .trap { cause := .lease }
  else if matClass f.atype ≠ matClass bf.btype ∨ f.b16 ≠ bf.b16 ∨ f.spec ≠ bf.spec then mark { cause := .fmtbad }
  else if ¬ accOk d m ∨ a % 4 ≠ 0 ∨ b.extractLsb' 9 7 ≠ 0 ∨ b.extractLsb' 32 32 ≠ 0
      ∨ ¬ depthOk f.atype f.asc (blockSize f) buf.k
      ∨ ¬ strideOk st (lineBytes f.atype f.asc (blockSize f) buf.k) f.azs then .trap ⟨.undef, 11, 0⟩
  else
    match invalidHit s d len with
    | some r => .trap ⟨.fmtbad, 0, BitVec.ofNat 64 r.1⟩
    | none =>
      let rows (s : State) := operandBytes s a m (lineBytes f.atype f.asc (blockSize f) buf.k) st f.azs
      match (rows (unpoisoned s)).bind fun _ s => s.readScr d len with
      | .trap t => .trap t
      | _ =>
        match (rows s).bind fun rows s => (s.readScr d len).bind fun acc s => .ok (rows, acc) s with
        | .ok (rows, acc) s =>
          (s.writeScr d (product f bf buf m rows acc)).bind fun _ s => .ok () (countTile s)
        | .trap t => mark t
        | .wait s => .wait s
        | .fail t s => .fail t s
/-- MMA (R222). -/
def execMma (o : EOp) (s : State) : Out := issue s .c (.mma o) (tileCmdSpec s) (runMma o)

/-- The entry of MZERO (R223).
DEDUCED: log entry 13. -/
def runMzero (o : EOp) : Body := fun e s =>
  let d := (e.reg o.d).toNat % 2 ^ 32
  let b := e.reg o.b
  let m := (b.extractLsb' 0 9).toNat
  if ¬ accOk d m ∨ b.extractLsb' 9 7 ≠ 0 ∨ b.extractLsb' 32 32 ≠ 0 then .trap ⟨.undef, 11, 0⟩
  else
    (s.writeScr d (List.replicate (1024 * m) 0)).bind fun _ s =>
      .ok () { s with matrix := { s.matrix with
        invalid := s.matrix.invalid.filter fun r => ¬ (d ≤ r.1 ∧ r.1 + r.2 ≤ d + 1024 * m) } }
/-- MZERO (R223). -/
def execMzero (o : EOp) (s : State) : Out := issue s .c (.mzero o) {} (runMzero o)

/-! GEMVH (R226 to R228) -/

/-- The fourth register of GEMVH. -/
def gemvC (o : EOp) : Reg := o.imm.extractLsb' 6 6

/-- The layout that GEMVH needs of its weight tensor (R227). -/
def gemvLayout (d : Desc) : Bool :=
  let rs := d.stride.getD 0 0 * d.es
  d.layout = 2 ∧ d.ndim = 2 ∧ [ElemType.bf16, .f16, .f32, .e4m3, .e5m2, .i8, .n8].contains d.dtype
  ∧ d.map.part = 0 ∧ ¬ d.rs ∧ (ShardMap.axes (d.map.dims.getD 1 ⟨7, 7, 0, 0, 0, 0⟩)).isEmpty
  ∧ d.base % 4096 = 0 ∧ d.stride.getD 1 0 = 1
  ∧ (rs = 256 ∨ rs = 512 ∨ rs = 1024 ∨ rs = 2048 ∨ (rs % 4096 = 0 ∧ rs ≠ 0)) ∧ d.shape.getD 1 0 * d.es ≤ rs

/-- The row addresses of a GEMVH, when every row lies on this device inside its own extent (R227). -/
def gemvRows (t : TensorMap) (mesh : Word) (g row0 nr : Nat) : Option (List Nat) :=
  let m := t.dim 0
  let e := t.ext mesh 0 (shardOf mesh m g)
  if e.1 ≤ row0 ∧ row0 + nr ≤ e.1 + e.2 then
    some ((List.range nr).map fun i =>
      (t.desc.base + t.offset mesh g [row0 + i - e.1 + m.hlo, (t.dim 1).hlo] * t.desc.es) % 2 ^ 64)
  else none

/-- A page that GEMVH's rows may lie on: MODE 0 and PK clear (R227). -/
def gemvPage (s : State) (va : Nat) : Option Trap :=
  match s.locOf .load false true va, s.leafOf va with
  | .error t, _ => some t
  | _, .ok (leaf, _) => if Leaf.mode leaf = 0 ∧ ¬ Leaf.pk leaf then none
    else some ⟨.prot, if Leaf.w leaf then 4 else 1, BitVec.ofNat 64 va⟩
  | _, .error t => some t

/-- One result word of GEMVH (R228): the parts of the row's 4,096-B units, rounded, in the canonical tree. A part of nothing but −0
is +0 (DESIGN CHOICE, log entry 56). -/
def gemvWord (tw tv : ElemType) (va : Nat) (row : List Byte) (vec : List Byte) : Nat :=
  let ew := tw.bits / 8
  let ev := tv.bits / 8
  let k := row.length / ew
  let term (i : Nat) : FVal :=
    (fMul (readNum tw (bytesToNat ((row.drop (i * ew)).take ew))) (readNum tv (bytesToNat ((vec.drop (i * ev)).take ev)))).1
  let units := ((List.range k).map fun i => (va + i * ew) / 4096).eraseDups
  let parts := units.map fun u =>
    let ks := (List.range k).filter fun i => (va + i * ew) / 4096 = u
    roundF32 (ks.foldl (fun a i => (fAdd a (term i)).1) (.fin false 0 0))
  (canonTree (fun x y => roundF32 (fAdd (unpackFloat .f32 x) (unpackFloat .f32 y)).1) 32 parts).getD 0

/-- The rows of a GEMVH one after the other; an uncorrectable error after the first result marks the range (R348). -/
def gemvRun (s : State) (tw tv : ElemType) (d v nr kb : Nat) (vecs : List (List Byte)) :
    (rows : List Nat) → (done : Nat) → Res Unit
  | [], _ => .ok () s
  | va :: rest, i =>
    let vas := bytesAt va kb
    match s.locsOf .load false true vas with
    | .error t => .trap t
    | .ok locs =>
      if s.stackWaits locs then .wait s
      else
      match s.poisonTrap vas locs with
      | some t => if i = 0 then .trap t else .fail t (markInvalid s (d % 2 ^ 20) (32 * nr) t)
      | none =>
        let row := locs.map s.homeByte
        let out := vecs.flatMap fun x => natToBytes 4 (gemvWord tw tv va row x)
        match s.writeScr (d + 32 * i) out with
        | .ok _ s => gemvRun s tw tv d v nr kb vecs rest (i + 1)
        | x => x

/-- The entry of GEMVH (R226 to R228). -/
def runGemvh (o : EOp) : Body := fun e s =>
  let d := (e.reg o.d).toNat % 2 ^ 32
  let b := (e.reg o.b).toNat % 2 ^ 32
  let c := e.reg (gemvC o)
  let row0 := (c.extractLsb' 0 32).toNat
  let nr := (c.extractLsb' 32 24).toNat
  let v := (o.imm.extractLsb' 0 3).toNat + 1
  if nr = 0 ∨ c.extractLsb' 56 8 ≠ 0 then .trap ⟨.undef, 15, 0⟩
  else if d % 32 ≠ 0 then .trap ⟨.misalign, 0, BitVec.ofNat 64 d⟩
  else if b % 16 ≠ 0 then .trap ⟨.misalign, 0, BitVec.ofNat 64 b⟩
  else if d / 2 ^ 23 % 2 = 1 then .trap ⟨.scrbound, 0, BitVec.ofNat 64 d⟩
  else
    (openTensor s ((e.reg o.a).toNat % 4096)).bind fun t s =>
      let desc := t.old.desc
      if ¬ gemvLayout desc then .trap tensorTrap
      else
        match gemvRows t.old s.launch.mesh s.launch.rank4 row0 nr with
        | none => .trap tensorTrap
        | some rows =>
          let kb := desc.shape.getD 1 0 * desc.es
          let k := desc.shape.getD 1 0
          let xs := (k * (o.ty.bits / 8) + 15) / 16 * 16
          let es := o.ty.bits / 8
          let vec (s : State) (j : Nat) : Res (List Byte) := s.readScr (b + j * xs) (k * es)
          let faultOf (x : Res (List Byte)) : Option Trap := match x with | .trap t => some t | _ => none
          match s.scrKeys d (32 * (nr - 1) + 4 * v), (List.range v).findSome? fun j => faultOf (vec (unpoisoned s) j) with
          | .error t, _ => .trap t
          | .ok _, some t => .trap t
          | .ok _, none =>
            match (rows.flatMap fun a => (List.range ((kb + 4095) / 4096 + 1)).map fun i =>
                min (a + 4096 * i) (a + kb - 1)).findSome? (gemvPage s) with
            | some t => .trap t
            | none =>
              match (List.range v).findSome? fun j => faultOf (vec s j) with
              | some t => .trap t
              | none =>
                let data := (List.range v).map fun j => match vec s j with | .ok bs _ => bs | _ => []
                gemvRun (s.note rows) desc.dtype o.ty d v nr kb data rows 0
/-- GEMVH (R226). -/
def execGemvh (o : EOp) (s : State) : Out := issue s .c (.gemvh o) {} (runGemvh o)

/-! Format words and slots -/

/-- FMTPUSH (R176, R177, R213). -/
def execFmtpush (a : Reg) (s : State) : Out :=
  withRegs s [a, a + 1]
    (if Config.formatDepth ≤ s.fmt.length then stall s 8
     else
       let w : BitVec 128 := (s.getReg (a + 1)) ++ (s.getReg a)
       .next ({ s with fmt := s.fmt ++ ([⟨s.nextFmt, false, w⟩] : List FmtEntry), nextFmt := s.nextFmt + 1 }.advance 1))

/-- MSLOT (R181): the entry takes effect at the next slot boundary. -/
def execMslot (a b : Reg) (s : State) : Out :=
  withRegs s [a, b]
    (let v := s.getReg b
     if v.toNat / 8 ≠ 0 then trapNow s ⟨.undef, 15, 0⟩
     else
       let w : SlotWrite := ⟨s.clk / 256 + 1, (s.getReg a).setWidth 4, v.setWidth 3⟩
       .next ({ s with matrix := { s.matrix with pending := s.matrix.pending ++ [w] } }.advance 1))

end Sys2Proof.Machine
end

