-- ==== Sys2Proof/Machine/Reel.lean ====
section
/-! DEFINITION. The Reel: recording, the tape's frames and records, playback (R233 to R241, R317, R351). -/

namespace Sys2Proof.Machine

/-- REELST (R233). -/
def ReelMode.code : ReelMode → Nat
  | .closed => 0 | .recording => 1 | .sealed => 2 | .playing => 3

/-- The 64-bit little-endian word of bytes. -/
def wordOf (bs : List Byte) : Word := BitVec.ofNat 64 (bytesToNat bs)

namespace ReelRecord

/-- The new segment number of a checkpoint's payload, its label, PC and mask (R237). -/
def segNo (r : ReelRecord) : Nat := bytesToNat ((r.value.drop 18).take 2)
def label (r : ReelRecord) : Nat := bytesToNat ((r.value.drop 16).take 2)
def pc (r : ReelRecord) : Word := wordOf (r.value.take 8)
def mask (r : ReelRecord) : Word := wordOf ((r.value.drop 8).take 8)

/-- The value that a checkpoint holds for s_i; 0 when its mask does not name it (R240). -/
def scalar (r : ReelRecord) (i : Nat) : Word :=
  if r.mask.getLsbD i then
    let k := ((List.range i).filter fun j => 0 < j ∧ r.mask.getLsbD j).length
    wordOf ((r.value.drop (24 + 8 * k)).take 8)
  else 0

end ReelRecord

/-! Records as bytes (R237) -/

/-- A record: header and padded payload. -/
def recordBytes (kind slot w codec : Nat) (payload : List Byte) : List Byte :=
  let n := payload.length
  natToBytes 4 (kind + slot * 16 + w * 256 + codec * 1024 + n * 4096) ++ payload ++ List.replicate ((4 - n % 4) % 4) 0

/-- The runs of a mask, each at most 128 long, bit 0 first. `cur` is the run so far: value and length. -/
def maskRuns : List Bool → (cur : Bool × Nat) → List Byte
  | [], c => if c.2 = 0 then [] else [BitVec.ofNat 8 ((if c.1 then 128 else 0) + c.2 - 1)]
  | b :: r, c =>
    if c.2 = 0 then maskRuns r (b, 1)
    else if b = c.1 ∧ c.2 < 128 then maskRuns r (b, c.2 + 1)
    else BitVec.ofNat 8 ((if c.1 then 128 else 0) + c.2 - 1) :: maskRuns r (b, 1)

/-- A MASK record. -/
def maskRecord (k : KReg) : List Byte :=
  recordBytes 1 0 0 2 (maskRuns ((List.range 256).map fun i => k.getLsbD i) (false, 0))

/-- A VAL record: XORZ against the slot's last value of the frame with the same W, else RAW. -/
def valRecord (slot w : Nat) (v : List Byte) (last : List (Nat × Nat × List Byte)) : List Byte :=
  match last.find? fun x => x.1 = slot with
  | some x =>
    if x.2.1 = w then
      let d := (v.zip x.2.2).map fun p => p.1 ^^^ p.2
      let bm := d.zipIdx.foldl (fun a p => if p.1 = 0 then a else a + 2 ^ p.2) 0
      recordBytes 0 slot w 1 (natToBytes (32 * 2 ^ w) bm ++ d.filter (· ≠ 0))
    else recordBytes 0 slot w 0 v
  | none => recordBytes 0 slot w 0 v

/-- A CHK record: PC, mask, label, segment, and the named registers as the entry read them at issue.
DEDUCED: log entry 38. -/
def chkRecord (e : Entry) (mask : Word) (label seg : Nat) : List Byte :=
  let m := mask &&& ~~~(1 : Word)
  recordBytes 2 0 0 0 (natToBytes 8 (e.pc + 8).toNat ++ natToBytes 8 m.toNat ++ natToBytes 2 label ++ natToBytes 2 seg
    ++ natToBytes 4 0 ++ ((List.range 64).filter (m.getLsbD ·)).flatMap fun i => natToBytes 8 (e.reg (BitVec.ofNat 6 i)).toNat)

/-! Frames (R236, R238) -/

namespace ReelState

/-- One past the last tape byte of the frame that starts at a tape byte. -/
def frameEnd (r : ReelState) (start : Nat) : Nat := if start < r.quota then min (start + 16384) r.quota else min (start + 16384) (2 * r.quota)

/-- A frame may start at this tape byte. -/
def hasFrame (r : ReelState) (start : Nat) : Bool := start < r.quota ∨ (r.pol = 0 ∧ start < 2 * r.quota)

/-- The VA of a tape byte. -/
def vaOf (r : ReelState) (t : Nat) : Nat := if t < r.quota then r.tape + t else r.spillVa + (t - r.quota)

/-- The bytes of the current frame as it is closed. -/
def closed (r : ReelState) (last : Bool) : List Byte :=
  let flags := (if last then 1 else 0) + (if r.quota ≤ r.start then 2 else 0)
  let head := natToBytes 8 r.back ++ natToBytes 2 r.nrec ++ natToBytes 2 r.frame.length ++ natToBytes 2 r.seg0
    ++ natToBytes 1 flags ++ natToBytes 1 0
  let body := head ++ r.frame
  body ++ List.replicate (r.frameEnd r.start - r.start - body.length) 0

/-- A new frame opens at a tape byte. -/
def opened (r : ReelState) (start : Nat) : ReelState :=
  { r with
    back := r.vaOf r.start, start := start, seg0 := r.seg, nrec := 0, frame := [], lastVals := [], pos := start + 16
    spill := r.spill || decide (r.quota ≤ start) }

/-- Places a record: in the current frame, else in the next frame that holds it; the frames closed on the way as VA and
bytes; none when the tape is exhausted (R238). `fuel` bounds the frames. -/
def place (enc : List (Nat × Nat × List Byte) → List Byte) :
    (fuel : Nat) → ReelState → List (Nat × List Byte) → Option (ReelState × List (Nat × List Byte))
  | 0, _, _ => none
  | fuel + 1, r, ws =>
    let b := enc r.lastVals
    if r.start + 16 + r.frame.length + b.length ≤ r.frameEnd r.start then
      let f := r.frame ++ b
      some ({ r with frame := f, nrec := r.nrec + 1, pos := r.start + 16 + f.length }, ws)
    else if r.hasFrame (r.frameEnd r.start) then
      place enc fuel (r.opened (r.frameEnd r.start)) (ws ++ [(r.vaOf r.start, r.closed false)])
    else none

end ReelState

/-- Engine writes of the Reel at a VA (R235). -/
def reelWrite (s : State) : List (Nat × List Byte) → Res Unit
  | [] => .ok () s
  | (va, bs) :: rest =>
    match s.locsOf .store false false (bytesAt va bs.length) with
    | .error t => .trap t
    | .ok locs => if s.stackWaits locs then .wait s else reelWrite (s.engineWrite (locs.zip bs) .task) rest

/-- Records with an encoder; `after` updates the Reel. -/
def reelPut (enc : List (Nat × Nat × List Byte) → List Byte) (after : ReelState → ReelState) (r : ReelState) (s : State) :
    Res Unit :=
  match ReelState.place enc (2 * r.quota / 16384 + 4) r [] with
  | none => .trap { cause := .reelfull }
  | some (r', ws) => (reelWrite s ws).bind fun _ s => .ok () { s with reel := after r' }

/-- The instruction is not admitted in this state (R234). -/
def reelState : Trap := ⟨.undef, 9, 0⟩

/-- A divergence (R240). -/
def reelDiv (s : State) : Res Unit := .fail { cause := .reeldiv } { s with reel := { s.reel with dv := true } }

/-! RLOPEN -/

/-- The fields of RLOPEN: policy, quota shift, checkpoint mask register. -/
def rlPol (o : EOp) : BitVec 2 := o.imm.extractLsb' 0 2
def rlShift (o : EOp) : Nat := (o.imm.extractLsb' 2 4).toNat
def rlC (o : EOp) : Reg := o.imm.extractLsb' 6 6

/-- The pages of a region: writable, MODE 0 or 4, not packed (R235). -/
def reelRegion (s : State) (va q : Nat) : Option Trap :=
  (pagesOfRange va q).findSome? fun p =>
    match s.locOf .store true true p, s.leafOf p with
    | .error t, _ => some t
    | _, .error t => some t
    | _, .ok (leaf, _) =>
      if Leaf.pk leaf ∨ ¬ (Leaf.mode leaf = 0 ∨ Leaf.mode leaf = 4) then some ⟨.prot, 4, BitVec.ofNat 64 p⟩ else none
where
  /-- The first byte of a range in each of its pages. -/
  pagesOfRange (va q : Nat) : List Nat :=
    (List.range ((va % 65536 + q + 65535) / 65536)).map fun i => if i = 0 then va else (va / 65536 + i) * 65536

/-- The entry of RLOPEN (R234, R235). -/
def runRlopen (o : EOp) : Body := fun e s =>
  let pol := rlPol o
  let a := (e.reg o.a).toNat
  let b := (e.reg o.b).toNat
  let q := s.launch.header.tape / 2 ^ rlShift o
  if s.reel.mode ≠ .closed then .trap reelState
  else if pol = 0 ∧ b = 0 then .trap ⟨.undef, 15, 0⟩
  else if a % 4096 ≠ 0 then .trap ⟨.misalign, 0, BitVec.ofNat 64 a⟩
  else if pol = 0 ∧ b % 4096 ≠ 0 then .trap ⟨.misalign, 0, BitVec.ofNat 64 b⟩
  else
    match reelRegion s a q, (if pol = 0 then reelRegion s b q else none) with
    | some t, _ => .trap t
    | none, some t => .trap t
    | none, none =>
      let r : ReelState := { ReelState.reset with mode := .recording, pol := pol, quota := q, tape := a, spillVa := b, pos := 16 }
      reelPut (fun _ => chkRecord e (e.reg (rlC o)) 0 0) id r s

/-- RLOPEN (R234, R331). -/
def execRlopen (o : EOp) (s : State) : Out :=
  issue s .c (.rlopen o) { use := if s.launch.header.tape = 0 then some ⟨.undef, 8, 0⟩ else none } (runRlopen o)

/-! Recording -/

/-- The entry of a recording instruction: it records, or in playback has no effect (R234, R317). -/
def recording (s : State) (k : ReelState → Res Unit) : Res Unit :=
  match s.reel.mode with
  | .recording => k s.reel
  | .playing => .ok () s
  | _ => .trap reelState

/-- The slot of RLREC and RLPOP. -/
def rlSlot (o : EOp) : Nat := (o.imm.extractLsb' 0 4).toNat

/-- A VAL record that RECOMP may have to drop (R238): none where it fits nowhere or ends beyond 15Q/16. -/
def valFits (r : ReelState) (enc : List (Nat × Nat × List Byte) → List Byte) : Bool :=
  match ReelState.place enc (2 * r.quota / 16384 + 4) r [] with
  | none => false
  | some (r', _) => r'.pos ≤ 15 * r.quota / 16

/-- The entry of RLREC (R234, R237, R238). -/
def runRlrec (o : EOp) : Body := fun _ s =>
  recording s fun r =>
    let v := natToBytes (256 * o.regs) (s.groupNat o.a o.regs)
    let slot := rlSlot o
    let enc := valRecord slot o.w.toNat v
    if r.pol = 1 ∧ (r.drop ∨ ¬ valFits r enc) then
      reelPut (fun _ => recordBytes 0 slot o.w.toNat 3 []) (fun r => { r with drop := true }) r s
    else
      reelPut enc (fun r => { r with
        lastVals := (slot, o.w.toNat, v) :: r.lastVals.filter fun x => x.1 ≠ slot }) r s
/-- RLREC (R234). -/
def execRlrec (o : EOp) (s : State) : Out := issue s .c (.rlrec o) {} (runRlrec o)

/-- The entry of RLBR (R234, R237). -/
def runRlbr (o : EOp) : Body := fun _ s =>
  recording s fun r => reelPut (fun _ => maskRecord (s.kreg o.a.toNat)) id r s
/-- RLBR (R234). -/
def execRlbr (o : EOp) (s : State) : Out := issue s .c (.rlbr o) {} (runRlbr o)

/-- The entry of RLMARK (R234, R237). -/
def runRlmark (o : EOp) : Body := fun e s =>
  recording s fun r =>
    reelPut (fun _ => chkRecord e (e.reg o.a) o.imm.toNat ((r.seg + 1) % 65536))
      (fun r => { r with seg := (r.seg + 1) % 65536 }) r s
/-- RLMARK (R234). -/
def execRlmark (o : EOp) (s : State) : Out := issue s .c (.rlmark o) {} (runRlmark o)

/-- The entry of RLSEAL (R234). -/
def runRlseal (_o : EOp) : Body := fun _ s =>
  if s.reel.mode ≠ .recording then .trap reelState
  else
    (reelWrite s [(s.reel.vaOf s.reel.start, s.reel.closed true)]).bind fun _ s =>
      .ok () { s with reel := { s.reel with mode := .sealed } }
/-- RLSEAL (R234). -/
def execRlseal (o : EOp) (s : State) : Out := issue s .c (.rlseal o) {} (runRlseal o)

/-! Playback -/

/-- The runs of a MASK payload as bits; none when they are not 256. -/
def maskBits (bs : List Byte) : Option Nat :=
  let bits := bs.flatMap fun b => List.replicate (b.toNat % 128 + 1) (b.toNat / 128 = 1 : Bool)
  if bits.length = 256 then some ((bits.zipIdx).foldl (fun a p => if p.1 then a + 2 ^ p.2 else a) 0) else none

/-- The value of a VAL payload, against the slot's last value of the frame (R237). -/
def valBytes (codec w : Nat) (bs : List Byte) (last : Option (Nat × List Byte)) : Option (List Byte) :=
  let n := 256 * 2 ^ w
  match codec with
  | 0 => if bs.length = n ∧ (last.map (·.1)) ≠ some w then some bs else none
  | 1 =>
    match last with
    | some (w', old) =>
      let bm := bytesToNat (bs.take (n / 8))
      let nz := (List.range n).filter fun i => bm / 2 ^ i % 2 = 1
      if w' = w ∧ bs.length = n / 8 + nz.length then
        some (((List.range n).foldl (fun (acc : List Byte × List Byte) i =>
          if bm / 2 ^ i % 2 = 1 then (acc.1 ++ [old.getD i 0 ^^^ acc.2.headD 0], acc.2.tail)
          else (acc.1 ++ [old.getD i 0], acc.2)) ([], bs.drop (n / 8))).1)
      else none
    | none => none
  | _ => none

/-- Decodes the records of one frame (R237); none at an inconsistent header. -/
def decodeRecords : (fuel : Nat) → (bs : List Byte) → (last : List (Nat × Nat × List Byte)) → Option (List ReelRecord)
  | _, [], _ => some []
  | 0, _, _ => none
  | fuel + 1, bs, last =>
    let h := bytesToNat (bs.take 4)
    let kind := h % 16
    let slot := h / 16 % 16
    let w := h / 256 % 4
    let codec := h / 1024 % 4
    let len := h / 4096 % 2 ^ 14
    let pad := (len + 3) / 4 * 4
    let body := (bs.drop 4).take len
    if bs.length < 4 + pad ∨ h / 2 ^ 26 ≠ 0 ∨ 2 < kind ∨ (kind ≠ 0 ∧ (slot ≠ 0 ∨ w ≠ 0)) then none
    else
      let one : Option (ReelRecord × List (Nat × Nat × List Byte)) :=
        match kind with
        | 0 =>
          if codec = 3 then (if len = 0 then some (⟨0, slot, w, true, []⟩, last) else none)
          else
            match valBytes codec w body ((last.find? fun x => x.1 = slot).map (·.2)) with
            | some v => some (⟨0, slot, w, false, v⟩, (slot, w, v) :: last.filter fun x => x.1 ≠ slot)
            | none => none
        | 1 =>
          match if codec = 2 then maskBits body else none with
          | some m => some (⟨1, 0, 0, false, natToBytes 32 m⟩, last)
          | none => none
        | _ =>
          let named := ((List.range 64).filter fun i => 0 < i ∧ (wordOf ((body.drop 8).take 8)).getLsbD i).length
          if codec = 0 ∧ 24 ≤ len ∧ bytesToNat ((body.drop 20).take 4) = 0 ∧ len = 24 + 8 * named then
            some (⟨2, 0, 0, false, body⟩, last)
          else none
      match one with
      | none => none
      | some (r, last) => (decodeRecords fuel (bs.drop (4 + pad)) last).map (r :: ·)

/-- Reads a frame at its home: its records, with the segment that is current after them; the trap of what stands in the way (R239,
R240, R351). `seg` is the segment current at its start, where the frames before it can be read. -/
def readFrame (s : State) (r : ReelState) (start back : Nat) (last : Bool) (seg : Option Nat) :
    Except Trap (List ReelRecord × Nat) :=
  let div : Trap := { cause := .reeldiv }
  let n := r.frameEnd start - start
  let vas := bytesAt (r.vaOf start) n
  match s.locsOf .load false false vas with
  | .error t => .error t
  | .ok locs =>
    match s.poisonTrap vas locs with
    | some t => .error t
    | none =>
      let bs := locs.map s.homeByte
      let used := bytesToNat ((bs.drop 10).take 2)
      let flags := (bs.getD 14 0).toNat
      let seg0 := bytesToNat ((bs.drop 12).take 2)
      let want := (if last then 1 else 0) + (if r.quota ≤ start then 2 else 0)
      if bytesToNat (bs.take 8) ≠ back ∨ flags ≠ want ∨ bs.getD 15 0 ≠ 0 ∨ n < 16 + used
          ∨ seg0 ≠ seg.getD seg0 then .error div
      else
        match decodeRecords (used + 1) ((bs.drop 16).take used) [] with
        | none => .error div
        | some rs =>
          let opened := (rs.filter fun x => x.kind = 2).length - if start = 0 then 1 else 0
          if rs.length = bytesToNat ((bs.drop 8).take 2) then .ok (rs, (seg0 + opened) % 65536) else .error div

/-- The frames of the tape in order, from a start; a frame that cannot be read drops what came before it. -/
def readTape (s : State) (r : ReelState) :
    (fuel : Nat) → (start back : Nat) → (seg : Option Nat) → List ReelRecord × Option Trap → List ReelRecord × Option Trap
  | 0, _, _, _, acc => acc
  | fuel + 1, start, back, seg, acc =>
    let last := start = r.start
    let (acc, seg) := match readFrame s r start back last seg with
      | .ok (rs, seg) => ((acc.1 ++ rs, acc.2), some seg)
      | .error t => (([], some t), none)
    if last then acc else readTape s r fuel (r.frameEnd start) (r.vaOf start) seg acc

namespace ReelState

/-- One past the current segment's last record. -/
def segEnd (r : ReelState) : Nat :=
  match r.opening with
  | none => 0
  | some o => ((r.records.zipIdx.find? fun p => o < p.2 ∧ p.1.kind = 2).map (·.2)).getD r.records.length

/-- The current segment has dropped values (R238). -/
def dropped (r : ReelState) : Bool :=
  match r.opening with
  | none => false
  | some o => ((r.records.take r.segEnd).drop (o + 1)).any (·.drop)

/-- Passes over VAL records in reverse. -/
def skipVals (rs : List ReelRecord) : Nat → Nat
  | 0 => 0
  | n + 1 => match rs[n]? with
    | some r => if r.kind = 0 then skipVals rs n else n + 1
    | none => 0

/-- Records before the next one in reverse, with dropped values skipped (R239). -/
def nextAt (r : ReelState) : Nat := if r.dropped then skipVals r.records r.cursor else r.cursor

/-- The next record in reverse. -/
def next (r : ReelState) : Option ReelRecord := if r.nextAt = 0 then none else r.records[r.nextAt - 1]?

/-- REELST (R233). -/
def word (r : ReelState) : Word :=
  let nx := if r.mode = .playing then (match r.next with | some x => x.kind | none => 15) else 15
  let drop := if r.mode = .playing then r.dropped else r.drop
  BitVec.ofNat 64 (r.mode.code + r.pol.toNat * 4 + (if drop then 16 else 0) + (if r.dv then 32 else 0)
    + (if r.spill then 64 else 0) + nx % 16 * 2 ^ 8 + r.seg % 65536 * 2 ^ 16 + r.pos % 2 ^ 32 * 2 ^ 32)

/-- Enters the segment whose opening checkpoint is the last one before a record (R239). -/
def enter (r : ReelState) (cursor : Nat) : ReelState :=
  let o := ((r.records.take cursor).zipIdx.filter fun p => p.1.kind = 2).getLast?.map (·.2)
  { r with cursor := cursor, opening := o, forward := match o with | some i => i + 1 | none => 0 }

/-- The forward cursor's MASK in the current segment. -/
def forwardMask (r : ReelState) : Option (Nat × ReelRecord) :=
  (r.records.zipIdx.find? fun p => r.forward ≤ p.2 ∧ p.2 < r.segEnd ∧ p.1.kind = 1).map fun p => (p.2, p.1)

end ReelState

/-- The fault of a serve that finds no record: what stands at the front of the decoded tape, else divergence. -/
def reelNone (s : State) : Res Unit :=
  match s.reel.broken with
  | some t => if t.cause = .reeldiv then reelDiv s else .trap t
  | none => reelDiv s

/-- The entry of RLREV (R234, R239, R240). -/
def runRlrev (o : EOp) : Body := fun _ s =>
  let r := s.reel
  match r.mode with
  | .sealed =>
    if o.imm ≠ 0 then .trap ⟨.undef, 15, 0⟩
    else
      let t := readTape s r (2 * r.quota / 16384 + 4) 0 0 (some 0) ([], none)
      let r := { r with mode := .playing, records := t.1, broken := t.2 }.enter t.1.length
      match r.opening, t.2 with
      | none, some t => if t.cause = .reeldiv then reelDiv s else .trap t
      | _, _ => .ok () { s with reel := r }
  | .playing =>
    match r.next with
    | none => reelNone s
    | some x =>
      if x.kind = 2 ∧ x.label = o.imm.toNat ∧ r.opening = some (r.nextAt - 1) then
        let r' := r.enter (r.nextAt - 1)
        match r'.opening, r.broken with
        | none, some t => if t.cause = .reeldiv then reelDiv s else .trap t
        | _, _ => .ok () { s with reel := { r' with seg := r.seg - 1 } }
      else reelDiv s
  | _ => .trap reelState
/-- RLREV (R234). -/
def execRlrev (o : EOp) (s : State) : Out := issue s .c (.rlrev o) {} (runRlrev o)

/-- The entry of RLPOP (R234, R239, R240). -/
def runRlpop (o : EOp) : Body := fun _ s =>
  let r := s.reel
  if r.mode ≠ .playing then .trap reelState
  else if r.dropped then reelDiv s
  else
    match r.next with
    | none => reelNone s
    | some x =>
      if x.kind = 0 ∧ x.slot = rlSlot o ∧ x.w = o.w.toNat then
        .ok () { s.setGroup o.d o.regs (bytesToNat x.value) with reel := { r with cursor := r.cursor - 1 } }
      else reelDiv s
/-- RLPOP (R234). -/
def execRlpop (o : EOp) (s : State) : Out := issue s .c (.rlpop o) {} (runRlpop o)

/-- The entry of RLBRP (R234, R239, R240). -/
def runRlbrp (o : EOp) : Body := fun _ s =>
  let r := s.reel
  if r.mode ≠ .playing then .trap reelState
  else
    match r.next with
    | none => reelNone s
    | some x =>
      if x.kind = 1 then
        .ok () { s.setKreg o.d.toNat (BitVec.ofNat 256 (bytesToNat x.value)) with reel := { r with cursor := r.nextAt - 1 } }
      else reelDiv s
/-- RLBRP (R234). -/
def execRlbrp (o : EOp) (s : State) : Out := issue s .c (.rlbrp o) {} (runRlbrp o)

/-- The entry of RLCHK (R234, R239, R240). -/
def runRlchk (o : EOp) : Body := fun _ s =>
  let r := s.reel
  if r.mode ≠ .playing then .trap reelState
  else
    match r.forwardMask with
    | none => reelDiv s
    | some (i, x) =>
      if bytesToNat x.value = (s.kreg o.a.toNat).toNat then .ok () { s with reel := { r with forward := i + 1 } }
      else reelDiv s
/-- RLCHK (R234). -/
def execRlchk (o : EOp) (s : State) : Out := issue s .c (.rlchk o) {} (runRlchk o)

/-- What RLSTAT's selector selects (R240). -/
def reelSelect (r : ReelState) (sel : Nat) : Word :=
  if sel = 0 then r.word
  else if r.mode ≠ .playing then 0
  else
    match r.opening.bind fun i => r.records[i]? with
    | none => 0
    | some c =>
      if sel = 0x40 then c.pc else if sel = 0x41 then BitVec.ofNat 64 c.label else c.scalar sel

/-- The entry of RLSTAT (R234, R240). -/
def runRlstat (o : EOp) : Body := fun e s =>
  match e.slot with
  | some id => .ok () (s.retPush id (reelSelect s.reel o.imm.toNat))
  | none => .ok () s
/-- RLSTAT (R51, R234). -/
def execRlstat (o : EOp) (s : State) : Out := issue s .c (.rlstat o) (returning s) (runRlstat o)

/-- The entry of RLCLOSE (R234, R317). -/
def runRlclose (_o : EOp) : Body := fun _ s => .ok () { s with reel := ReelState.reset }
/-- RLCLOSE (R234). -/
def execRlclose (o : EOp) (s : State) : Out := issue s .c (.rlclose o) {} (runRlclose o)

end Sys2Proof.Machine
end

