-- ==== Sys2Proof/Machine/Reshard.lean ====
section
/-! DEFINITION. Reshards: the checks, the planner's figures and counts, the pieces that land, the replacement of the map
(R90, R266, R267, R288, R290 to R292, R318 to R320, R359). -/

namespace Sys2Proof.Machine

/-! The two maps -/

/-- A tensor's descriptor and shadow entry with their extent tables, and PROG (R87). -/
structure Resharding where
  old  : TensorMap
  new  : TensorMap
  prog : Nat

/-- Rank g is on the mesh; the ranks of the group (R86). -/
def meshRanks (mesh : Word) : List Nat := List.range ((List.range 4).foldl (fun p a => p * axisSize mesh a) 1)

/-- How a map treats a mesh axis (R290). -/
inductive AxisUse where
  | split (d : Nat) | part | copied
  deriving DecidableEq

/-- The relation of a map to an axis. -/
def axisUse (t : TensorMap) (a : Nat) : AxisUse :=
  if t.desc.map.part / 2 ^ a % 2 = 1 then .part
  else match (List.range t.desc.ndim).find? fun d => (ShardMap.axes (t.dim d)).contains a with
    | some d => .split d
    | none => .copied

/-- The extents that a device holds along dimension d are the same under both maps, on every device, and so are the halos
(R290). -/
def sameExtents (mesh : Word) (t : Resharding) (d : Nat) : Bool :=
  (t.old.dim d).hlo = (t.new.dim d).hlo ∧ (t.old.dim d).hhi = (t.new.dim d).hhi ∧
    (meshRanks mesh).all fun g =>
      let e := t.old.ext mesh d (shardOf mesh (t.old.dim d) g)
      let f := t.new.ext mesh d (shardOf mesh (t.new.dim d) g)
      e = f ∨ (e.2 = 0 ∧ f.2 = 0)

/-- A figure of the plan (R267): kind 0 reduce-scatter, 1 all-gather, 2 all-to-all, 3 permute, 4 local slice. -/
structure Figure where
  kind : Nat
  axis : Nat
  dimf : Nat
  dimt : Nat
  deriving DecidableEq

/-- No dimension. -/
def noDim : Nat := 0xFF

/-- The dimension onto which a partial axis is reduced that the new map leaves whole (R290). -/
def reduceDim (t : Resharding) : Nat :=
  let nd := t.old.desc.ndim
  ((List.range nd).find? fun d => (ShardMap.axes (t.old.dim d)).isEmpty ∧ (ShardMap.axes (t.new.dim d)).isEmpty).getD (nd - 1)

/-- The figures of one axis (R290). -/
def axisFigures (mesh : Word) (t : Resharding) (a : Nat) : List Figure :=
  let main : List Figure := match axisUse t.old a, axisUse t.new a with
    | .part, .split d => [⟨0, a, noDim, d⟩]
    | .part, .copied => [⟨0, a, noDim, reduceDim t⟩, ⟨1, a, reduceDim t, noDim⟩]
    | .split b, .split d => if b ≠ d then [⟨2, a, b, d⟩] else if sameExtents mesh t d then [] else [⟨3, a, d, d⟩]
    | .split d, .copied => [⟨1, a, d, noDim⟩]
    | .copied, .split d => [⟨4, a, noDim, d⟩]
    | _, _ => []
  let halo : List Figure := match axisUse t.new a with
    | .split d =>
      if (t.new.dim d).hlo = 0 ∧ (t.new.dim d).hhi = 0 then []
      else match axisUse t.old a with
        | .split b => if b = d then [] else [⟨3, a, b, d⟩]
        | _ => [⟨3, a, noDim, d⟩]
    | _ => []
  main ++ halo

/-- The figures in the order in which they run (R291). -/
def figures (mesh : Word) (t : Resharding) : List Figure :=
  let all := (List.range 4).flatMap (axisFigures mesh t)
  [0, 2, 4, 1, 3].flatMap fun k => all.filter fun f => f.kind = k

/-- An axis that becomes partial is not admitted (R290). -/
def becomesPartial (t : Resharding) : Bool :=
  (List.range 4).any fun a => axisUse t.new a = .part ∧ axisUse t.old a ≠ .part

/-- The checks of R266 and R290 hold for the device of rank g. -/
def Resharding.ok (mesh : Word) (g : Nat) (t : Resharding) : Bool :=
  let o := t.old.desc.base
  let n := t.new.desc.base
  t.new.desc.mapOk && ! becomesPartial t
    && ! (o < n + t.new.shardBytes mesh g && n < o + t.old.shardBytes mesh g)

/-- Reads descriptor and shadow entry at their homes, with the checks (R266, R267). -/
def readResharding (s : State) (id : Nat) : Res (Resharding × Desc) :=
  if s.launch.ttab = 0 then .trap tensorTrap
  else
    (readHomeVa s (descVa s id false) 128).bind fun bs s =>
      let d := Desc.ofBytes bs
      if ¬ d.ok then .trap tensorTrap
      else
        (readHomeVa s (descVa s id true) 128).bind fun sh s =>
          let n := d.shadow sh
          if ¬ n.mapOk then .trap tensorTrap
          else
            (readTabs s.launch.mesh d (List.range d.ndim) d.map.tabva [] s).bind fun ot s =>
              (readTabs s.launch.mesh n (List.range d.ndim) n.map.tabva [] s).bind fun nt s =>
                let t : Resharding := ⟨⟨d, ot⟩, ⟨n, nt⟩, field sh 8 8⟩
                if t.ok s.launch.mesh s.launch.rank4 then .ok (t, d) s else .trap tensorTrap

/-- Progress pieces that land on rank g (R90, R267). -/
def pieceCount (mesh : Word) (t : Resharding) (g : Nat) : Nat := (t.new.shardBytes mesh g + 32767) / 32768

/-! Cells of the new buffer -/

/-- Coordinates below these extents. -/
def coordsBelow : List Nat → List (List Nat)
  | [] => [[]]
  | n :: r => (List.range n).flatMap fun i => (coordsBelow r).map (i :: ·)

/-- The global index of local coordinates on rank g, none in padding (R89). -/
def globalOf (t : TensorMap) (mesh : Word) (g : Nat) (l : List Nat) : Option (List Int) :=
  let ds := List.range t.desc.ndim
  let pad := ds.any fun d =>
    let m := t.dim d
    m.hlo + (t.ext mesh d (shardOf mesh m g)).2 + m.hhi ≤ l.getD d 0
  if pad then none
  else some (ds.map fun d =>
    ((t.ext mesh d (shardOf mesh (t.dim d) g)).1 : Int) + l.getD d 0 - (t.dim d).hlo)

/-- The cells of rank g's new buffer: byte offset, and the global index or none for padding. -/
def newCells (mesh : Word) (t : Resharding) (g : Nat) : List (Nat × Option (List Int)) :=
  (coordsBelow ((List.range t.new.desc.ndim).map (t.new.localExtent mesh g))).map fun l =>
    (t.new.offset mesh g l * t.new.desc.es, globalOf t.new mesh g l)

/-- The index lies within the global range. -/
def inRange (t : TensorMap) (x : List Int) : Bool :=
  (List.range t.desc.ndim).all fun d => 0 ≤ x.getD d 0 ∧ x.getD d 0 < (t.desc.shape.getD d 0 : Nat)

/-- Rank g holds the index in its own extent, outside halos and padding. -/
def ownHolds (t : TensorMap) (mesh : Word) (g : Nat) (x : List Int) : Bool :=
  (List.range t.desc.ndim).all fun d =>
    let e := t.ext mesh d (shardOf mesh (t.dim d) g)
    (e.1 : Int) ≤ x.getD d 0 ∧ x.getD d 0 < e.1 + e.2

/-- The dimensions in whose halo an index lies on rank g of the new map. -/
def haloDims (mesh : Word) (t : Resharding) (g : Nat) (x : List Int) : List Nat :=
  (List.range t.new.desc.ndim).filter fun d =>
    let e := t.new.ext mesh d (shardOf mesh (t.new.dim d) g)
    ¬ ((e.1 : Int) ≤ x.getD d 0 ∧ x.getD d 0 < e.1 + e.2)

/-- The permute figure that fills a halo cell, by its place in the plan: the last of those of its dimensions (R290,
R319). -/
def fillFigure (fs : List Figure) (halo : List Nat) : Option Nat :=
  ((fs.zipIdx.filter fun f => f.1.kind = 3 ∧ halo.contains f.1.dimt).getLast?).map (·.2)

/-- An axis that no figure reduces or moves on: the old map replicates it, or both maps leave it partial (R290). -/
def keptAxis (t : Resharding) (a : Nat) : Bool :=
  axisUse t.old a = .copied ∨ (axisUse t.old a = .part ∧ axisUse t.new a = .part)

/-- Two ranks have the same coordinates on every such axis. -/
def sameKept (mesh : Word) (t : Resharding) (g h : Nat) : Bool :=
  (List.range 4).all fun a => ¬ keptAxis t a ∨ coordOf mesh h a = coordOf mesh g a

/-- The ranks whose old shards contribute to an element for rank g, in group rank order (R288). -/
def contributors (mesh : Word) (t : Resharding) (g : Nat) (x : List Int) : List Nat :=
  (meshRanks mesh).filter fun h => ownHolds t.old mesh h x ∧ sameKept mesh t g h

/-! The course of the figures -/

/-- The index lies in what figure f leaves on rank g: the extent of its target dimension in the new map, or where the new map
replicates the axis the BAL extent on it (R290).
DEDUCED: log entry 28. -/
def inTarget (mesh : Word) (t : Resharding) (f : Figure) (g : Nat) (x : List Int) : Bool :=
  let e := match axisUse t.new f.axis with
    | .split d => t.new.ext mesh d (shardOf mesh (t.new.dim d) g)
    | _ => extent 1 (t.new.desc.shape.getD f.dimt 0) (axisSize mesh f.axis) [] (coordOf mesh g f.axis)
  (e.1 : Int) ≤ x.getD f.dimt 0 ∧ x.getD f.dimt 0 < e.1 + e.2

/-- The other ranks of g's axis. -/
def axisPeers (mesh : Word) (a g : Nat) : List Nat :=
  (meshRanks mesh).filter fun h => h ≠ g ∧ (List.range 4).all fun b => b = a ∨ coordOf mesh h b = coordOf mesh g b

/-- Rank g holds an element after the figures before `fs`, of which the last comes first. -/
def holdsAfter (mesh : Word) (t : Resharding) : (done : List Figure) → Nat → List Int → Bool
  | [], g, x => ownHolds t.old mesh g x
  | f :: before, g, x =>
    let mine := holdsAfter mesh t before g x
    let any := mine || (axisPeers mesh f.axis g).any fun h => holdsAfter mesh t before h x
    match f.kind with
    | 4 => mine && inTarget mesh t f g x
    | 1 => any
    | _ => any && inTarget mesh t f g x

/-- The rank that has an element for rank g after the reduce-scatters: the one that has combined it, and with no partial axis its old
owner (R288, R290, R291). -/
def formerOf (mesh : Word) (t : Resharding) (g : Nat) (x : List Int) : Option Nat :=
  let reduces := (figures mesh t).filter fun f => f.kind = 0
  (meshRanks mesh).find? fun h => holdsAfter mesh t reduces.reverse h x ∧ sameKept mesh t g h

/-- Where a cell of the new buffer takes its value from. -/
inductive CellSource where
  | zero
  /-- the device's own old halo -/
  | ownHalo
  /-- the rank that has its element -/
  | rank (h : Nat)
  deriving DecidableEq

/-- The source of a cell of rank g (R290, R319). -/
def cellSource (mesh : Word) (t : Resharding) (fs : List Figure) (g : Nat) (x : Option (List Int)) : CellSource :=
  match x with
  | none => .zero
  | some x =>
    if ¬ inRange t.new x then .zero
    else
      let halo := haloDims mesh t g x
      let held := (List.range t.old.desc.ndim).all fun d => t.old.owns mesh g d (x.getD d 0)
      if ¬ halo.isEmpty ∧ (fillFigure fs halo).isNone ∧ t.old.desc.map.part = 0 ∧ held then .ownHalo
      else match formerOf mesh t g x with
        | some h => .rank h
        | none => .zero

/-! The counts of a plan (R267) -/

/-- The ranks that send an element to rank g in a figure (R288, R291): every holder of a term in a reduce-scatter, else the
lowest holder, and none for an element that g holds. -/
def senders (mesh : Word) (t : Resharding) (before : List Figure) (f : Figure) (g : Nat) (x : List Int) : List Nat :=
  let peers := (axisPeers mesh f.axis g).filter fun h => holdsAfter mesh t before h x
  if f.kind = 4 ∨ (f.kind ≠ 1 ∧ ¬ inTarget mesh t f g x) then []
  else if f.kind = 0 then peers
  else if holdsAfter mesh t before g x then []
  else peers.take 1

/-- All indices of the tensor. -/
def allIndices (t : TensorMap) : List (List Int) :=
  (coordsBelow ((List.range t.desc.ndim).map fun d => t.desc.shape.getD d 0)).map fun l => l.map Int.ofNat

/-- The piece of rank g's new buffer in which an element lies; 0 while the element only passes through. -/
def pieceOf (mesh : Word) (t : Resharding) (g : Nat) (x : List Int) : Nat :=
  if (List.range t.new.desc.ndim).all fun d => t.new.owns mesh g d (x.getD d 0) then
    t.new.offset mesh g (t.new.localOf mesh g x) * t.new.desc.es / 32768
  else 0

/-- What this device sends in a figure, element by element: the receiver and its piece.
DEDUCED: log entry 26. -/
def sends (mesh : Word) (t : Resharding) (fs : List Figure) (i : Nat) (f : Figure) (me : Nat) : List (Nat × Nat) :=
  let before := (fs.take i).reverse
  (meshRanks mesh).flatMap fun g =>
    if g = me then []
    else
      let moved := (allIndices t.old).filterMap fun x =>
        if (senders mesh t before f g x).contains me then some (g, pieceOf mesh t g x) else none
      let halo := if f.kind ≠ 3 then [] else (newCells mesh t g).filterMap fun c =>
        match c.2 with
        | none => none
        | some x =>
          if inRange t.new x ∧ fillFigure fs (haloDims mesh t g x) = some i ∧ (contributors mesh t g x).contains me then
            some (g, c.1 / 32768)
          else none
      moved ++ halo

/-- The plan as RSHQ writes it (R267). -/
def planBytes (mesh : Word) (t : Resharding) (me : Nat) : List Byte :=
  let fs := figures mesh t
  let rows := fs.zipIdx.map fun f =>
    let out := sends mesh t fs f.2 f.1 me
    (f.1, out.eraseDups.length, out.length * t.old.desc.es)
  natToBytes 2 fs.length ++ natToBytes 2 0 ++ natToBytes 4 (pieceCount mesh t me)
    ++ natToBytes 8 ((rows.map (·.2.2)).foldl (· + ·) 0)
    ++ rows.flatMap fun r =>
      natToBytes 1 r.1.kind ++ natToBytes 1 r.1.axis ++ natToBytes 1 r.1.dimf ++ natToBytes 1 r.1.dimt
        ++ natToBytes 4 r.2.1 ++ natToBytes 8 r.2.2

/-! RSHQ and RSHD -/

/-- An own immediate write of bytes at a VA, once their stacks are ready (R311). -/
def writeImmVa (s : State) (va : Nat) (bs : List Byte) : Res Unit :=
  let vas := (bytesAt va bs.length).map (· % 2 ^ 64)
  match s.locsOf .store false false vas with
  | .error t => .trap t
  | .ok locs => if s.stackWaits locs then .wait s else .ok () ((s.note vas).writeImm (locs.zip bs))

/-- The outcome of a sequencer instruction made of operations that fault precisely, without effect, or wait. -/
def precisely (s : State) (words : Nat) (r : Res Unit) : Out :=
  match r with
  | .ok _ s => .next (s.advance words)
  | .trap t => trapNow s t
  | .wait s => hold s
  | .fail t s => .next (s.trapAt t)

/-- The cached descriptor of a tensor is dropped (R179). -/
def dropDesc (s : State) (id : Nat) : State :=
  { s with memory := { s.memory with descs := s.memory.descs.filter fun d => d.id ≠ id } }

/-- RSHQ (R267): the sequencer waits until the plan is written, wherever its home is. -/
def execRshq (o : AOp) (s : State) : Out :=
  withRegs s [o.a, o.b]
    (match s.wait with
     | some (.pub upTo) =>
       if s.memory.reqs.all fun r => upTo ≤ r.id ∨ r.owner ≠ .task ∨ (State.reqLocs r).isEmpty then .next (s.advance 2) else hold s
     | _ =>
       if (s.getReg o.b).toNat % 64 ≠ 0 then trapNow s ⟨.misalign, 0, s.getReg o.b⟩
       else
         match (readResharding s ((s.getReg o.a).toNat % 4096)).bind fun t s =>
           writeImmVa s (s.getReg o.b).toNat (planBytes s.launch.mesh t.1 s.launch.rank4) with
         | .ok _ t => if t.memory.reqs.isEmpty then .next (t.advance 2) else hold { t with wait := some (.pub t.memory.nextReq) }
         | .trap t => trapNow s t
         | .wait s => hold s
         | .fail t s => .next (s.trapAt t))

/-- The pieces whose bit is clear in a bitmap. -/
def clearPieces (n : Nat) (bits : List Byte) : List Nat :=
  (List.range n).filter fun i => ¬ (bits.getD (i / 8) 0).getLsbD (i % 8)

/-- The number of the k-th reshard of a tensor, the same on every device (R266). -/
def reshardId (tensor k : Nat) : Nat := 2 ^ 22 + k % 2 ^ 10 * 2 ^ 12 + tensor

/-- A reshard starts or is resumed (R266, R318): the bitmap is zeroed and RS set, unless RS is set already. -/
def startReshard (s : State) (id : Nat) (bar : BitVec 9) (t : Resharding) (d : Desc) : Res Unit :=
  let n := pieceCount s.launch.mesh t s.launch.rank4
  let put (todo : List Nat) (s : State) : Res Unit :=
    let k := crunCount s (64 + id)
    let r : Reshard :=
      { tensor := id, id := reshardId id k, bar := bar, todo := todo, ws := [], sent := [], since := s.device.time }
    .ok () { dropDesc s id with
      reshards := s.reshards ++ [r]
      coll := { s.coll with counts := (64 + id, k + 1) :: s.coll.counts.filter fun c => c.1 ≠ 64 + id } }
  if d.rs then (readHomeVa s t.prog ((n + 7) / 8)).bind fun bits s => put (clearPieces n bits) s
  else
    (writeImmVa s t.prog (List.replicate ((n + 7) / 8) 0)).bind fun _ s =>
      (readHomeVa s ((descVa s id false + 0xA) % 2 ^ 64) 1).bind fun b s =>
        (writeImmVa s ((descVa s id false + 0xA) % 2 ^ 64) [b.headD 0 ||| 2]).bind fun _ s => put (List.range n) s

/-- RSHD (R266). -/
def execRshd (o : AOp) (s : State) : Out :=
  withRegs s [o.a]
    (let bar : BitVec 9 := o.imm.extractLsb' 0 9
     let id := (s.getReg o.a).toNat % 4096
     withBar s bar
       (if isInterval s bar then trapNow s ⟨.detviol, 4, 0⟩
        else if s.reshards.any fun r => r.tensor = id then trapNow s tensorTrap
        else precisely s 2 ((readResharding s id).bind fun t s => startReshard s id bar t.1 t.2)))

/-! Messages between the devices of a reshard (R319) -/

/-- A reshard with its maps, as this device sees it. -/
structure Moving where
  r    : Reshard
  t    : Resharding
  figs : List Figure

/-- The reshard of a tensor that runs here. -/
def reshardOf (s : State) (id : Nat) : Option Reshard := s.reshards.find? fun r => r.tensor = id

/-- The other ranks of the group. -/
def otherRanks (s : State) : List Nat := (meshRanks s.launch.mesh).filter (· ≠ s.launch.rank4)

/-- A device tells that it has issued its RSHD, and which pieces it needs. -/
def startSeq : Nat := 0
/-- A device tells that it has set every bit. -/
def doneSeq : Nat := 1
/-- The values of the cells of piece n of the receiver. -/
def valueSeq (n : Nat) : Nat := 2 + 2 * n
/-- The terms of the elements in piece n of the receiver, which combines them. -/
def termSeq (n : Nat) : Nat := 3 + 2 * n

/-- What rank h has sent under a number, when all of it has come. -/
def reshardData (s : State) (r : Reshard) (h seq : Nat) : Option (List Byte) := arrived s r.id (some (h * s.launch.m3, seq))

/-- A message of a reshard leaves for rank g, once. -/
def sendReshard (s : State) (r : Reshard) (g seq : Nat) (bs : List Byte) : State :=
  let m3 := s.launch.m3
  let d : CollData := ⟨r.id, s.launch.rank4 * m3, g * m3, seq, bs.length % 256, 0, bs.length, bs⟩
  let s := (dataParts d).foldl (fun s d => s.request (deviceLoc (deviceOfRank s g)) (.data d) none (.coll r.id)) s
  { s with reshards := s.reshards.map fun x => if x.id = r.id then { x with sent := (g, seq) :: x.sent } else x }

/-- Every device of the group has issued its RSHD (R319). -/
def allStarted (s : State) (r : Reshard) : Bool := (otherRanks s).all fun g => (reshardData s r g startSeq).isSome

/-- Every device of the group has set every bit of its bitmap (R320). -/
def allDone (s : State) (r : Reshard) : Bool :=
  r.todo.isEmpty ∧ (otherRanks s).all fun g => (reshardData s r g doneSeq).isSome ∧ r.sent.contains (g, doneSeq)

/-- Pieces as the bits of a bitmap. -/
def pieceBits (ns : List Nat) : List Byte := natToBytes ((ns.foldl max 0) / 8 + 1) (ns.foldl (fun a n => a ||| 2 ^ n) 0)

/-- A reshard stops with a failed arrival and a record; maps, RS and bitmap stay as they are (R266, R359). `tell` sends the abort
notice to the other devices. -/
def failReshard (s : State) (r : Reshard) (t : Trap) (tell : Bool := true) : State :=
  let s := { s with
    reshards := s.reshards.filter fun x => x.tensor ≠ r.tensor
    coll := { s.coll with inbox := s.coll.inbox.filter fun d => d.inst ≠ r.id }
    memory := { s.memory with reqs := s.memory.reqs.filter fun q => ¬ (isData q.op ∧ q.owner = .coll r.id) } }
  let m3 := s.launch.m3
  let s := if ¬ tell then s else (otherRanks s).foldl (fun s g =>
    s.request (deviceLoc (deviceOfRank s g)) (.notice r.id (s.launch.rank4 * m3) (g * m3)) none .engine) s
  ((s.engineDone (.bar r.bar.toNat) r.ws).engineRecord 0x27 (some t) r.bar.toNat State.noPeer 0).arriveFailed r.bar t

/-! Elements -/

/-- Element i of a run of elements of es bytes. -/
def elemAt (es i : Nat) (bs : List Byte) : Nat := bytesToNat ((bs.drop (i * es)).take es)

/-- The elements that rank h contributes to rank g's sums, of which piece n of g has the place. -/
def termElems (mesh : Word) (t : Resharding) (h g n : Nat) : List (List Int) :=
  (allIndices t.old).filter fun x =>
    pieceOf mesh t g x = n ∧ formerOf mesh t g x = some g ∧ h ≠ g ∧ (contributors mesh t g x).contains h

/-- The cells of piece n of rank g. -/
def pieceCells (mesh : Word) (t : Resharding) (g n : Nat) : List (Nat × Option (List Int)) :=
  (newCells mesh t g).filter fun c => c.1 / 32768 = n

/-- The cells of piece n of rank g that take their values from rank h. -/
def valueCells (mesh : Word) (t : Resharding) (fs : List Figure) (h g n : Nat) : List (Nat × Option (List Int)) :=
  (pieceCells mesh t g n).filter fun c => cellSource mesh t fs g c.2 = .rank h

/-- The sum of an element's terms by the canonical tree (R132, R288), and whether it is a NaN. -/
def sumTerms (t : ElemType) (xs : List Nat) : Nat × Bool :=
  let v := (canonTree (combineElem .sum t) 32 xs).getD 0
  (v, 1 < xs.length ∧ ¬ t.isInt ∧ readNum t v == FVal.nan)

/-- The messages with terms that this device has to receive: rank and piece. -/
def termsDue (s : State) (m : Moving) : List (Nat × Nat) :=
  (otherRanks s).flatMap fun h =>
    ((List.range (max 1 (pieceCount s.launch.mesh m.t s.launch.rank4))).filter fun n =>
      ¬ (termElems s.launch.mesh m.t h s.launch.rank4 n).isEmpty).map fun n => (h, n)

/-- All of them have come: the reduce-scatters have ended on this device (R291). -/
def termsHere (s : State) (m : Moving) : Bool := (termsDue s m).all fun d => (reshardData s m.r d.1 (termSeq d.2)).isSome

/-- This device's own term of an element, read at the old buffer as it stands (R292). -/
def ownTerm (m : Moving) (x : List Int) (s : State) : Res Nat :=
  let me := s.launch.rank4
  let mesh := s.launch.mesh
  let old := m.t.old
  let va := (old.desc.base + old.offset mesh me (old.localOf mesh me x) * old.desc.es) % 2 ^ 64
  (readHomeVa s va old.desc.es).bind fun b s => .ok (bytesToNat b) s

/-- The terms of an element from these ranks, in their order. -/
def termsOf (m : Moving) (x : List Int) : List Nat → State → Res (List Nat)
  | [], s => .ok [] s
  | h :: hs, s =>
    let mesh := s.launch.mesh
    let me := s.launch.rank4
    let n := pieceOf mesh m.t me x
    let v : Res Nat :=
      if h = me then ownTerm m x s
      else match reshardData s m.r h (termSeq n), (termElems mesh m.t h me n).findIdx? (· = x) with
        | some bs, some i => .ok (elemAt m.t.old.desc.es i bs) s
        | _, _ => .wait s
    v.bind fun v s => (termsOf m x hs s).bind fun vs s => .ok (v :: vs) s

/-- An element as this device has it after the reduce-scatters; a NaN that it has combined sets GSTAT.INV (R288). -/
def formed (m : Moving) (x : List Int) (s : State) : Res Nat :=
  (termsOf m x (contributors s.launch.mesh m.t s.launch.rank4 x) s).bind fun vs s =>
    let v := sumTerms m.t.new.desc.dtype vs
    .ok v.1 (if v.2 then { s with fabric := { s.fabric with inv := true } } else s)

/-- The value of a cell of piece n of this device (R290, R291, R319). -/
def cellValue (m : Moving) (n : Nat) (c : Nat × Option (List Int)) (s : State) : Res Nat :=
  let mesh := s.launch.mesh
  let me := s.launch.rank4
  match cellSource mesh m.t m.figs me c.2 with
  | .zero => .ok 0 s
  | .ownHalo => ownTerm m (c.2.getD []) s
  | .rank h =>
    if h = me then formed m (c.2.getD []) s
    else match reshardData s m.r h (valueSeq n), (valueCells mesh m.t m.figs h me n).findIdx? (· = c) with
      | some bs, some i => .ok (elemAt m.t.old.desc.es i bs) s
      | _, _ => .wait s

/-! Sending (R266, R291, R292) -/

/-- The bytes of elements, one after the other. -/
def bytesOf {α : Type} (es : Nat) (value : α → State → Res Nat) : List α → State → Res (List Byte)
  | [], s => .ok [] s
  | x :: xs, s => (value x s).bind fun v s => (bytesOf es value xs s).bind fun bs s => .ok (natToBytes es v ++ bs) s

/-- The messages that this device owes rank g: terms first, then the values of pieces that g needs, once its own sums are
formed. -/
def owed (s : State) (m : Moving) (g : Nat) : List Nat :=
  let mesh := s.launch.mesh
  let me := s.launch.rank4
  let pieces := List.range (max 1 (pieceCount mesh m.t g))
  let needs := match reshardData s m.r g startSeq with
    | some bs => pieces.filter fun n => (bs.getD (n / 8) 0).getLsbD (n % 8)
    | none => []
  let terms := (pieces.filter fun n => ¬ (termElems mesh m.t me g n).isEmpty).map termSeq
  let values := if termsHere s m then
      (needs.filter fun n => ¬ (valueCells mesh m.t m.figs me g n).isEmpty).map valueSeq
    else []
  (terms ++ values).filter fun q => ¬ m.r.sent.contains (g, q)

/-- The data of a message to rank g. -/
def owedBytes (m : Moving) (g seq : Nat) (s : State) : Res (List Byte) :=
  let mesh := s.launch.mesh
  let me := s.launch.rank4
  let es := m.t.old.desc.es
  if seq % 2 = 1 then bytesOf es (ownTerm m) (termElems mesh m.t me g ((seq - 3) / 2)) s
  else bytesOf es (fun c s => formed m (c.2.getD []) s) (valueCells mesh m.t m.figs me g ((seq - 2) / 2)) s

/-- The next message that this device owes: rank and number. -/
def nextOwed (s : State) (m : Moving) : Option (Nat × Nat) :=
  (otherRanks s).findSome? fun g => (owed s m g).head?.map fun q => (g, q)

/-- A reshard goes on by itself: it tells the others of its start and of its end, and once all have started it sends what it owes,
one message at a time. -/
def pumpReshard (s : State) (r : Reshard) : State :=
  let tell (seq : Nat) (bs : List Byte) (s : State) : State :=
    ((otherRanks s).filter fun g => ¬ r.sent.contains (g, seq)).foldl (fun s g => sendReshard s r g seq bs) s
  let s := tell startSeq (pieceBits r.todo) s
  if ¬ allStarted s r then { s with reshards := s.reshards.map fun x => if x.id = r.id then { x with since := s.device.time } else x }
  else
    let s := if r.todo.isEmpty then tell doneSeq [] s else s
    let start := s.memory.nextReq
    match readResharding s r.tensor with
    | .trap t => failReshard s r t
    | .fail t s => failReshard s r t
    | .wait s => chargeReqs s start (.coll r.id)
    | .ok (t, _) s =>
      let m : Moving := ⟨r, t, figures s.launch.mesh t⟩
      match nextOwed s m with
      | none => s
      | some (g, q) =>
        match owedBytes m g q s with
        | .trap t => failReshard s r t
        | .fail t s => failReshard s r t
        | .wait s => chargeReqs s start (.coll r.id)
        | .ok bs s => sendReshard (chargeReqs s start (.coll r.id)) r g q bs

/-! Landing -/

/-- Writes the cells of a piece at the new buffer (R291, R292, R319). The result is what was written.
DEDUCED: log entry 27. -/
def landCells (m : Moving) (n : Nat) : List (Nat × Option (List Int)) → List (Nat × Byte) → State → Res (List (Nat × Byte))
  | [], ws, s => .ok ws s
  | c :: rest, ws, s =>
    let es := m.t.new.desc.es
    (cellValue m n c s).bind fun v s =>
      (writeRegion s ((m.t.new.desc.base + c.1) % 2 ^ 64, es) (natToBytes es v)).bind fun w s => landCells m n rest (ws ++ w) s

/-- Sets the bit of a piece with a release at dev (R90, R318). -/
def setPieceBit (t : Resharding) (n : Nat) (s : State) : Res (List (Nat × Byte)) :=
  let va := (t.prog + n / 8) % 2 ^ 64
  (readHomeVa s va 1).bind fun b s => writeRegion s (va, 1) [b.headD 0 ||| BitVec.ofNat 8 (2 ^ (n % 8))]

/-- What a piece of this device takes from others is here: every device has started, and its data and terms have come. -/
def pieceHere (s : State) (m : Moving) (n : Nat) : Bool :=
  let me := s.launch.rank4
  let src := (pieceCells s.launch.mesh m.t me n).map fun c => cellSource s.launch.mesh m.t m.figs me c.2
  allStarted s m.r ∧ src.all fun c =>
    match c with
    | .rank h => if h = me then termsHere s m else (reshardData s m.r h (valueSeq n)).isSome
    | _ => true

/-- RESHARD_PIECE_LAND: the last byte of piece `index2` of tensor `index` lands and its bit is set (R90, R291, R318, R319). -/
def execReshardPieceLand (s : State) : Out :=
  match reshardOf s s.input.index with
  | none => .next s
  | some r =>
    let n := s.input.index2
    if ¬ r.todo.contains n then .next s
    else
      let start := s.memory.nextReq
      match readResharding s r.tensor with
      | .trap t => .next (failReshard s r t)
      | .fail t s => .next (failReshard s r t)
      | .wait s => .next (chargeReqs s start (.coll r.id))
      | .ok (t, _) s1 =>
        let m : Moving := ⟨r, t, figures s1.launch.mesh t⟩
        if ¬ pieceHere s1 m n then .next s
        else
          match (landCells m n (pieceCells s1.launch.mesh t s1.launch.rank4 n) [] s1).bind fun ws s =>
              (setPieceBit t n s).bind fun b s => .ok (ws ++ b) s with
          | .trap f => .next (failReshard s r f)
          | .fail f s => .next (failReshard s r f)
          | .wait s => .next (chargeReqs s start (.coll r.id))
          | .ok ws s =>
            let r' := { r with todo := r.todo.filter (· ≠ n), ws := r.ws ++ ws, since := s.device.time }
            .next { chargeReqs s start (.coll r.id) with
              reshards := s.reshards.map fun x => if x.tensor = r.tensor then r' else x }

/-- The descriptor with BASE, STRIDE and MAP of the shadow entry and RS clear (R320). -/
def replacedDesc (bs sh : List Byte) : List Byte :=
  sh.take 8 ++ (bs.drop 8).take 2 ++ [bs.getD 0xA 0 &&& 0xFD] ++ (bs.drop 0xB).take 29 ++ (sh.drop 0x28).take 88

/-- The buffers and the descriptor of a tensor, which its reshard's completion acquires (R108). -/
def reshardSpans (s : State) (id : Nat) (t : Resharding) : List (Nat × Nat) :=
  let g := s.launch.rank4
  spansOf s t.old.desc.base (t.old.shardBytes s.launch.mesh g) ++ spansOf s t.new.desc.base (t.new.shardBytes s.launch.mesh g)
    ++ spansOf s (descVa s id false) 128

/-- RESHARD_REPLACE: every device has set every bit of its bitmap; the map is replaced in one store, and the barrier receives
its arrival (R90, R108, R320). -/
def execReshardReplace (s : State) : Out :=
  match reshardOf s s.input.index with
  | none => .next s
  | some r =>
    if ¬ allDone s r then .next s
    else
      let start := s.memory.nextReq
      let res := (readResharding s r.tensor).bind fun t s =>
        (readHomeVa s (descVa s r.tensor false) 128).bind fun bs s =>
          (readHomeVa s (descVa s r.tensor true) 128).bind fun sh s =>
            (writeRegion s (descVa s r.tensor false, 128) (replacedDesc bs sh)).bind fun ws s => .ok (t.1, ws) s
      match res with
      | .trap t => .next (failReshard s r t)
      | .fail t s => .next (failReshard s r t)
      | .wait s => .next (chargeReqs s start (.coll r.id))
      | .ok (t, ws) s =>
        let s := { dropDesc s r.tensor with
          reshards := s.reshards.filter fun x => x.tensor ≠ r.tensor
          coll := { s.coll with inbox := s.coll.inbox.filter fun d => d.inst ≠ r.id } }
        .next ((s.engineDone (.bar r.bar.toNat) (r.ws ++ ws) (reshardSpans s r.tensor t)).arrive r.bar)

/-- RESHARD_FAIL: a figure of the reshard of tensor `index` has failed, with the detail that the event gives, or with `flag` the
group's version has changed (R359). -/
def execReshardFail (s : State) : Out :=
  match reshardOf s s.input.index with
  | none => .next s
  | some r =>
    .next (failReshard s r (if s.input.flag then { cause := .groupver } else ⟨.fabric, s.input.index2 % 16, 0⟩))

/-! Aborts and time limits (R261, R358, R359) -/

/-- The reshard with a number. -/
def reshardById (s : State) (id : Nat) : Option Reshard := s.reshards.find? fun r => r.id = id

/-- An instance or a reshard learns that a rank has aborted, and stops (R261, R359). -/
def takeAbort (s : State) (id : Nat) (t : Trap) (dev : Nat) : State :=
  match instanceOf s id, reshardById s id with
  | some x, _ => failInstance s x t dev false
  | none, some r => failReshard s r t false
  | none, none => s

/-- ABORT_NOTICE: rank `index2` has aborted instance or reshard `index` (R261). -/
def execAbortNotice (s : State) : Out :=
  .next (takeAbort s s.input.index ⟨.fabric, 2, 0⟩ (rankDevice s s.input.index2))

/-- A reshard has waited 100 ms for data, or with a part for credit (R358, R359). -/
def lateReshard (s : State) (r : Reshard) : Bool :=
  (allStarted s r ∧ ¬ r.todo.isEmpty ∧ r.since + 100000000 ≤ s.device.time) ∨ (lateSend s r.id).isSome

/-- COLLECTIVE_TIMEOUT (R358). -/
def execCollectiveTimeout (s : State) : Out :=
  match instanceOf s s.input.index, reshardById s s.input.index with
  | some x, _ =>
    match lateTransfer s x with
    | none => .next s
    | some dev => .next (failInstance s x ⟨.fabric, 3, 0⟩ dev true)
  | none, some r => .next (if lateReshard s r then failReshard s r ⟨.fabric, 3, 0⟩ else s)
  | none, none => .next s

end Sys2Proof.Machine
end

