-- ==== Sys2Proof/Machine/System.lean ====
section
/-! DEFINITION. System instructions and system registers, the report and the clearing of queue halts, map registers, TDLD,
PHASE, EXIT and TAIL (R63, R64, R164, R174 to R179, R182, R183, R218, R233, R324 to R328, R371). -/

namespace Sys2Proof.Machine

/-! Traps -/

/-- TSTS of TRAP and BRK: the code, with no queue (R175, R183). -/
def codeSts (code : BitVec 12) : BitVec 22 := BitVec.ofNat 22 (code.toNat + 3 * 2 ^ 12)

/-- TRAP (R175). -/
def execTrap (code : BitVec 12) (s : State) : Out := .next (s.takeTrap Cause.syscall.code s.pc 0 (codeSts code) none)

/-- BRK (R175): with break enabled the task halts for the debugger. -/
def execBrk (code : BitVec 12) (s : State) : Out :=
  if s.breakOn then .next { s with status := .debug }
  else .next (s.takeTrap Cause.brk.code s.pc 0 (codeSts code) none)

/-- The halt of a queue that was reported at a level is released (R326). -/
def releaseHalt (n : Fin 3) (q : QueueState) : QueueState :=
  match q.halt with
  | some h => if h.reported = some n then { q with halt := none, stall := 0 } else q
  | none => q

/-- The return from a trap (R175, R326, R371): the halts reported at the level are released, and a resume mark resumes the
wait alone. -/
def returnTrap (s : State) : State :=
  let n := s.trap.tl
  let l := s.level n
  let s := { s with queues := { s.queues with
    l := releaseHalt n s.queues.l, c := releaseHalt n s.queues.c, s := releaseHalt n s.queues.s } }
  { s with
    trap := { s.trap with tl := if n = 2 then 1 else 0 }
    pc := l.pc
    isn := s.isn + 1
    wait := l.mark
    waitClk := 0 }

/-- ERET (R175). -/
def execEret (s : State) : Out :=
  if s.trap.tl = 0 then trapNow s ⟨.undef, 5, 0⟩
  else
    let pc := (s.level s.trap.tl).pc
    if pc.toNat % 4 ≠ 0 then trapNow s ⟨.misalign, 0, pc⟩ else .next (returnTrap s)

/-! Queue halts -/

/-- An entry that is discarded: its reserved return-queue entry receives zero, an LDBLK completes its tag with an error, one that has
raised it, and
a matched format word that it has not consumed goes (R326). -/
def dropEntry (s : State) (e : Entry) : State :=
  let s := match e.instr with
    | .ldblk o => if e.micro.isSome ∧ (e.stage = .pop ∨ e.stage = .start) then s else s.tagDone o.d true
    | _ => s
  let s := match e.instr, e.slot with
    | .aget _, _ => s
    | _, some id => s.retPush id 0
    | _, none => s
  if e.stage = .pop then s.consumeFormat e else s

/-- The VATOM that the S queue has begun is forgotten. -/
def dropVatom (s : State) (q : Queue) : State := if q = .s then { s with memory := { s.memory with vatom := none } } else s

/-- SKIP (R326). -/
def skipHalt (s : State) (q : Queue) : State :=
  match (s.queue q).halt, s.current q with
  | some _, some e =>
    let s := dropVatom (dropEntry (s.setQueue q { s.queue q with halt := none, stall := 0 }) e) q
    s.pushStage q (tokensOf e.instr).sp (tokensOf e.instr).sn
  | some _, none =>
    match (s.queue q).table with
    | some t => ((s.setQueue q { s.queue q with halt := none, stall := 0 }).tableNext q t).emptied q
    | none => s
  | none, _ => s

/-- FLUSH (R326). -/
def flushHalt (s : State) (q : Queue) : State :=
  let x := s.queue q
  match x.halt with
  | none => s
  | some _ =>
    let micro := match x.table with | some t => t.cur.toList | none => []
    let s := dropVatom ((micro ++ x.entries).foldl dropEntry s) q
    (s.setQueue q { s.queue q with entries := [], table := none, halt := none, stall := 0 }).emptied q

/-- The queue that QFLT.QSEL names (R325). -/
def selQueue (v : BitVec 2) : Option Queue :=
  match v.toNat with
  | 0 => some .l
  | 1 => some .c
  | 2 => some .s
  | _ => none

/-- QFLT_SKIP (R326). -/
def execQfltSkip (s : State) : Out :=
  match selQueue s.queues.qsel with
  | some q => .next (skipHalt s q)
  | none => .next s

/-- QFLT_FLUSH (R326). -/
def execQfltFlush (s : State) : Out :=
  match selQueue s.queues.qsel with
  | some q => .next (flushHalt s q)
  | none => .next s

/-- The pending halts with their queues, in the order L, C, S. -/
def pendingHalts (s : State) : List (Queue × Halt) :=
  [Queue.l, Queue.c, Queue.s].filterMap fun q =>
    match (s.queue q).halt with
    | some h => if h.reported.isNone then some (q, h) else none
    | none => none

/-- Some halt has been reported and not cleared. -/
def reportStands (s : State) : Bool := [Queue.l, Queue.c, Queue.s].any s.haltReported

/-- The halt that the sequencer reports next: the first to halt, if the level admits it and no earlier report stands (R324). -/
def reportDue (s : State) : Option (Queue × Halt) :=
  if reportStands s then none
  else
    match pendingHalts s with
    | [] => none
    | p :: ps =>
      let first := ps.foldl (fun (a : Queue × Halt) b => if b.2.order < a.2.order then b else a) p
      if s.trap.tl ≤ first.2.tl then some first else none

/-- QFAULT_REPORT: the trap at the instruction that the sequencer would issue next (R322, R324, R328, R371). -/
def execQfaultReport (s : State) : Out :=
  match decide (s.status = .running), reportDue s with
  | false, _ => .next s
  | true, none => .next s
  | true, some (q, h) =>
    let cause := if h.trap.cause = .tokstarve then Cause.tokstarve else .qfault
    let s1 := s.takeTrap cause.code s.pc h.trap.va (stsOf h.trap (State.queueNo q) h.entryNo) s.keptWait
    .next (if s1.status = .killed then s1
      else s1.setQueue q { s1.queue q with halt := some { h with reported := some s1.trap.tl } })

/-- TOKSTARVE: the queue that the event names has waited 2^20 clk in its pop stage and halts (R328). -/
def execTokstarve (s : State) : Out :=
  let q := s.input.queue
  match s.current q with
  | none => .next s
  | some e =>
    let t := tokensOf e.instr
    let wp : Bool := t.wp ∧ s.fifo (prevQ q) q = 0
    let wn : Bool := t.wn ∧ s.fifo (nextQ q) q = 0
    if e.stage = .pop ∧ (s.queue q).halt.isNone ∧ (wp ∨ wn) ∧ Config.starveClk ≤ (s.queue q).stall then
      .next (s.haltQueue q e ⟨.tokstarve, (if wp then 1 else 0) + (if wn then 2 else 0), 0⟩)
    else .next s

/-- WATCHDOG: a wait of the sequencer that has lasted 2^32 clk (R329). -/
def execWatchdog (s : State) : Out :=
  if s.status = .running ∧ Config.watchdogClk < s.waitClk then .next (s.trapAt ⟨.watchdog, s.waitKind, 0⟩ s.keptWait)
  else .next s

/-! System registers -/

/-- A domain register (R40). -/
def domWord (s : State) (n : Nat) : Word :=
  if s.launch.header.ndom < n then 0
  else
    let l := s.launch
    let m := match n with | 1 => l.m1 | 2 => l.m2 | _ => l.m3
    BitVec.ofNat 64 (s.rankAt n % 2 ^ 24 + s.membAt n % 2 ^ 24 * 2 ^ 24 + l.task / m % 2 ^ 16 * 2 ^ 48)

/-- LEASE (R218). -/
def leaseWord (s : State) : Word :=
  let one (b : Bool) (i : Nat) : Nat := if b then 2 ^ i else 0
  let mine (i : Nat) : Bool := match s.matrix.bufs[i]? with | some b => b.owner = some (coreRank s) | none => false
  BitVec.ofNat 64 (one (hasLease s) 0 + (if hasLease s then s.matrix.used % 128 else 0) * 2 + slotAt s.clk * 2 ^ 8
    + s.matrix.last.toNat * 2 ^ 12 + one s.matrix.holder.isSome 14 + one (mine 0) 15 + one (mine 1) 16)

/-- QFLT (R325). -/
def qfltWord (s : State) : Word :=
  let one (b : Bool) (i : Nat) : Nat := if b then 2 ^ i else 0
  BitVec.ofNat 64 (one s.queues.l.halt.isSome 0 + one s.queues.c.halt.isSome 1 + one s.queues.s.halt.isSome 2
    + one s.helper.fault.isSome 3 + s.queues.qsel.toNat * 2 ^ 4)

/-- FPSTAT as an SRD sees it: a flag that nothing has ordered before it is returned or not (R125, DESIGN CHOICE, log entry 5). -/
def fpstatSeen (s : State) : BitVec 6 := s.fpstat ||| (s.fpPend &&& if s.launch.det then 0 else s.freeWord.setWidth 6)

/-- The value of a system register; none where the number is unknown (R182, R325). -/
def sysRead (s : State) (n : BitVec 12) : Option Word :=
  match n.toNat with
  | 0x000 => some s.tags.rdy
  | 0x001 => some s.tags.err
  | 0x002 => some ((fpstatSeen s).setWidth 64)
  | 0x003 => some (if s.trap.trapen then 1 else 0)
  | 0x010 => some (BitVec.ofNat 64 s.trap.tl.val)
  | 0x011 => some s.trap.tvec
  | 0x012 => some s.trap.l1.pc
  | 0x013 => some s.trap.l2.pc
  | 0x014 => some (s.trap.l1.cause.setWidth 64)
  | 0x015 => some (s.trap.l2.cause.setWidth 64)
  | 0x016 => some s.trap.l1.va
  | 0x017 => some s.trap.l2.va
  | 0x018 => some (s.trap.l1.sts.setWidth 64)
  | 0x019 => some (s.trap.l2.sts.setWidth 64)
  | 0x020 => some (domWord s 1)
  | 0x021 => some (domWord s 2)
  | 0x022 => some (domWord s 3)
  | 0x023 => some (domWord s 4)
  | 0x024 => some (BitVec.ofNat 64 s.launch.task)
  | 0x025 => some (BitVec.ofNat 64 s.launch.ntask)
  | 0x026 => some s.launch.seed
  | 0x027 => some s.launch.mesh
  | 0x028 => some (if s.launch.det then 1 else 0)
  | 0x030 => some (BitVec.ofNat 64 s.clk)
  | 0x031 => some (BitVec.ofNat 64 s.device.time)
  | 0x040 => some s.reel.word
  | 0x041 => some (leaseWord s)
  | 0x042 => some (qfltWord s)
  | 0x043 => some s.queues.l.qfpc
  | 0x044 => some s.queues.c.qfpc
  | 0x045 => some s.queues.s.qfpc
  | _ => none

/-- SRD (R175, R183). -/
def execSrd (r : Reg) (n : BitVec 12) (s : State) : Out :=
  withRegs s [r]
    (match sysRead s n with
     | none => trapNow s ⟨.undef, 6, 0⟩
     | some v => .next (((if n = 2 then s.bumpFree else s).setReg r v).advance 1))

/-- A write of QFLT: QSEL, then FLUSH or SKIP (R325, R326). -/
def writeQflt (s : State) (v : Word) : State :=
  let s := { s with queues := { s.queues with qsel := v.extractLsb' 4 2 } }
  match selQueue s.queues.qsel with
  | none => s
  | some q => if v.getLsbD 7 then flushHalt s q else if v.getLsbD 6 then skipHalt s q else s

/-- A write of a system register; none where the number is unknown or the register is read-only as a whole (R175, R182,
R183, R325). A write of TPCn clears the resume mark (R371). A flag that nothing has ordered before a write of FPSTAT yet
reaches FPSTAT before that write or after it (R125, DESIGN CHOICE, log entry 5); in a DET launch, after it (R293). -/
def sysWrite (s : State) (n : BitVec 12) (v : Word) : Option State :=
  let l1 := s.trap.l1
  let l2 := s.trap.l2
  match n.toNat with
  | 0x002 => some { s with fpstat := v.setWidth 6, fpPend := s.fpPend &&& (if s.launch.det then -1 else s.freeWord.setWidth 6), free := s.free + 1 }
  | 0x003 => some { s with trap := { s.trap with trapen := v.getLsbD 0 } }
  | 0x011 => some { s with trap := { s.trap with tvec := v &&& ~~~0xFF } }
  | 0x012 => some (s.setLevel 1 { l1 with pc := v, mark := none })
  | 0x013 => some (s.setLevel 2 { l2 with pc := v, mark := none })
  | 0x014 => some (s.setLevel 1 { l1 with cause := v.setWidth 8 })
  | 0x015 => some (s.setLevel 2 { l2 with cause := v.setWidth 8 })
  | 0x016 => some (s.setLevel 1 { l1 with va := v })
  | 0x017 => some (s.setLevel 2 { l2 with va := v })
  | 0x018 => some (s.setLevel 1 { l1 with sts := v.setWidth 22 })
  | 0x019 => some (s.setLevel 2 { l2 with sts := v.setWidth 22 })
  | 0x042 => some (writeQflt s v)
  | _ => none

/-- SWR (R175). -/
def execSwr (r : Reg) (n : BitVec 12) (s : State) : Out :=
  withRegs s [r]
    (match sysWrite s n (s.getReg r) with
     | none => trapNow s ⟨.undef, 6, 0⟩
     | some s => .next (s.advance 1))

/-! Map registers and descriptors -/

/-- The map register is declared, else REGBOUND (R178). -/
def withMap (s : State) (m : BitVec 4) (a : Reg) (k : Out) : Out :=
  withRegs s [a] (if m.toNat < s.launch.header.nm then k else trapNow s { cause := .regbound })

/-- The 64 bytes of a map register's access. -/
def mapVas (s : State) (a : Reg) : List Nat := bytesAt (s.getReg a).toNat 64

/-- MAPLD (R176, R178): a plain read. -/
def execMapld (m : BitVec 4) (a : Reg) (s : State) : Out :=
  withMap s m a
    (if (s.getReg a).toNat % 64 ≠ 0 then trapNow s ⟨.misalign, 0, s.getReg a⟩
     else
       match s.locsOf .load false true (mapVas s a) with
       | .error t => trapNow s t
       | .ok locs =>
         precisely s 1 (((s.note (mapVas s a)).readPlain (mapVas s a) locs).bind fun bs s =>
           .ok () { s with mregs := s.mregs.set m.toNat (BitVec.ofNat 512 (bytesToNat bs)) m.isLt }))

/-- MAPST (R176, R178): a plain write. -/
def execMapst (m : BitVec 4) (a : Reg) (s : State) : Out :=
  withMap s m a
    (if (s.getReg a).toNat % 64 ≠ 0 then trapNow s ⟨.misalign, 0, s.getReg a⟩
     else
       match s.locsOf .store false true (mapVas s a) with
       | .error t => trapNow s t
       | .ok locs =>
         precisely s 1 ((s.note (mapVas s a)).storePlain (locs.zip (natToBytes 64 (s.mregs[m.toNat]'m.isLt).toNat))))

/-- TDLD (R176, R179). Without a tensor table there is nothing to fetch, and TENSOR is no precise cause of it (R321).
DEDUCED: log entry 40. -/
def execTdld (a : Reg) (s : State) : Out :=
  withRegs s [a]
    (let id := (s.getReg a).toNat % 4096
     if s.launch.ttab = 0 then
       .next ({ s with memory := { s.memory with descs := s.memory.descs.filter fun d => d.id ≠ id } }.advance 1)
     else precisely s 1 ((fetchDesc s id true).bind fun _ s => .ok () s))

/-! PHASE, EXIT, TAIL -/

/-- PHASE (R62, R164). -/
def execPhase (level : BitVec 2) (s : State) : Out :=
  phaseExec level s.matrix.invalid (s.caller.terms.toList.map (·.armed)) s

/-- The engines that EXIT and TAIL both wait for are idle: L and C queues, helper, streams and Caller actions; the Reel's
writes are made with their entries (R63, R64). -/
def enginesIdle (s : State) : Bool :=
  queueEmpty s .l ∧ queueEmpty s .c ∧ ¬ s.helper.running ∧ s.grid.queue.isEmpty ∧ s.grid.run.isNone ∧ ¬ actionsPending s

/-- EXIT's wait has ended, but for the publication (R63); ordered accesses that are held at their homes are not waited for.
DEDUCED: log entry 25. -/
def exitIdle (s : State) : Bool :=
  enginesIdle s ∧ queueEmpty s .s ∧ s.channel.cmds.isEmpty ∧ repliesDone s

/-- EXIT after its commit: the wait for what it sent, the report of writes given up, then the task has left (R63, R355). -/
def exitCommitted (s : State) (upTo : Nat) : Out :=
  if s.memory.reqs.all fun r => upTo ≤ r.id then
    match uncertainTrap s with
    | some (t, s) => trapNow s t
    | none => .next { s.advance 1 with status := .retired }
  else stall { s with wait := some (.exit upTo) } 5

/-- EXIT (R63, R254, R342). TASK_RETIRE frees the core. A task whose staging has been committed is not revocable any more (DEDUCED,
log entry 63). -/
def execExit (s : State) : Out :=
  match s.helper.fault with
  | some t => helperReport s t
  | none =>
    if ¬ exitIdle s then stall s 5
    else
      match s.wait with
      | some (.exit upTo) => exitCommitted s upTo
      | _ =>
        if s.memory.stagingBad then
          lostStaging s
        else if s.stagingWaits then hold s
        else
          let s := { (orderFlags s).commit .dev with revocable := false }
          exitCommitted s s.memory.nextReq

/-- The tags of copies that are outstanding. -/
def openTags (s : State) : List Nat := ((copiesHeld s).map fun c => c.tag.toNat).eraseDups

/-- The entries that TAIL places in the retirement tracker (R64): the S queue's rest, and one for each copy tag. -/
def tailEntries (s : State) : List Tracked :=
  let e (tag : Option Nat) : Tracked := ⟨s.core.toNat, s.launch.entry, s.launch.task, tag⟩
  (if queueEmpty s .s then [] else [e none]) ++ (openTags s).map fun t => e (some t)

/-- Entries of this core's tracker. -/
def ownTracked (s : State) : List Tracked := s.sched.tracker.filter fun x => x.core = s.core.toNat

/-- TAIL (R64): TAIL_TRACKER_DRAIN completes the task. -/
def execTail (s : State) : Out :=
  if ¬ s.launch.header.tailm then trapNow s ⟨.undef, 7, 0⟩
  else if ¬ enginesIdle s then stall s 5
  else if 16 < (ownTracked s).length + (tailEntries s).length then stall s 5
  else
    .next { (orderFlags s).advance 1 with
      status := .tailed
      sched := { s.sched with
        tracker := s.sched.tracker ++ tailEntries s
        occupied := s.sched.occupied.filter fun o => o.core ≠ s.core.toNat } }

end Sys2Proof.Machine
end

