-- ==== Sys2Proof/Machine/Launch.lean ====
section
/-! DEFINITION. The owner's writes, command streams, the scoreboard, the checks and the placement of a launch (R37 to R44, R56 to
R58, R242, R268 to R274, R301, R302). -/

namespace Sys2Proof.Machine

/-! The owner (R300, R302) -/

/-- The port number of a master (R302). -/
def masterNo : Master → BitVec 2
  | .host => 0
  | .bmc => 1
  | .enclave => 2

/-- The master's writes take effect: it owns the device and has named no successor (R302, R303). -/
def owns (s : State) (m : Master) : Bool := s.owner.owner = masterNo m ∧ ¬ s.owner.hpend

/-- A write that only the owner may make; anyone else's is discarded and sets WREJ (R300). -/
def ownerWrite (s : State) (k : State → State) : Out :=
  .next (if owns s s.input.master then k s else { s with owner := { s.owner with wrej := true } })

/-! The scoreboard (R272) -/

/-- FENCE[f]. -/
def fence (s : State) (f : Nat) : Word := s.sched.fences.getD f 0

/-- A completion signal (R269, R299): the fence rises to at least the value, and the stream's vector is signalled. -/
def signalFence (s : State) (e : Score) : State :=
  match e.signal with
  | none => s
  | some (f, v) =>
    { s with sched := { s.sched with
      fences := s.sched.fences.setIfInBounds f (if (fence s f).toNat < v.toNat then v else fence s f) } }.signalHost e.stream

/-- An entry is done: it signals, leaves the scoreboard, and is no one's predecessor (R272). -/
def finishEntry (s : State) (e : Score) : State :=
  let s := signalFence s e
  { s with sched := { s.sched with
    board := (s.sched.board.filter fun x => x.id ≠ e.id).map fun x => if x.ord = some e.id then { x with ord := none } else x
    streams := s.sched.streams.map fun c => if c.prev = some e.id then { c with prev := none } else c } }

/-- SRC or DST of an XFER: whether a host address, and the address (R269). -/
def xferEnd (w : Nat) : Bool × Nat := (w / 2 ^ 63 = 1, w % 2 ^ 63)

/-- The fields of a launch's record and launch block, before its checks (R269, R270). -/
def launchOf (s : State) (e : Score) : Launch :=
  let r := e.bytes
  let b := Mem.readBytes s.memory.home (field r 0x38 8 % 2 ^ 48) 128
  { Launch.reset with
    image := BitVec.ofNat 64 (field r 0x18 8), root := BitVec.ofNat 64 (field b 0 8), asn := BitVec.ofNat 16 (field b 8 2)
    ttab := BitVec.ofNat 64 (field b 0x10 8), group := BitVec.ofNat 64 (field b 0x18 8), mesh := BitVec.ofNat 64 (field b 0x20 8)
    save := BitVec.ofNat 64 (field b 0x28 8), crec := BitVec.ofNat 64 (field b 0x30 8), tpriv := BitVec.ofNat 64 (field b 0x38 8)
    data := BitVec.ofNat 64 (field b 0x40 8), seed := BitVec.ofNat 64 (field r 0x28 8), det := field r 1 1 / 8 % 2 = 1
    ntask := field r 0x20 4, m1 := field r 0x24 1, m2 := field r 0x25 1, m3 := field r 0x26 2, level := e.level, entry := e.id }

/-- Bytes of an image: up to the end of its last table (R43). -/
def imageSize (h : Header) : Nat := h.tables.foldl (fun n t => if t.2 = 0 then n else max n (t.1 + t.2)) 128

/-- The bytes of a launch's image at their homes. -/
def imageBytes (s : State) (l : Launch) : Option (List Byte) :=
  match launchRead s l l.image.toNat 128 with
  | none => none
  | some h => launchRead s l l.image.toNat (imageSize (Header.ofBytes h))

/-- The local bytes of an image, as spans of physical addresses, page by page. -/
def imageSpans (s : State) (l : Launch) : List (Nat × Nat) :=
  let n := match launchRead s l l.image.toNat 128 with
    | some h => imageSize (Header.ofBytes h)
    | none => 128
  let lo := l.image.toNat
  ((List.range ((lo + n) / 65536 - lo / 65536 + 1)).map fun i => (lo / 65536 + i) * 65536).filterMap fun pg =>
    match launchLocs s l .load pg 1 with
    | some (p :: _) => some (p + (max lo pg - pg), p + (min (lo + n) (pg + 65536) - pg))
    | _ => none

/-- An XFER in the scoreboard writes into the image of a launch (R272). -/
def imageBusy (s : State) (e : Score) : Bool :=
  let spans := imageSpans s (launchOf s e)
  s.sched.board.any fun x =>
    x.kind = 2 ∧
      (let d := xferEnd (field x.bytes 0x20 8)
       ¬ d.1 ∧ spans.any fun p => p.1 < d.2 + field x.bytes 0x28 8 ∧ d.2 < p.2)

/-- The entry is ready: predecessor done, fence wait held, image complete (R272). -/
def isReady (s : State) (e : Score) : Bool :=
  let met : Bool := match e.wait with | some (f, v) => decide (v.toNat ≤ (fence s f).toNat) | none => true
  e.state = .waiting ∧ e.ord.isNone ∧ met ∧ ¬ (e.kind = 1 ∧ imageBusy s e)

/-- The order of ready entries: by level, then by the time at which they joined it, then as they were decoded (R273). -/
def aheadOf (a b : Score) : Bool := b.level < a.level ∨ (a.level = b.level ∧ a.joined.getD 0 < b.joined.getD 0)

/-- The first of some entries in the order of R273. -/
def firstEntry (es : List Score) : Option Score :=
  match es with
  | [] => none
  | e :: r => some (r.foldl (fun a b => if aheadOf b a then b else a) e)

/-- XFERs that run (R272). -/
def xfersRunning (s : State) : Nat := (s.sched.board.filter fun e => e.kind = 2 ∧ e.state = .issued).length

/-- The next entry that is no launch and issues as soon as it is ready (R272). -/
def nextIssue (s : State) : Option Score :=
  firstEntry (s.sched.board.filter fun e => e.kind ≠ 1 ∧ isReady s e ∧ ¬ (e.kind = 2 ∧ 4 ≤ xfersRunning s))

/-- Issues entries that are no launches: NOP and FSIG are done, XFER and INVAL start (R272). -/
def issueReady : Nat → State → State
  | 0, s => s
  | n + 1, s =>
    match nextIssue s with
    | none => s
    | some e => issueReady n (if e.kind = 0 ∨ e.kind = 3 then finishEntry s e else s.setScore { e with state := .issued })

/-- What the scoreboard does by itself after a change: entries that have become ready take the time at which they joined their
level, and what can issue does (R272, R273). -/
def pumpBoard (s : State) : State :=
  let mark (s : State) : State :=
    { s with sched := { s.sched with
      board := s.sched.board.map fun e =>
        if e.joined.isNone ∧ isReady s e then { e with joined := some s.device.time } else e } }
  mark (issueReady (s.sched.board.length + 1) (mark s))

/-! Command streams (R268) -/

/-- The registers of a stream. -/
def cmdStream (s : State) (n : Nat) : CmdStream := s.sched.streams.getD n CmdStream.reset

/-- Replaces the registers of a stream; an index beyond the ring sets SERR (R268). -/
def setStream (s : State) (n : Nat) (c : CmdStream) : State :=
  let bad := c.en ∧ 2 ^ c.log2 < (c.widx - c.ridx).toNat
  { s with sched := { s.sched with streams := s.sched.streams.setIfInBounds n { c with serr := c.serr ∨ bad } } }

/-- STREAM_DOORBELL: a write of SWIDX (R268). -/
def execStreamDoorbell (s : State) : Out :=
  ownerWrite s fun s =>
    setStream s s.input.index { cmdStream s s.input.index with widx := s.input.value.setWidth 32 }

/-- The stream has a record to decode. -/
def hasRecord (s : State) (n : Nat) : Bool :=
  let c := cmdStream s n
  c.en ∧ ¬ c.serr ∧ c.ridx ≠ c.widx

/-- The stream whose record the command core decodes next: round-robin (R268); none while the scoreboard is full or the
command core has not reported ready (R272, R311). -/
def nextStream (s : State) : Option Nat :=
  if 256 ≤ s.sched.board.length ∨ ¬ s.plat.ready.getLsbD 59 then none
  else ((List.range 64).map fun i => (s.sched.turn + i) % 64).find? (hasRecord s)

/-- A record that R269 admits.
DEDUCED: log entry 30. -/
def recordOk (own : Bool) (r : List Byte) : Bool :=
  let kind := field r 0 1
  let flags := field r 1 1
  kind ≤ 4 && flags < 32 && (kind = 1 || flags < 8) && field r 2 1 < 32 && (field r 2 1 ≠ 31 || own)
  && field r 3 1 < 64 && field r 4 1 < 64 && field r 5 3 = 0
  && (match kind with
      | 1 => true
      | 2 => field r 0x30 16 = 0
      | 4 => field r 0x1A 6 = 0 && field r 0x30 16 = 0
      | _ => field r 0x18 40 = 0)

/-- The lowest free number of the scoreboard.
DESIGN CHOICE: log entry 29. -/
def freeEntry (s : State) : Nat := ((List.range 256).find? fun i => s.sched.board.all fun e => e.id ≠ i).getD 0

/-- The scoreboard entry of a record. -/
def entryOfRecord (s : State) (n : Nat) (r : List Byte) : Score :=
  let flags := field r 1 1
  { id := freeEntry s, stream := n, kind := field r 0 1, state := .waiting
    ord := if flags % 2 = 1 then (cmdStream s n).prev else none
    wait := if flags / 2 % 2 = 1 then some (field r 3 1, BitVec.ofNat 64 (field r 8 8)) else none
    signal := if flags / 4 % 2 = 1 then some (field r 4 1, BitVec.ofNat 64 (field r 0x10 8)) else none
    level := field r 2 1, joined := none, bytes := r, launch := none, home := [], placed := 0, gangs := [], retired := []
    nerr := 0, status := 0, tend := 0, avail := [], killed := false, misses := 0, moved := false }

/-- The command core decodes the next record of the stream that the event names, if it is of this kind; a record that R269
does not admit, or whose bytes are poisoned or stand in a failed stack, sets SERR (R268, R269, R338, R368); one in a stack that is
not ready waits (R311). -/
def decodeRecord (kind : Nat) (s : State) : State :=
  let n := s.input.index
  if nextStream s ≠ some n then s
  else
    let c := cmdStream s n
    let pa := (c.base.toNat + c.ridx.toNat % 2 ^ c.log2 * 64) % 2 ^ 48
    let r := Mem.readBytes s.memory.home pa 64
    if s.stackWaits [pa] then s
    else if s.memory.poison.contains pa ∨ s.stackFailed pa then
      setStream (s.record none (State.memoryBody 0x11 (if s.memory.poison.contains pa then 5 else 1) (homeSlice pa) 1 pa 0 0xFFFFFFFF)) n { c with serr := true }
    else if ¬ recordOk c.own r then setStream s n { c with serr := true }
    else if field r 0 1 ≠ kind then s
    else
      let e := entryOfRecord s n r
      let s1 := { s with sched := { s.sched with board := s.sched.board ++ [e], turn := (n + 1) % 64 } }
      pumpBoard (setStream s1 n { c with ridx := c.ridx + 1, prev := some e.id })

/-- NOP_RECORD (R269, R272). -/
def execNopRecord (s : State) : Out := .next (decodeRecord 0 s)
/-- LAUNCH_RECORD (R269, R272). -/
def execLaunchRecord (s : State) : Out := .next (decodeRecord 1 s)
/-- XFER_RECORD (R269, R272). -/
def execXferRecord (s : State) : Out := .next (decodeRecord 2 s)
/-- FSIG_RECORD (R269, R272). -/
def execFsigRecord (s : State) : Out := .next (decodeRecord 3 s)
/-- INVAL_RECORD (R269, R272). -/
def execInvalRecord (s : State) : Out := .next (decodeRecord 4 s)

/-- An entry of a kind that has issued. -/
def issuedEntry (s : State) (kind : Nat) : Option Score :=
  s.sched.board.find? fun e => e.id = s.input.index ∧ e.kind = kind ∧ e.state = .issued

/-- The bytes of a transfer at their places (R272): into the device's memory at once, to the host as requests. Poison travels with a
unit inside the device (R337). -/
def moveBytes (s : State) (e : Score) (bs : List Byte) : State :=
  let src := xferEnd (field e.bytes 0x18 8)
  let dst := xferEnd (field e.bytes 0x20 8)
  let n := field e.bytes 0x28 8
  if dst.1 then s.sendUnits (bs.zipIdx.map fun p => (regionBase hostRegion + dst.2 + p.2, p.1)) (.xfer e.id)
  else
    let s1 := s.install (bs.zipIdx.map fun p => (s.device.viewOf (dst.2 + p.2), p.1))
    let hit := if src.1 then [] else
      (s.memory.poison.filter fun u => src.2 < u + 64 ∧ u < src.2 + n).map fun u => (dst.2 + (u - src.2)) / 64 * 64
    if hit.isEmpty then s1
    else { s1 with memory := { s1.memory with poison := (s1.memory.poison ++ hit).eraseDups } }

/-- XFER_DONE: every byte is installed and published (R272). The bytes of a host address come with the event; bytes for the host
leave at its first event, and the transfer is done at a later one, when the host has answered for them. It waits for stacks that
are not ready (R311). -/
def execXferDone (s : State) : Out :=
  match issuedEntry s 2 with
  | none => .next s
  | some e =>
    let src := xferEnd (field e.bytes 0x18 8)
    let dst := xferEnd (field e.bytes 0x20 8)
    let n := field e.bytes 0x28 8
    let bad (a : Nat) : Bool := physKind s.device.sscfg a ≠ .hbm ∧ physKind s.device.sscfg a ≠ .stacked
    if ¬ src.1 ∧ bad src.2 then .fault (.reservedAddress src.2)
    else if ¬ dst.1 ∧ bad dst.2 then .fault (.reservedAddress dst.2)
    else if s.stackWaits ((if src.1 then [] else bytesAt src.2 n) ++ (if dst.1 then [] else bytesAt dst.2 n)) then .next s
    else if e.moved then
      .next (if s.memory.reqs.any fun r => r.owner = .xfer e.id then s else pumpBoard (finishEntry s e))
    else
      let bs := if src.1 then (List.range n).map fun i => s.input.bytes.getD i 0
        else (bytesAt src.2 n).map fun a => s.homeByte (s.device.viewOf a)
      let s1 := moveBytes s e bs
      .next (if dst.1 then s1.setScore { e with moved := true } else pumpBoard (finishEntry s1 e))

/-- A TLB entry lies in the range of an INVAL (R269). -/
def invalHits (e : Score) (t : TlbEntry) : Bool :=
  let va := field e.bytes 0x20 8
  let n := field e.bytes 0x28 8
  t.asn = BitVec.ofNat 16 (field e.bytes 0x18 2) ∧ (n = 0 ∨ (t.base < va + n * 65536 ∧ va < t.base + t.size))

/-- A request's location was translated from its virtual address. -/
def translated (r : RemoteReq) : Bool :=
  match r.op, r.owner with
  | .data _, _ | .notice .., _ | _, .xfer _ => false
  | _, _ => true

/-- An access that was translated through an entry of the range may neither have performed nor have been accepted into staging
(R81): a request of the task in focus, or an ordered access that is held for a task of the address space. -/
def invalWaits (s : State) (e : Score) : Bool :=
  let asn : BitVec 16 := BitVec.ofNat 16 (field e.bytes 0x18 2)
  let va := field e.bytes 0x20 8
  let n := field e.bytes 0x28 8
  let mine (entry : Nat) : Bool := match (s.score entry).bind (·.launch) with | some l => l.asn = asn | none => false
  (s.launch.asn = asn ∧
    s.memory.reqs.any fun r => translated r ∧ (n = 0 ∨ (va ≤ r.va.toNat ∧ r.va.toNat < va + n * 65536)))
    ∨ s.ordered.held.any fun h => mine h.dom.launch

/-- INVAL_DONE: no TLB holds an entry of the range, and no access translated through one is on its way (R81, R272). -/
def execInvalDone (s : State) : Out :=
  match issuedEntry s 4 with
  | none => .next s
  | some e =>
    let s := s.dropTlb (invalHits e)
    .next (if invalWaits s e then s else pumpBoard (finishEntry s e))

/-! The checks of a launch -/

/-- Domain sizes with those of undeclared levels (R38). -/
def shapeOf (h : Header) (l : Launch) : Nat × Nat × Nat :=
  let m2 := if h.ndom < 2 then l.m1 else l.m2
  (l.m1, m2, if h.ndom < 3 then m2 else l.m3)

/-- The shape obeys R37, and NTASK is whole gangs (R38). -/
def shapeOk (h : Header) (l : Launch) : Bool :=
  let (m1, m2, m3) := shapeOf h l
  1 ≤ m1 && m1 ≤ 4 && 1 ≤ m2 && m2 ≤ 64 && m2 % m1 = 0 && 1 ≤ m3 && m3 ≤ 256 && m3 % m2 = 0 && l.ntask % m3 = 0

/-- The product of the mesh axes (R86). -/
def meshSize (mesh : Word) : Nat := (List.range 4).foldl (fun p a => p * axisSize mesh a) 1

/-- The group's descriptor at launch. -/
def launchGroup (s : State) (l : Launch) : Option Descriptor :=
  match readDescriptor (launchView s l) l.group.toNat with
  | .ok d _ => some d
  | _ => none

/-- Group rank and size of this device; none where the launch fails with "domain shape" (R38, R86, R301). -/
def groupOf (s : State) (h : Header) (l : Launch) : Option (Nat × Nat) :=
  if l.group = 0 then
    if h.ndom = 4 ∨ meshSize l.mesh ≠ 1 then none else some (0, 1)
  else
    match launchGroup s l with
    | none => none
    | some d =>
      if ¬ s.fabric.devset ∨ meshSize l.mesh ≠ d.ranks.length ∨ (d.ranks.filter (· = s.fabric.devid)).length ≠ 1 then none
      else some ((d.ranks.findIdx? (· = s.fabric.devid)).getD 0, d.ranks.length)

/-- Every page of a range is writable and of MODE 0 or 4 (R270). -/
def rangeOk (s : State) (l : Launch) (va n : Nat) : Bool :=
  n = 0 ∨
    (List.range ((va + n - 1) / 65536 - va / 65536 + 1)).all fun i =>
      match (launchView s l).leafOf ((va / 65536 + i) * 65536) with
      | .ok (leaf, _) => Leaf.w leaf ∧ (Leaf.mode leaf = 0 ∨ Leaf.mode leaf = 4)
      | .error _ => false

/-- Bytes of a task's private area (R46). -/
def privSize (l : Launch) : Nat := 65536 * (l.tpriv.toNat / 2 ^ 52)

/-- The base of task i's private area (R46). -/
def privBase (l : Launch) (i : Nat) : Nat := l.tpriv.toNat % 2 ^ 52 + i * privSize l

/-- The addresses of the launch block (R270). -/
def blockOk (s : State) (h : Header) (l : Launch) : Bool :=
  let data := (h.table 1).2
  l.save.toNat % 65536 = 0 && l.tpriv.toNat % 2 ^ 52 % 65536 = 0 && l.data.toNat % 4096 = 0
  && (if data = 0 then l.data = 0 else l.data ≠ 0)
  && rangeOk s l l.save.toNat (l.ntask * (slotPart + h.scratch)) && rangeOk s l l.crec.toNat 64
  && rangeOk s l (privBase l 0) (l.ntask * privSize l) && rangeOk s l l.data.toNat data

/-- The DATA section in the launch's data area (R270, R316). -/
def copyData (s : State) (h : Header) (l : Launch) (img : List Byte) : State :=
  let t := h.table 1
  if t.2 = 0 then s else launchWrite s l l.data.toNat ((img.drop t.1).take t.2)

/-- The available cores (R56, R311, R345): of dies whose CORE and LLC bits are set, and not failed. -/
def availableCores (s : State) : List Nat :=
  (List.range 256).filter fun c =>
    s.plat.ready.getLsbD (12 + c / 64) ∧ s.plat.ready.getLsbD (16 + c / 64) ∧ ¬ s.sched.failed.contains c

/-- A set of cores as 32 bytes (R271). -/
def coreBits (cs : List Nat) : List Byte := natToBytes 32 (cs.foldl (fun a c => a ||| 2 ^ c) 0)

/-- What the homes hold of the ordered accesses of a launch that has ended, in intervals that no task will close any more, goes
(DEDUCED, log entry 24). -/
def dropOrdered (s : State) (entry : Nat) : State :=
  { s with ordered := { s.ordered with
      held := s.ordered.held.filter fun h => h.dom.launch ≠ entry
      markers := s.ordered.markers.filter fun m => m.1.launch ≠ entry } }

/-- The completion record and the signal of a launch that has ended (R271). -/
def completeLaunch (s : State) (e : Score) : State :=
  let s := dropOrdered s e.id
  let l := e.launch.getD (launchOf s e)
  let rec_ := natToBytes 4 e.status ++ natToBytes 4 e.nerr ++ natToBytes 8 e.tend ++ natToBytes 16 0 ++ coreBits e.avail
  pumpBoard (finishEntry (launchWrite s l l.crec.toNat rec_) e)

/-- A launch fails before any task starts (R271). -/
def failLaunch (s : State) (e : Score) (status : Nat) : State :=
  completeLaunch s { e with status := status, tend := s.device.time, avail := availableCores s }

/-- Every memory stack has reported ready or failed (R311, R368). -/
def stacksSettled (s : State) : Bool := (s.plat.ready ||| s.plat.error).extractLsb' 0 12 = 0xFFF

/-- LAUNCH_ISSUE: the first ready launch is checked and accepted, or fails (R38, R44, R242, R270, R274, R295, R335). It waits until
no access of the launch can meet a stack that is not ready (R311; DEDUCED, log entry 25).
DEDUCED: log entry 11. -/
def execLaunchIssue (s : State) : Out :=
  match firstEntry (s.sched.board.filter fun e => e.kind = 1 ∧ isReady s e) with
  | none => .next s
  | some e =>
    if e.id ≠ s.input.index ∨ ¬ stacksSettled s then .next s
    else
      let l := launchOf s e
      match launchRead s l l.image.toNat 128, imageBytes s l with
      | some hb, some img =>
        let h := Header.ofBytes hb
        if l.image.toNat % 4096 ≠ 0 ∨ ¬ headerOk hb ∨ (l.det ∧ ¬ h.detok) ∨ ¬ tablesOk l.det img then .next (failLaunch s e 1)
        else
          let s1 := copyData s h l img
          let shaped := if shapeOk h l then groupOf s1 h l else none
          match shaped with
          | none => .next (failLaunch s e 2)
          | some (g, size) =>
            let (m1, m2, m3) := shapeOf h l
            match launchRead s l (field e.bytes 0x30 8) 64 with
            | none => .next (failLaunch s e 3)
            | some args =>
              if ¬ blockOk s h l then .next (failLaunch s e 3)
              else
                let l := { l with
                  check := (hb.drop 0x78).take 8, header := h, tables := ImageTables.ofBytes img, m1 := m1, m2 := m2, m3 := m3, rank4 := g, gsize := size
                  args := (List.range 8).map fun i => BitVec.ofNat 64 (field args (8 * i) 8) }
                .next ({ s1 with
                  channel := s1.channel.forget e.id
                  memory := { s1.memory with
                    cached := if s1.memory.cachedBy = e.id then [] else s1.memory.cached } }.setScore { e with
                  state := .issued, launch := some l, home := s1.memory.home, avail := availableCores s })
      | _, _ => .next (failLaunch s e 1)

/-- LAUNCH_AGEING: after an AGEINT at its level a ready launch rises by one (R273). -/
def execLaunchAgeing (s : State) : Out :=
  match s.score s.input.index with
  | none => .next s
  | some e =>
    match e.joined with
    | none => .next s
    | some t =>
      if e.kind = 1 ∧ e.placed = 0 ∧ e.level < 30 ∧ s.sched.ageint ≠ 0 ∧ t + s.sched.ageint * 1000 ≤ s.device.time then
        .next (s.setScore { e with level := e.level + 1, joined := some s.device.time })
      else .next s

/-! Placement (R56 to R58) -/

/-- Cores that no task holds. -/
def freeCores (s : State) : List Nat := (availableCores s).filter fun c => s.sched.occupied.all fun o => o.core ≠ c

/-- Cores of a cluster in a list. -/
def inCluster (cs : List Nat) (k : Nat) : List Nat := cs.filter fun c => c / 4 = k

/-- One level-2 domain on the lowest die that has the clusters (R57): k clusters with m1 free cores each, outside those
taken. -/
def placeLevel2 (free taken : List Nat) (m1 k : Nat) : Option (List Nat × List Nat) :=
  (List.range 4).findSome? fun d =>
    let cl := ((List.range 16).map fun i => 16 * d + i).filter fun c => ¬ taken.contains c ∧ m1 ≤ (inCluster free c).length
    if k ≤ cl.length then some ((cl.take k).flatMap fun c => (inCluster free c).take m1, taken ++ cl.take k) else none

/-- The level-2 domains of a gang, one after the other (R57). -/
def placeLevels (free : List Nat) (m1 k : Nat) : (n : Nat) → (taken cores : List Nat) → Option (List Nat)
  | 0, _, cores => some cores
  | n + 1, taken, cores =>
    match placeLevel2 free taken m1 k with
    | none => none
    | some r => placeLevels free m1 k n r.2 (cores ++ r.1)

/-- The cores of a gang by R57. -/
def placeFree (free : List Nat) (m1 m2 m3 : Nat) : Option (List Nat) := placeLevels free m1 (m2 / m1) (m3 / m2) [] []

/-- Blocks of m1 cores that the clusters of a die can still take. -/
def dieBlocks (rem : List Nat) (m1 d : Nat) : Nat :=
  (List.range 16).foldl (fun a i => a + (inCluster rem (16 * d + i)).length / m1) 0

/-- With these cores chosen for the first tasks of a gang, in order, the rest can be placed under R37 (R58). -/
def canFinish (avail chosen : List Nat) (m1 m2 m3 : Nat) : Bool :=
  let last := chosen.getLast?.getD 0
  let n := chosen.length
  let rem := avail.filter fun c => ¬ chosen.contains c
  let p1 := (m1 - n % m1) % m1
  let room := (inCluster rem (last / 4)).length
  let rem := rem.filter fun c => ¬ ((inCluster rem (last / 4)).take p1).contains c
  let n1 := n + p1
  let p2 := ((m2 - n1 % m2) % m2) / m1
  let here := dieBlocks rem m1 (last / 64)
  let rest := (m3 - (n1 + p2 * m1)) / m2
  let per := m2 / m1
  let more := (List.range 4).foldl (fun a d =>
    a + (dieBlocks rem m1 d - (if d = last / 64 then p2 else 0)) / per) 0
  (p1 = 0 || p1 ≤ room) && (p2 = 0 || p2 ≤ here) && rest ≤ more

/-- The cores at which the next task of a gang may stand (R58). -/
def candidates (avail chosen : List Nat) (m1 m2 m3 : Nat) : List Nat :=
  let n := chosen.length
  let last := chosen.getLast?.getD 0
  avail.filter fun c =>
    ¬ chosen.contains c ∧ (n % m1 ≠ 0 → c / 4 = last / 4) ∧ (n % m2 ≠ 0 → c / 64 = last / 64)
      ∧ canFinish avail (chosen ++ [c]) m1 m2 m3

/-- The cores of a gang by R58; task `i` is the next one. -/
def placeDrawn (seed : Word) (avail : List Nat) (m1 m2 m3 : Nat) : (n i : Nat) → (chosen : List Nat) → Option (List Nat)
  | 0, _, chosen => some chosen
  | n + 1, i, chosen =>
    let cs := candidates avail chosen m1 m2 m3
    match cs[philox seed i 0xFFFFFFFF 0xFFFFFFFF 0xFFFFFFFF % 2 ^ 32 % cs.length]? with
    | none => none
    | some c => placeDrawn seed avail m1 m2 m3 n (i + 1) (chosen ++ [c])

/-- The cores of the next gang of a launch, if it can be placed on these free cores now. -/
def placeNext (l : Launch) (avail free : List Nat) (first : Nat) : Option (List Nat) :=
  if l.det then
    match placeDrawn l.seed avail l.m1 l.m2 l.m3 l.m3 first [] with
    | some cs => if cs.all free.contains then some cs else none
    | none => none
  else placeFree free l.m1 l.m2 l.m3

/-- Gangs of a launch (R42). -/
def gangCount (l : Launch) : Nat := l.ntask / l.m3

/-- The launch has gangs to place. -/
def placing (e : Score) : Bool :=
  match e.launch with
  | some l => e.state = .issued ∧ e.placed < gangCount l ∧ e.misses < 3 ∧ ¬ e.killed
  | none => false

/-- A gang that was saved waits to resume. -/
def resuming (e : Score) : Bool := e.state = .issued ∧ e.gangs.any (·.parked)

/-- The gangs that wait to resume, with their launches. -/
def parkedGangs (s : State) : List (Score × Gang) :=
  (s.sched.board.filter (·.state = .issued)).flatMap fun e => (e.gangs.filter (·.parked)).map fun g => (e, g)

/-- The first of them: at the highest level the one that joined its head last (R273, R276). -/
def headParked (s : State) : Option (Score × Gang) :=
  match parkedGangs s with
  | [] => none
  | p :: ps => some (ps.foldl (fun a b =>
      if a.1.level < b.1.level ∨ (a.1.level = b.1.level ∧ a.2.order < b.2.order) then b else a) p)

/-- The launch whose gang is placed next: the first in the order of R273, where a saved gang stands at the head of its level (R56,
R276). One that is ready and has not issued holds back those behind it, and so does one whose gang cannot be placed, at whatever
level they stand (DESIGN CHOICE, log entry 59). -/
def nextLaunch (s : State) : Option Score :=
  let first := firstEntry (s.sched.board.filter fun e => placing e ∨ (e.kind = 1 ∧ isReady s e))
  match headParked s, first with
  | some r, some e => if e.level ≤ r.1.level then some r.1 else if e.state = .issued then some e else none
  | some r, none => some r.1
  | none, some e => if e.state = .issued then some e else none
  | none, none => none

/-- Cores of the gang's tasks in the list of occupied cores. -/
def occupy (s : State) (entry first : Nat) (cores : List Nat) (started : Bool) : State :=
  { s with sched := { s.sched with
    occupied := s.sched.occupied ++ cores.zipIdx.map fun c => ⟨c.1, entry, first + c.2, started⟩ } }

/-! Images at the dispatchers (R274) -/

/-- The image of a launch that a cluster holds. -/
def residentAt (s : State) (cluster : Nat) (l : Launch) : Option Resident :=
  s.sched.residents.find? fun r => r.cluster = cluster ∧ r.image = l.image ∧ r.asn = l.asn ∧ r.check = l.check

/-- An image is resident at a cluster, the least recently used of four giving way. -/
def makeResident (s : State) (cluster : Nat) (l : Launch) (img : List Byte) : State :=
  let mine (r : Resident) : Bool := r.cluster = cluster ∧ r.image = l.image ∧ r.asn = l.asn ∧ r.check = l.check
  let others := (s.sched.residents.filter fun r => r.cluster = cluster ∧ ¬ mine r).take 3
  { s with sched := { s.sched with
      residents := ⟨cluster, l.image, l.asn, l.check, img⟩ :: others ++ s.sched.residents.filter fun r => r.cluster ≠ cluster } }

/-- The blocks of 256 bytes of an image. -/
def imageBlocks (bs : List Byte) : List (List Byte) :=
  (List.range ((bs.length + 255) / 256)).map fun i => (bs.drop (256 * i)).take 256

/-- The shadow copy that a dispatcher makes of an old image: the blocks whose CRC differs are sent. -/
def shadowImage (old img : List Byte) : List Byte :=
  ((imageBlocks img).zipIdx.map fun b =>
    match (imageBlocks old)[b.2]? with
    | some o => if crc32c o = crc32c b.1 then o else b.1
    | none => b.1).flatten

/-- The blocks that a transfer of an image over an old one sends. -/
def blocksSent (old img : List Byte) : Nat :=
  ((imageBlocks img).zipIdx.filter fun b =>
    match (imageBlocks old)[b.2]? with
    | some o => crc32c o ≠ crc32c b.1
    | none => true).length

/-- The image of the dispatcher of which the fewest blocks differ, the last used of several (DESIGN CHOICE, log entry 29). -/
def closestImage (s : State) (cluster : Nat) (img : List Byte) : List Byte :=
  ((s.sched.residents.filter fun r => r.cluster = cluster).map (·.bytes)).foldl
    (fun a b => if blocksSent b img < blocksSent a img then b else a) []

/-- The transfer of an image to a cluster: the shadow copy, unless its CRC differs from the image's. -/
def transferImage (s : State) (cluster : Nat) (img : List Byte) : Option (List Byte) :=
  let x := shadowImage (closestImage s cluster img) img
  if crc32c x = crc32c img then some x else none

/-- The image of a launch has to be sent to a cluster. -/
def wantsImage (s : State) (l : Launch) (reload : Bool) (cluster : Nat) : Bool := reload ∨ (residentAt s cluster l).isNone

/-- The image is made resident at the clusters of a gang; none where a transfer does not match. -/
def placeImages (l : Launch) (reload : Bool) (img : List Byte) : List Nat → State → Option State
  | [], s => some s
  | c :: cs, s =>
    match (if reload then none else residentAt s c l) with
    | some r => placeImages l reload img cs (makeResident s c l r.bytes)
    | none =>
      match transferImage s c img with
      | some x => placeImages l reload img cs (makeResident s c l x)
      | none => none

/-- The image transfer of a launch has failed: no more gangs of it are placed, and with none placed it ends at once (R271, R274). -/
def imageFailed (s : State) (e : Score) : State :=
  let e := { e with misses := 3, status := 4 }
  if e.placed = 0 then completeLaunch s { e with tend := s.device.time } else s.setScore e

/-- The gang is placed on its cores. -/
def placeGang (s : State) (e : Score) (first : Nat) (cores : List Nat) : State :=
  let g : Gang := ⟨first, cores, s.sched.nextGang, false, [], false, []⟩
  let s := (occupy s e.id first cores false).setScore { e with placed := e.placed + 1, gangs := e.gangs ++ [g], misses := 0 }
  { s with sched := { s.sched with nextGang := s.sched.nextGang + 1 } }

/-- GANG_PLACE: the next gang of the first launch is placed on free cores, and the image made resident at its clusters; with
`flag` a transfer that this needs has met a mismatch (R56 to R58, R274). -/
def execGangPlace (s : State) : Out :=
  match nextLaunch s with
  | none => .next s
  | some e =>
    match e.launch with
    | none => .next s
    | some l =>
      if e.id ≠ s.input.index ∨ resuming e then .next s
      else
        let first := e.placed * l.m3
        match placeNext l e.avail (freeCores s) first with
        | none => .next s
        | some cores =>
          let reload : Bool := field e.bytes 1 1 / 16 % 2 = 1
          let clusters := (cores.map (· / 4)).eraseDups
          let moves := clusters.any (wantsImage s l reload)
          match (if moves then imageBytes s l else some []) with
          | none => .next (imageFailed s e)
          | some img =>
            match (if moves ∧ s.input.flag then none else placeImages l reload img clusters s) with
            | some s => .next (placeGang s e first cores)
            | none =>
              .next (if e.misses < 2 then s.setScore { e with misses := e.misses + 1 } else imageFailed s e)

end Sys2Proof.Machine
end

