-- ==== Sys2Proof/Machine/Tasks.lean ====
section
/-! DEFINITION. The life of a task: start, retirement, kills, pre-emption, resumption, the failure of a core, and the debug
interface (R45, R46, R59 to R64, R110, R225, R271, R276, R277, R315, R333, R345, R362, R363). -/

namespace Sys2Proof.Machine

/-! Clearing and starting -/

/-- An ordered access that its homes go on holding when its task has left: nothing waits for its value (R63, R296). -/
def Held.left (h : Held) : Held := { h with mine := false, slot := none, vec := false }

/-- What belongs to one task as it stands before a start and after it has left: registers, queues, FIFOs, tags, barriers,
pending writes, Reel, helper and Caller (R45, R63). What the homes hold stays. -/
def clearTask (s : State) : State :=
  let r := State.reset
  { s with
    pc := 0, regs := r.regs, trap := r.trap, vregs := r.vregs, kregs := r.kregs, mregs := r.mregs, rebase := r.rebase
    fpstat := 0, fpPend := 0, isn := 0, wait := none, waitClk := 0, waitKind := 0, seen := []
    queues := r.queues, ret := [], nextRet := 0, fmt := [], nextFmt := 0, sitout := [], tags := r.tags, bars := r.bars
    domArr := r.domArr
    memory := { s.memory with
      own := [], staging := [], stagingBad := false, roOwn := [], wrote := [], l1 := [], blocks := [], descs := [], uncertain := [], vatom := none
      failed := [], engDone := [], peerSnap := [], peerImm := [] }
    ordered := { s.ordered with held := s.ordered.held.map Held.left, interval := 0 }
    revocable := false, phased := false, ckpt := none, wake := false, breakOn := false, killed := none
    matrix := { s.matrix with invalid := [], reload := false }
    reel := r.reel, helper := r.helper, caller := r.caller
    channel := { s.channel with mine := 0 }
    coll := { s.coll with live := [], counts := [] }
    group := { s.group with waits := [] }
    reshards := [] }

/-- The weight buffers of a core rank belong to no core any more (R221). -/
def releaseBufs (s : State) (r : BitVec 2) : State :=
  { s with matrix := { s.matrix with bufs := s.matrix.bufs.map fun b => if b.owner = some r then { b with owner := none } else b } }

/-- The task has left the core in focus (R63): cleared, its lease and buffers given up. -/
def leaveCore (s : State) : State := { releaseBufs (clearTask s.endLease) (coreRank s) with status := .none }

/-- The image that a launch's task runs: that which is resident at the cluster, else as the launch read it (R274). -/
def taskImage (s : State) (l : Launch) (core : Nat) : List Byte :=
  match residentAt s (core / 4) l with
  | some r => r.bytes
  | none => (imageBytes s l).getD []

/-- The task block (R46). -/
def taskBlock (l : Launch) (i : Nat) : List Byte :=
  natToBytes 8 i ++ natToBytes 8 l.ntask ++ l.args.flatMap (fun w => natToBytes 8 w.toNat)
    ++ natToBytes 8 (saveSlot l.header l i) ++ natToBytes 8 l.crec.toNat ++ natToBytes 8 l.ttab.toNat
    ++ natToBytes 8 l.group.toNat ++ natToBytes 8 l.data.toNat ++ List.replicate 136 0

/-- The scratchpads of the level-1 domain at its start: SCRIMG at offset 0, the rest zero (R45). -/
def startScratch (l : Launch) (img : List Byte) : Mem :=
  let t := l.header.table 2
  let bs := (img.drop t.1).take t.2
  (List.range l.m1).foldl (fun m r => Mem.writeAll m (bs.zipIdx.map fun p => (r * 2 ^ 20 + p.2, p.1))) []

/-- The Caller's terms at task start: those of the image, armed unless all zero (R256). -/
def startTerms (ts : List (BitVec 128)) : Caller :=
  { terms := Vector.ofFn fun i => let w := ts.getD i.val 0; ⟨w, decide (w ≠ 0), 0, false, false, none⟩, pulses := [] }

/-- The registers at task start (R45). -/
def startRegs (s : State) (l : Launch) : State :=
  let s := (List.range 8).foldl (fun s i => s.setReg (BitVec.ofNat 6 (i + 1)) (l.args.getD i 0)) s
  let base := if privSize l = 0 then 0 else privBase l l.task
  ((s.setReg 60 l.data).setReg 61 (BitVec.ofNat 64 base)).setReg 62 (BitVec.ofNat 64 (base + privSize l))

/-- The state of the core in focus at a task's first instruction (R45). Fabric-cached copies of another launch are dropped (R106,
DEDUCED, log entry 60). -/
def startTask (s : State) (e : Score) (l : Launch) (i : Nat) : State :=
  let img := taskImage s l s.core.toNat
  let other := l.group ≠ s.launch.group ∨ l.asn ≠ s.launch.asn
  let l := { l with task := i, tables := if img.isEmpty then l.tables else ImageTables.ofBytes img }
  let s := clearTask s
  let s := { s with
    launch := l
    status := .running
    pc := l.image + BitVec.ofNat 64 ((l.header.table 0).1 + l.header.entry)
    revocable := !l.header.tailm
    caller := startTerms l.tables.terms
    channel := s.channel.focus e.id (imageTable l)
    group := if other then { s.group with cached := none } else s.group
    memory := { s.memory with
      roBase := e.home, scratch := startScratch l img, scrPoison := []
      cached := if s.memory.cachedBy = e.id then s.memory.cached else [], cachedBy := e.id } }
  (releaseBufs (startRegs s l) (coreRank s)).openSnap false

/-- A rerun from the last phase checkpoint (R62): the started task with the state that the checkpoint holds. -/
def resumeCheckpoint (s : State) (c : Checkpoint) : State :=
  let s := (List.range 63).foldl (fun s i =>
    s.setReg (BitVec.ofNat 6 (i + 1)) (c.regs.getD (i + 1) 0)) s
  { s with
    pc := c.pc, kregs := c.kregs, mregs := c.mregs, rebase := c.rebase, fpstat := c.fpstat
    trap := { s.trap with trapen := c.trapen }
    ordered := { s.ordered with interval := c.interval }
    isn := c.isn, bars := c.bars, phased := true, ckpt := some c
    matrix := { s.matrix with invalid := c.ranges }
    caller := { s.caller with
      terms := Vector.ofFn fun i => { (s.caller.terms[i.val]'i.isLt) with armed := c.arms.getD i.val false } } }

/-- The occupant of a core. -/
def occupantOf (s : State) (core : Nat) : Option Occupant := s.sched.occupied.find? fun o => o.core = core

/-- The task in focus stands on the core that an event names: one that has been saved, or has left by TAIL, does so no more. -/
def atFocus (s : State) (core : Nat) : Bool :=
  core = s.core.toNat ∧ s.status ≠ .none ∧ s.status ≠ .saved ∧ s.status ≠ .tailed

/-- The core in focus has no task and its tracker has drained: a task that starts there comes into focus (DESIGN CHOICE, log entry 2). -/
def focusFree (s : State) (core : Nat) : Bool := core = s.core.toNat ∧ s.status = .none

/-- The occupant has started. -/
def markStarted (s : State) (core : Nat) : State :=
  { s with sched := { s.sched with
    occupied := s.sched.occupied.map fun o => if o.core = core then { o with started := true } else o } }

/-- A core to which a task of a failed core may go: the lowest free one that keeps R37 for its domains (R61).
DESIGN CHOICE: log entry 10. -/
def rerunCore (s : State) (l : Launch) (core : Nat) : Option Nat :=
  (freeCores s).find? fun c => (l.m1 > 1 → c / 4 = core / 4) ∧ (l.m2 > l.m1 → c / 64 = core / 64)

/-- A task of a failed core moves to the core where it reruns (R61); the focus follows it. -/
def moveTask (s : State) (core new : Nat) : State :=
  let s1 := { s with sched := { s.sched with
    occupied := s.sched.occupied.map fun o => if o.core = core then { o with core := new } else o } }
  if focusFree s core then { s1 with core := BitVec.ofNat 8 new } else s1

/-- A task has ended: its core is free, and the launch counts it (R63, R271). -/
def endTask (s : State) (entry task : Nat) (error : Bool) : State :=
  let s := { s with sched := { s.sched with
    occupied := s.sched.occupied.filter fun o => ¬ (o.entry = entry ∧ o.task = task) } }
  match s.score entry with
  | none => s
  | some e =>
    s.setScore { e with
      retired := e.retired ++ [task]
      tend := max e.tend s.device.time
      nerr := if error then e.nerr + 1 else e.nerr
      status := if error ∧ e.status = 0 then 5 else e.status }

/-- The task starts in focus: from its first instruction, or as a rerun from its checkpoint, which is killed where that has an
uncorrectable error (R45, R61, R62). -/
def beginFocus (s : State) (e : Score) (l : Launch) (o : Occupant) : State :=
  match (if s.launch.entry = o.entry ∧ s.launch.task = o.task then s.ckpt else none) with
  | none => startTask s e l o.task
  | some c => if checkpointBad s then leaveCore (endTask s o.entry o.task true) else resumeCheckpoint (startTask s e l o.task) c

/-- The task starts on its core (R45, R46, R62). -/
def beginTask (s : State) (core : Nat) : State :=
  match occupantOf s core with
  | none => s
  | some o =>
    match s.score o.entry with
    | none => s
    | some e =>
      match e.launch with
      | none => s
      | some l =>
        let s1 := if privSize l = 0 then s else launchWrite s l (privBase l o.task) (taskBlock l o.task)
        let s2 := markStarted s1 core
        if focusFree s core then beginFocus s2 e l o else s2

/-- TASK_START: the task placed on the core that the event names starts there; a task of a failed core moves first. Halted cores
start none (R309, R312), nor does a core in focus whose task has not left. -/
def execTaskStart (s : State) : Out :=
  match occupantOf s s.input.index with
  | none => .next s
  | some o =>
    let core := s.input.index
    if o.started ∨ atFocus s core ∨ s.coresHalted then .next s
    else if s.sched.failed.contains core then
      match (s.score o.entry).bind fun e => e.launch.bind fun l => rerunCore s l core with
      | some new => .next (beginTask (moveTask s core new) new)
      | none => .next s
    else .next (beginTask s core)

/-! Retirement -/

/-- A write that the device makes for the task is on its way to another device. -/
def writeOut (r : RemoteReq) : Bool := match r.owner with | .xfer _ => false | _ => ¬ (State.reqLocs r).isEmpty

/-- Every engine write of the task is visible at device scope (R63): its collectives and reshards have ended, and nothing is on its
way. -/
def writesDone (s : State) : Bool :=
  s.coll.live.isEmpty ∧ s.reshards.isEmpty ∧ s.memory.reqs.all fun r => ¬ writeOut r

/-- What a killed task has started has completed (R333): its entries, copies, streams and actions. -/
def killDrained (s : State) : Bool :=
  enginesIdle s ∧ queueEmpty s .s ∧ s.channel.cmds.isEmpty ∧ repliesDone s

/-- The completion signal of the task in focus can rise (R63, R333). -/
def retireDue (s : State) : Bool := (s.status = .retired ∨ (s.status = .killed ∧ killDrained s)) ∧ writesDone s

/-- A task has been saved, and its gang waits to be requeued or to resume (R276). -/
def isSavedTask (s : State) (o : Occupant) : Bool :=
  match s.score o.entry with
  | some e => e.gangs.any fun g => g.saved.contains o.task
  | none => false

/-- TASK_RETIRE: the task in focus has left by EXIT, or was killed and has drained; or a task of another core has ended,
with `flag` in error (DESIGN CHOICE, log entry 2). -/
def execTaskRetire (s : State) : Out :=
  let core := s.input.index
  if atFocus s core then
    .next (if retireDue s then leaveCore (endTask s s.launch.entry s.launch.task false) else s)
  else
    match occupantOf s core with
    | none => .next s
    | some o => .next (if o.started ∧ ¬ isSavedTask s o then endTask s o.entry o.task s.input.flag else s)

/-- An entry of the core's tracker has drained (R64). -/
def trackedDone (s : State) (t : Tracked) : Bool :=
  match t.tag with
  | none => queueEmpty s .s
  | some n => (copiesHeld s).all fun c => c.tag.toNat ≠ n

/-- Writes given up that only the tracker or a context save waits for count in the task's NERR, with their record (R355). -/
def countUncertain (s : State) : State :=
  match uncertainTrap s with
  | some (_, s) => s.countError
  | none => s

/-- TAIL_TRACKER_DRAIN: entries that have drained leave the tracker; with none left and the writes performed, the task is
complete (R64). -/
def execTailTrackerDrain (s : State) : Out :=
  let keep := s.sched.tracker.filter fun t => ¬ (t.core = s.core.toNat ∧ trackedDone s t)
  let s := { s with sched := { s.sched with tracker := keep } }
  if s.status = .tailed ∧ (ownTracked s).isEmpty ∧ writesDone s then
    .next (leaveCore (endTask (countUncertain s) s.launch.entry s.launch.task false))
  else .next s

/-- Every placed task of a launch has ended, and no more are placed. -/
def launchEnded (e : Score) : Bool :=
  match e.launch with
  | none => false
  | some l =>
    e.retired.length = e.placed * l.m3 ∧ (e.placed = gangCount l ∨ e.misses = 3 ∨ e.killed)

/-- LAUNCH_COMPLETE: the launch that the event names has ended (R271). -/
def execLaunchComplete (s : State) : Out :=
  match s.score s.input.index with
  | none => .next s
  | some e => if e.state = .issued ∧ e.kind = 1 ∧ launchEnded e then .next (completeLaunch s e) else .next s

/-! Kills of launches (R362) -/

/-- The kill of R333 without a trap: no record is written. -/
def stopTask (s : State) : State := { s.stopContext 0 0 0 with killed := none }

/-- The gang of a task. -/
def gangOf (e : Score) (task : Nat) : Option Gang :=
  match e.launch with
  | none => none
  | some l => e.gangs.find? fun g => g.first ≤ task ∧ task < g.first + l.m3

/-- Replaces a gang of an entry. -/
def setGang (s : State) (e : Score) (g : Gang) : State :=
  s.setScore { e with gangs := e.gangs.map fun x => if x.first = g.first then g else x }

/-- The entry's launch ends with STATUS 6 (R271). -/
def statusKilled (s : State) (entry : Nat) : State :=
  match s.score entry with
  | some e => s.setScore { e with status := 6 }
  | none => s

/-- The entry's launch is killed as a whole: its saves are discarded, and no gang of it starts any more (R362). -/
def markKilled (s : State) (e : Score) : State :=
  { s with saved := s.saved.filter fun c => c.entry ≠ e.id }.setScore { e with
    status := 6, killed := true, gangs := (e.gangs.filter fun (g : Gang) => ¬ g.parked).map fun (g : Gang) => { g with saved := [] } }

/-- A whole launch is killed (R362): tasks that have not started and saved ones end at once, the task in focus stops, and a
task being saved ends with its save. Tasks of other cores end with their TASK_RETIRE. -/
def killLaunch (s : State) (entry : Nat) : State :=
  match s.score entry with
  | none => s
  | some e =>
    let idle := (s.sched.occupied.filter fun o => o.entry = entry ∧ ¬ o.started).map (·.task)
    let s1 := (idle ++ e.gangs.flatMap (·.saved)).eraseDups.foldl (fun s i => endTask s entry i false) (markKilled s e)
    if s.launch.entry ≠ entry then s1
    else
      match s.status with
      | .saved => { clearTask s1 with status := .none }
      | .running | .leaseWait | .debug => stopTask s1
      | .tailed =>
        { s1 with status := .killed, sched := { s1.sched with tracker := s1.sched.tracker.filter fun t => t.core ≠ s.core.toNat } }
      | _ => s1

/-- LAUNCH_KILL: the owner's write of KILLREQ (R360, R362). -/
def execLaunchKill (s : State) : Out :=
  ownerWrite s fun s =>
    let entry := (s.input.value.extractLsb' 0 8).toNat
    match s.score entry with
    | some e => if s.input.value.getLsbD 8 ∧ e.kind = 1 ∧ e.state = .issued then killLaunch s entry else s
    | none => s

/-! Pre-emption (R276, R277) -/

/-- A gang with its scoreboard entry. -/
abbrev Victim := Score × Gang

/-- Victim order: lowest level first, most recently placed first (R276). -/
def insertVictim (v : Victim) : List Victim → List Victim
  | [] => [v]
  | w :: ws =>
    if v.1.level < w.1.level ∨ (v.1.level = w.1.level ∧ w.2.order ≤ v.2.order) then v :: w :: ws
    else w :: insertVictim v ws

/-- The gangs that may be victims of a level (R276). -/
def victims (s : State) (level : Nat) : List Victim :=
  let all : List Victim := s.sched.board.flatMap fun e =>
    if e.level < level then (e.gangs.filter fun g => ¬ g.saving ∧ ¬ g.parked).map fun g => (e, g) else []
  all.foldr insertVictim []

/-- The cores that the gang of an entry still holds. -/
def heldCores (s : State) (v : Victim) : List Nat :=
  v.2.cores.filter fun c => s.sched.occupied.any fun o => o.core = c ∧ o.entry = v.1.id

/-- The next gang of a launch can be placed on these cores: R58 or R57, and R57 for a saved gang (R276). -/
def fits (e : Score) (free : List Nat) : Bool :=
  match e.launch with
  | none => false
  | some l =>
    if resuming e then (placeFree free l.m1 l.m2 l.m3).isSome
    else (placeNext l e.avail free (e.placed * l.m3)).isSome

/-- Victims taken in order until the gang fits. -/
def takeVictims (s : State) (e : Score) : List Victim → List Victim → List Nat → Option (List Victim)
  | [], _, _ => none
  | v :: vs, taken, free =>
    let free := free ++ heldCores s v
    let sorted := (List.range 256).filter free.contains
    if fits e sorted then some (taken ++ [v]) else takeVictims s e vs (taken ++ [v]) free

/-- Drops the victims that the gang does not need, the last taken first. -/
def pruneVictims (s : State) (e : Score) (base : List Nat) : List Victim → List Victim → List Victim
  | [], kept => kept
  | v :: vs, kept =>
    let free := base ++ (vs ++ kept).flatMap (heldCores s)
    let sorted := (List.range 256).filter free.contains
    if fits e sorted then pruneVictims s e base vs kept else pruneVictims s e base vs (v :: kept)

/-- Cores that will be free when the saves in progress have ended. -/
def freeSoon (s : State) : List Nat :=
  freeCores s ++ s.sched.board.flatMap fun e =>
    (e.gangs.filter (·.saving)).flatMap fun g => heldCores s (e, g)

/-- PREEMPT_REQUEST: the first launch cannot place its gang, and victims are chosen (R276). -/
def execPreemptRequest (s : State) : Out :=
  match nextLaunch s with
  | none => .next s
  | some e =>
    let base := freeSoon s
    if fits e ((List.range 256).filter base.contains) then .next s
    else
      match takeVictims s e (victims s e.level) [] base with
      | none => .next s
      | some vs =>
        .next ((pruneVictims s e base vs.reverse []).foldl (fun s v =>
          match s.score v.1.id with
          | some x => setGang s x { v.2 with saving := true, halts := [] }
          | none => s) s)

/-- The task in focus has passed EXIT's wait (R63, R277). -/
def exitPassed (s : State) : Bool := s.status = .retired || (match s.wait with | some (.exit _) => true | _ => false)

/-- The gang of an occupant, while it is a victim; the request is withdrawn for a task that has passed EXIT's wait (R277). -/
def victimAt (s : State) (core : Nat) : Option (Score × Gang × Occupant) :=
  match occupantOf s core with
  | none => none
  | some o =>
    match s.score o.entry with
    | none => none
    | some e =>
      match gangOf e o.task with
      | some g =>
        if g.saving ∧ ¬ g.saved.contains o.task ∧ ¬ (atFocus s core ∧ exitPassed s) then some (e, g, o) else none
      | none => none

/-- A task of a gang halts for its save; its first halt is the one that counts (R363). -/
def haltedAt (g : Gang) (task time : Nat) : Gang :=
  if g.halts.any (·.1 = task) then g else { g with halts := g.halts ++ [(task, time, 0)] }

/-- TIME at which a task of a gang halted, when so many overrun records of its save have been made. -/
def haltTime (g : Gang) (task made : Nat) : Option Nat := (g.halts.find? fun h => h.1 = task ∧ h.2.2 = made).map (·.2.1)

/-- CORE_HALT: a victim's sequencer stops at the instruction boundary (R276). -/
def execCoreHalt (s : State) : Out :=
  match victimAt s s.input.index with
  | none => .next s
  | some (e, g, o) =>
    let s1 := setGang s e (haltedAt g o.task s.device.time)
    if atFocus s s.input.index then
      if s.status = .running ∨ s.status = .leaseWait then .next { s1 with status := .halted } else .next s
    else .next s1

/-- What a save keeps of the task in focus (R276).
DESIGN CHOICE: log entry 9. -/
def contextOf (s : State) : SavedContext :=
  { entry := s.launch.entry, task := s.launch.task, pc := s.pc, regs := s.regs, banks := s.trap.banks, tl := s.trap.tl
    tvec := s.trap.tvec, l1 := s.trap.l1, l2 := s.trap.l2, trapen := s.trap.trapen, vregs := s.vregs, kregs := s.kregs
    mregs := s.mregs, rebase := s.rebase, fpstat := s.fpstat, fpPend := s.fpPend, isn := s.isn, wait := s.keptWait
    waitClk := s.waitClk, waitKind := s.waitKind, stagingBad := s.memory.stagingBad
    seen := s.seen, launch := s.launch, queues := s.queues, ret := s.ret, nextRet := s.nextRet, fmt := s.fmt
    nextFmt := s.nextFmt, sitout := s.sitout, tags := s.tags, bars := s.bars, domArr := s.domArr
    scratch := s.memory.scratch.filter fun c => c.1 / 2 ^ 20 = s.rankAt 1
    matrix := { s.matrix with bufs := s.matrix.bufs.map fun b => if b.owner = some (coreRank s) then b else { b with owner := none } }
    reel := s.reel, helper := s.helper, caller := s.caller, ordered := s.ordered, phased := s.phased
    ckpt := s.ckpt, mine := s.channel.mine }

/-- What the task has started has drained (R110): copies, streams, and accesses to other devices that are no fabric
operation of a collective. -/
def saveDrained (s : State) : Bool :=
  (copiesHeld s).isEmpty ∧ s.grid.queue.isEmpty ∧ s.grid.run.isNone
    ∧ s.memory.reqs.all fun r => match r.owner with | .coll _ | .xfer _ => true | _ => false

/-- A task of a gang has been saved (R276). -/
def taskSaved (s : State) (o : Occupant) : State :=
  match s.score o.entry with
  | none => s
  | some e =>
    match gangOf e o.task with
    | none => s
    | some g => setGang s e { g with saved := g.saved ++ [o.task] }

/-- The save of the task in focus ends: the save area has the context, which the state keeps, and the lease ends (R110, R276). -/
def saveFocus (s : State) (o : Occupant) : State :=
  let c := contextOf s
  let s := releaseBufs (writeContext s s.launch).endLease (coreRank s)
  { taskSaved s o with saved := s.saved ++ [c], status := .saved, wait := none, waitClk := 0, waitKind := 0 }

/-- The pages of a task's save-area slot can be written (R277). -/
def slotOk (s : State) (l : Launch) (i : Nat) : Bool := rangeOk s l (saveSlot l.header l i) (slotPart + l.header.scratch)

/-- A save ends with its task killed: the launch was, or a page of the save area faults, which gives it STATUS 6 (R277, R362). -/
def saveKills (s : State) (e : Score) (o : Occupant) : Option State :=
  match e.launch with
  | none => none
  | some l =>
    if e.killed then some (endTask s o.entry o.task false)
    else if slotOk s l o.task then none
    else some (endTask (statusKilled s o.entry) o.entry o.task false)

/-- CONTEXT_SAVE: the save of a halted victim (R110, R276, R277): the drain, the commit at sys, then the context. A kill that
met it discards it (R362); a page that faults kills the task. -/
def execContextSave (s : State) : Out :=
  match victimAt s s.input.index with
  | none => .next s
  | some (e, _, o) =>
    if ¬ atFocus s s.input.index then
      match saveKills s e o with
      | some t => .next t
      | none => .next (taskSaved (match e.launch with | some l => writeContext s { l with task := o.task } | none => s) o)
    else if s.status ≠ .halted ∨ ¬ (copiesHeld s).isEmpty ∨ ¬ s.grid.queue.isEmpty ∨ s.grid.run.isSome then .next s
    else if ¬ s.memory.staging.isEmpty then
      .next (if s.memory.stagingBad then s.dropStaging
        else if s.stagingWaits then s else { s.commit .sys with revocable := false })
    else if ¬ saveDrained s then .next s
    else
      match saveKills s e o with
      | some t => .next (leaveCore t)
      | none => .next (saveFocus { countUncertain s with revocable := false } o)

/-- GANG_REQUEUE: every task of a victim gang that has not ended has been saved: its cores are free, and it joins the head of its
launch's level (R273, R276). -/
def execGangRequeue (s : State) : Out :=
  match s.score s.input.index with
  | none => .next s
  | some e =>
    let mine (g : Gang) (o : Occupant) : Bool := o.entry = e.id ∧ g.cores.contains o.core
    match e.gangs.find? fun g => g.saving ∧ s.sched.occupied.all fun o => ¬ mine g o ∨ g.saved.contains o.task with
    | none => .next s
    | some g =>
      if g.saved.isEmpty then .next (setGang s e { g with saving := false })
      else
        let s1 := setGang s e { g with saving := false, parked := true, order := s.sched.nextGang }
        .next { s1 with sched := { s1.sched with
          occupied := s1.sched.occupied.filter fun o => ¬ mine g o
          nextGang := s1.sched.nextGang + 1 } }

/-- The task in focus goes on from its saved context on a core (R110, R225, R276); what its engines and its ordered accesses have
brought since stands. It waits for a lease where its kernel declares one, and its own buffers are reloaded then, before its snapshot
opens (DEDUCED, log entry 61). -/
def restoreFocus (s : State) (c : SavedContext) (core : Nat) : State :=
  let waits : Bool := c.launch.header.lease ≠ 0
  let s := { s with
    core := BitVec.ofNat 8 core, status := if waits then .leaseWait else .running, pc := c.pc, regs := c.regs
    trap := { tl := c.tl, tvec := c.tvec, l1 := c.l1, l2 := c.l2, banks := c.banks, trapen := c.trapen }
    vregs := c.vregs, kregs := c.kregs, mregs := c.mregs, rebase := c.rebase, fpstat := c.fpstat, fpPend := c.fpPend
    isn := c.isn, wait := c.wait, waitClk := c.waitClk, waitKind := c.waitKind, seen := c.seen, launch := c.launch, queues := c.queues
    nextRet := c.nextRet, fmt := c.fmt, nextFmt := c.nextFmt, sitout := c.sitout
    matrix := { s.matrix with
      invalid := c.matrix.invalid, reload := waits
      bufs := Vector.ofFn fun i =>
        if c.matrix.bufs[i.val].owner.isSome then
          { c.matrix.bufs[i.val] with owner := some (BitVec.ofNat 2 core), cols := [] }
        else s.matrix.bufs[i.val] }
    reel := c.reel, helper := c.helper, caller := c.caller, phased := c.phased, ckpt := c.ckpt
    channel := { s.channel.focus c.entry (imageTable c.launch) with mine := c.mine }
    saved := s.saved.filter fun x => ¬ (x.entry = c.entry ∧ x.task = c.task)
    memory := { s.memory with
      stagingBad := c.stagingBad
      scratch := Mem.writeAll (s.memory.scratch.filter fun x => x.1 / 2 ^ 20 ≠ c.launch.task % c.launch.m1)
        c.scratch } }
  if waits then s else s.openSnap true

/-- A parked gang stands on its new cores. -/
def unpark (s : State) (e : Score) (g : Gang) (cores : List Nat) (placed : List (Nat × Nat)) : State :=
  let s1 := { s with sched := { s.sched with
    occupied := s.sched.occupied ++ placed.map fun c => ⟨c.1, e.id, g.first + c.2, true⟩ } }
  let s2 := setGang s1 e { g with cores := cores, parked := false, saved := [], order := s.sched.nextGang }
  { s2 with sched := { s2.sched with nextGang := s2.sched.nextGang + 1 } }

/-- GANG_RESUME: the first of the saved gangs, when its launch is first, is placed by R57, and its tasks go on (R276). -/
def execGangResume (s : State) : Out :=
  match nextLaunch s, headParked s with
  | some e, some (r, g) =>
    if e.id ≠ s.input.index ∨ e.id ≠ r.id ∨ s.coresHalted then .next s
    else
      match e.launch with
      | none => .next s
      | some l =>
        match placeFree (freeCores s) l.m1 l.m2 l.m3 with
        | none => .next s
        | some cores =>
          let placed := cores.zipIdx.filter fun c => g.saved.contains (g.first + c.2)
          let s1 := unpark s e g cores placed
          match s.saved.find? fun c => c.entry = e.id ∧ g.saved.contains c.task with
          | none => .next s1
          | some c =>
            match placed.find? fun p => g.first + p.2 = c.task with
            | some p => .next (restoreFocus s1 c p.1)
            | none => .next s1
  | _, _ => .next s

/-! Saves that overrun (R363) -/

/-- The 0x31 record of a save (R361, R363). -/
def overrunRecord (s : State) (stage core : Nat) (o : Occupant) : State :=
  s.record (some o.entry) (State.systemBody 0x31 stage core o.task 0 0 0 0)

/-- SAVE_OVERRUN_25US (R363). -/
def execSaveOverrun25us (s : State) : Out :=
  match victimAt s s.input.index with
  | none => .next s
  | some (e, g, o) =>
    if (haltTime g o.task 0).any (fun t => t + 25000 ≤ s.device.time) then
      .next (setGang (overrunRecord s 0 s.input.index o) e
        { g with halts := g.halts.map fun h => if h.1 = o.task then (h.1, h.2.1, 1) else h })
    else .next s

/-- SAVE_OVERRUN_1MS: the task is killed, and its launch ends with STATUS 6 (R363).
DESIGN CHOICE: log entry 10. -/
def execSaveOverrun1ms (s : State) : Out :=
  match victimAt s s.input.index with
  | none => .next s
  | some (_, g, o) =>
    if (haltTime g o.task 1).any (fun t => t + 1000000 ≤ s.device.time) then
      let s1 := statusKilled (overrunRecord s 1 s.input.index o) o.entry
      let s2 := endTask s1 o.entry o.task false
      if ¬ atFocus s s.input.index then .next s2
      else .next (if s.status = .halted then leaveCore (stopTask s2) else s)
    else .next s

/-! The failure of a core (R61, R345) -/

/-- The engines of the core in focus stop: what they owe fails, and collective instances tell their peers (R261, R345). -/
def stopEngines (s : State) : State :=
  let s := s.coll.live.foldl tellAborts s
  { s with
    channel := { s.channel with cmds := [] }
    grid := { s.grid with queue := [], run := none, fload := none }
    coll := { s.coll with live := [] } }

/-- The task can be rerun: it has not left and is not killed, it is revocable, and it has passed no PHASE boundary or has a
checkpoint (R61). -/
def canRerun (s : State) : Bool :=
  (s.status = .running ∨ s.status = .leaseWait ∨ s.status = .halted ∨ s.status = .debug) ∧ s.revocable
    ∧ (¬ s.phased ∨ (s.launch.header.ckpt ∧ s.ckpt.isSome))

/-- The record of a failed core (R346). -/
def coreRecord (s : State) (core : Nat) (o : Option Occupant) : State :=
  s.record (o.map (·.entry)) (State.memoryBody 0x14 0 core 1 0 0 (match o with | some o => o.task | none => 0xFFFFFFFF))

/-- A task that waits to be started again. -/
def unstarted (s : State) (core : Nat) : State :=
  { s with sched := { s.sched with
    occupied := s.sched.occupied.map fun x => if x.core = core then { x with started := false } else x } }

/-- The core is available no more (R345). -/
def removeCore (s : State) (core : Nat) : State := { s with sched := { s.sched with failed := s.sched.failed ++ [core] } }

/-- The task in focus ends with the failure of its core, in error unless it is being killed (R61, R271). -/
def failFocus (s : State) : State :=
  leaveCore (stopEngines (endTask s s.launch.entry s.launch.task (s.status ≠ .killed)))

/-- CORE_FAIL: the core that the event names fails (R345): its task is rerun or killed, and one of another core than that in focus
is killed when `index2` is not 0 (R61). A task that has been saved loses nothing; one that has left by TAIL is killed. -/
def execCoreFail (s : State) : Out :=
  let core := s.input.index
  let o := occupantOf s core
  let s1 := removeCore (coreRecord s core o) core
  let s2 := if core = s.core.toNat ∧ s.status = .tailed then failFocus s1 else s1
  if atFocus s core then
    .next (if canRerun s then { unstarted (leaveCore (stopEngines s1)) core with ckpt := if s.phased then s.ckpt else none, phased := s.phased }
      else failFocus s1)
  else
    match o with
    | none => .next s2
    | some o =>
      .next (if isSavedTask s o then s2 else if s.input.index2 = 0 then unstarted s2 core else endTask s2 o.entry o.task true)

/-! The debug interface (R315) -/

/-- DEBUG_STOP: the host's debug interface holds the task in focus; `flag` leaves break enabled (R175). -/
def execDebugStop (s : State) : Out :=
  .next { s with status := if s.status = .running then .debug else s.status, breakOn := s.input.flag }

/-- DEBUG_RESUME: the task goes on. -/
def execDebugResume (s : State) : Out :=
  .next { s with status := if s.status = .debug then .running else s.status, breakOn := s.input.flag }

end Sys2Proof.Machine
end

