-- ==== Sys2Proof/Machine/Group.lean ====
section
/-! DEFINITION. Group instructions, agreement rounds, group keys, revocation and the release of a signing lock (R262, R264, R265,
R285, R286, R307, R308, R365, R367). -/

namespace Sys2Proof.Machine

/-! Parts of a round -/

/-- H of a proposal (R285). -/
def proposalHash (d : Descriptor) : BitVec 256 := BitVec.ofNat 256 (bytesToNat (shake256 (descriptorBytes d) 32))

/-- The proposal is well-formed for a member (R285). -/
def wellFormedFor (d : Descriptor) (me : BitVec 14) : Bool :=
  d.clean && d.ranks.Nodup && d.ranks.contains me

/-- The fault of a failed group arrival. -/
def groupTrap : Trap := { cause := .groupver }

/-- A waiting arrival fails, with its record (R262, R347). -/
def failGroup (s : State) (bar : BitVec 9) : State :=
  (s.engineRecord 0x28 (some groupTrap) bar.toNat State.noPeer 0).arriveFailed bar groupTrap

/-- A round message leaves for each of these devices; none leaves before the device has its number (R301). -/
def sendRound (s : State) (ds : List (BitVec 14)) (m : BitVec 14 → GroupMsg) : State :=
  if ¬ s.fabric.devset then s
  else { s with group := { s.group with sent := s.group.sent ++ ds.map fun d => (d, m d) } }

/-- A member's answer to a proposal: the lock and a signature, or none for a refusal (R285, R305). -/
def answer (s : State) (d : Descriptor) (h : BitVec 256) : Option (List Byte × State) :=
  match groupDesc s with
  | none => none
  | some cur =>
    let locked : Bool := match s.group.lock with | some (v, h') => v = cur.ver + 1 ∧ h' ≠ h | none => false
    if locked ∨ d.ver ≠ cur.ver + 1 ∨ ¬ wellFormedFor d s.fabric.devid ∨ 2 ^ 20 ≤ s.sec.leaf then none
    else
      some (xmssSign s.sec.leaf (natToBytes 32 h.toNat),
        { s with
          group := { s.group with lock := some (cur.ver + 1, h) }
          sec := { s.sec with leaf := s.sec.leaf + 1 } })

/-- The lock on a proposal is released. -/
def unlock (s : State) (h : BitVec 256) : State :=
  match s.group.lock with
  | some (_, h') => if h' = h then { s with group := { s.group with lock := none } } else s
  | none => s

/-- Every instance and reshard that runs on the old version fails (R265, R359). -/
def failOldVersion (s : State) : State :=
  let s := if s.launch.header.ndom = 4 then s.coll.live.foldl (fun s x => failInstance s x groupTrap State.noPeer false) s else s
  s.reshards.foldl (fun s r => failReshard s r groupTrap) s

/-- What an adopted version does to one waiting group instruction: a failed arrival, an arrival, or nothing yet (R265). -/
def waitOutcome (me : BitVec 14) (d : Descriptor) (w : RoundWait × BitVec 9 × Descriptor) : Option Bool :=
  match w.1 with
  | .join => some (w.2.2 = d)
  | .leave => if d.ranks.contains me then none else some true
  | .prop => if w.2.2 = d then some true else none

/-- The waiting group instructions meet the adopted version. -/
def arriveWaits (s : State) (d : Descriptor) : State :=
  let me := s.fabric.devid
  let s1 := { s with group := { s.group with waits := s.group.waits.filter fun w => (waitOutcome me d w).isNone } }
  s.group.waits.foldl (fun s w =>
    match waitOutcome me d w with
    | some true => s.arrive w.2.1
    | some false => failGroup s w.2.1
    | none => s) s1

/-- The key of an ENC version (R307). -/
def groupKey (secret : List Byte) (h : BitVec 256) (ver : Word) : BitVec 256 :=
  BitVec.ofNat 256 (bytesToNat (shake256 (secret ++ natToBytes 32 h.toNat ++ natToBytes 8 ver.toNat) 32))

/-- The key store after an adoption: the group's old key is erased, and a member of an ENC version holds the new one (R286, R306,
R307). -/
def adoptKeys (s : State) (d : Descriptor) (h : BitVec 256) (secret : List Byte) : List GroupKey :=
  let g := s.launch.group
  let old := s.sec.keys.filter fun k => k.group ≠ g
  if d.enc ∧ d.ranks.contains s.fabric.devid then (⟨g, d.ver, groupKey secret h d.ver⟩ :: old).take 64 else old

/-- A recipient adopts a version (R285): installed at the group VA, cached, the lock released, and the waiting arrivals made. -/
def adoptVersion (s : State) (d : Descriptor) (h : BitVec 256) (secret : List Byte) : State :=
  let keys := adoptKeys s d h secret
  let s := failOldVersion s
  let s := if s.launch.group = 0 then s else launchWrite s s.launch s.launch.group.toNat (descriptorBytes d)
  let s := { s with group := { s.group with cached := some d }, sec := { s.sec with keys := keys } }
  arriveWaits (unlock s h) d

/-- Every signature verifies against its certificate, and each member of R has signed (R285). -/
def signedBy (s : State) (d : Descriptor) (h : BitVec 256) (sigs : List (BitVec 14 × List Byte)) : Bool :=
  let msg := natToBytes 32 h.toNat
  let r := match groupDesc s with | some c => c.ranks.filter d.ranks.contains | none => []
  ¬ sigs.isEmpty ∧ (sigs.all fun g => xmssVerify (Config.certifiedKey g.1.toNat) msg g.2)
    ∧ r.all fun m => sigs.any fun g => g.1 = m

/-! The proposer -/

/-- A fresh 256-bit secret (R307; DESIGN CHOICE, log entry 5). -/
def freshSecret (s : State) : List Byte × State :=
  ((List.range 4).flatMap fun i => natToBytes 8 (Config.freeWord (s.free + i)).toNat, { s with free := s.free + 4 })

/-- The message of a decision for a device: an ADOPT of an ENC version carries the secret to its members alone (R286, R307). -/
def decisionMsg (d : Decision) (dev : BitVec 14) : GroupMsg :=
  if d.adopt then
    .adopt d.round.hash d.round.desc d.round.sigs
      (if d.round.desc.enc ∧ d.round.desc.ranks.contains dev then mlkemEncapsulate dev.toNat d.secret else [])
  else .abort d.round.hash

/-- A waiting GPROP of a proposal fails. -/
def failProps (s : State) (h : BitVec 256) : State :=
  let mine (w : RoundWait × BitVec 9 × Descriptor) : Bool := w.1 = .prop ∧ proposalHash w.2.2 = h
  let s1 := { s with group := { s.group with waits := s.group.waits.filter fun w => ¬ mine w } }
  (s.group.waits.filter mine).foldl (fun s w => failGroup s w.2.1) s1

/-- The proposer decides its round: the message goes to the recipients, and its own part happens at once (R285). -/
def decideRound (s : State) (r : Round) (adopt : Bool) : State :=
  let me := s.fabric.devid
  let (secret, s) := if adopt ∧ r.desc.enc then freshSecret s else ([], s)
  let d : Decision := ⟨adopt, r, secret, (if adopt then r.all else r.members).filter (· ≠ me)⟩
  let s := { s with group := { s.group with
    round := none
    decisions := if d.unacked.isEmpty then s.group.decisions else s.group.decisions ++ [d] } }
  let s := sendRound s d.unacked (decisionMsg d)
  if adopt then
    if signedBy s r.desc r.hash r.sigs then adoptVersion s r.desc r.hash secret else failProps s r.hash
  else failProps (unlock s r.hash) r.hash

/-- The round goes on: it is decided when every member of R has signed. -/
def tryAdopt (s : State) (r : Round) : State :=
  if r.members.all fun m => r.sigs.any fun g => g.1 = m then decideRound s r true
  else { s with group := { s.group with round := some r } }

/-- GPROP's round starts (R285); the proposer's own answer comes at once. -/
def startRound (s : State) (d : Descriptor) (cur : Descriptor) : State :=
  let me := s.fabric.devid
  let h := proposalHash d
  let members := cur.ranks.filter d.ranks.contains
  let r : Round :=
    { desc := d, hash := h, members := members, all := (cur.ranks ++ d.ranks).eraseDups, sigs := []
      deadline := s.device.time + s.fabric.grto * 1000 }
  let s := sendRound s (members.filter (· ≠ me)) fun _ => .propose h d
  if members.contains me then
    match answer s d h with
    | none => decideRound s r false
    | some (sig, s) => tryAdopt s { r with sigs := [(me, sig)] }
  else tryAdopt s r

/-! Group instructions (R265) -/

/-- The checks of a group instruction that names a barrier (R265, R330). -/
def groupAdmit (s : State) (bar : BitVec 9) (k : Out) : Out :=
  withBar s bar
    (if (domWord s 3).toNat % 2 ^ 24 ≠ 0 then trapNow s ⟨.undef, 14, 0⟩
     else if s.launch.group = 0 then trapNow s ⟨.undef, 15, 0⟩
     else if isInterval s bar then trapNow s ⟨.detviol, 4, 0⟩
     else k)

/-- The barrier of a group instruction. -/
def groupBar (o : AOp) : BitVec 9 := o.imm.extractLsb' 0 9

/-- A group instruction waits beside the task. -/
def addWait (s : State) (w : RoundWait) (bar : BitVec 9) (d : Descriptor) : State :=
  { s with group := { s.group with waits := s.group.waits ++ [(w, bar, d)] } }

/-- GJOIN (R265); a descriptor without this device fails at once. -/
def execGjoin (o : AOp) (s : State) : Out :=
  withRegs s [o.a] (groupAdmit s (groupBar o)
    (precisely s 2 ((readDescriptor s (s.getReg o.a).toNat).bind fun d s =>
      .ok () (if d.ranks.contains s.fabric.devid then addWait s .join (groupBar o) d else failGroup s (groupBar o)))))

/-- GLEAVE (R265). -/
def execGleave (o : AOp) (s : State) : Out :=
  groupAdmit s (groupBar o)
    (.next ((addWait s .leave (groupBar o) ⟨0, false, [], true⟩).advance 2))

/-- GPROP (R265, R285). A proposal that differs from the one whose round this device runs fails at once.
DESIGN CHOICE: log entry 19. -/
def execGprop (o : AOp) (s : State) : Out :=
  withRegs s [o.a] (groupAdmit s (groupBar o)
    (precisely s 2 ((readDescriptor s (s.getReg o.a).toNat).bind fun d s =>
      match s.group.round, groupDesc s with
      | some r, _ =>
        .ok () (if r.hash = proposalHash d then addWait s .prop (groupBar o) d else failGroup s (groupBar o))
      | none, some cur => .ok () (startRound (addWait (cacheGroup s) .prop (groupBar o) d) d cur)
      | none, none => .ok () (failGroup s (groupBar o)))))

/-- GVER (R265). -/
def execGver (o : AOp) (s : State) : Out :=
  withRegs s [o.a]
    (if s.launch.group = 0 then trapNow s ⟨.undef, 15, 0⟩
     else
       match s.group.cached with
       | some d => .next ((s.setReg o.a d.ver).advance 2)
       | none =>
         precisely s 2 ((readDescriptor s s.launch.group.toNat).bind fun d s =>
           .ok () ({ s with group := { s.group with cached := some d } }.setReg o.a d.ver)))

/-- GINV (R265). -/
def execGinv (s : State) : Out :=
  .next (({ s with group := { s.group with cached := if s.launch.group = 0 then s.group.cached else none } }).advance 2)

/-! Messages of a round (R285, R367) -/

/-- A device answers a message of another one. -/
def replyTo (s : State) (m : GroupMsg) : State := sendRound s [BitVec.ofNat 14 s.input.index2] fun _ => m

/-- The proposal arrives: `desc` and `hash` from device `index2`. -/
def receivePropose (s : State) : State :=
  match answer s s.input.desc s.input.hash with
  | none => replyTo s (.refuse s.input.hash)
  | some (sig, s) => replyTo s (.signature s.input.hash sig)

/-- A refusal arrives: the round aborts. -/
def receiveRefuse (s : State) : State :=
  match s.group.round with
  | some r =>
    if r.hash = s.input.hash ∧ r.members.contains (BitVec.ofNat 14 s.input.index2) then decideRound s r false else s
  | none => s

/-- A signature arrives; one that comes after GRTO adopts nothing. -/
def receiveSignature (s : State) : State :=
  let m := BitVec.ofNat 14 s.input.index2
  match s.group.round with
  | some r =>
    if r.deadline < s.device.time then decideRound s r false
    else if r.hash = s.input.hash ∧ r.members.contains m ∧ ¬ r.sigs.any fun g => g.1 = m then
      tryAdopt s { r with sigs := r.sigs ++ [(m, s.input.sig)] }
    else s
  | none => s

/-- A decision arrives: `desc` is the proposal with the hash, `sigs` its signatures, and `bytes` this device's ciphertext. One that
the device has no use for, since it has that version or has released the lock, is acknowledged as well; one that does not verify is
not (R285, R367).
DESIGN CHOICE: log entry 19. -/
def receiveAdopt (s : State) : State :=
  let d := s.input.desc
  let h := s.input.hash
  let known : Bool := match groupDesc s with | some c => d.ver.toNat ≤ c.ver.toNat | none => false
  if s.group.released.contains h ∨ known then replyTo s (.ack h)
  else if proposalHash d ≠ h ∨ ¬ signedBy s d h s.input.sigs then s
  else if d.enc ∧ d.ranks.contains s.fabric.devid then
    match mlkemDecapsulate s.input.bytes with
    | some secret => adoptVersion (replyTo s (.ack h)) d h secret
    | none => s
  else adoptVersion (replyTo s (.ack h)) d h []

/-- An abort arrives. -/
def receiveAbort (s : State) : State :=
  let h := s.input.hash
  let s := replyTo s (.ack h)
  if s.group.released.contains h then s else failProps (unlock s h) h

/-- A recipient has acknowledged a decision. -/
def receiveAck (s : State) : State :=
  let m := BitVec.ofNat 14 s.input.index2
  let ds := s.group.decisions.map fun d =>
    if d.round.hash = s.input.hash then { d with unacked := d.unacked.filter (· ≠ m) } else d
  { s with group := { s.group with decisions := ds.filter fun d => ¬ d.unacked.isEmpty } }

/-- PROPOSE. -/
def execPropose (s : State) : Out := .next (receivePropose s)
/-- REFUSE. -/
def execRefuse (s : State) : Out := .next (receiveRefuse s)
/-- SIGNATURE. -/
def execSignature (s : State) : Out := .next (receiveSignature s)
/-- ADOPT. -/
def execAdopt (s : State) : Out := .next (receiveAdopt s)
/-- ABORT. -/
def execAbort (s : State) : Out := .next (receiveAbort s)

/-- ROUND_TIMEOUT: GRTO has passed without every signature. -/
def execRoundTimeout (s : State) : Out :=
  match s.group.round with
  | some r => .next (if r.deadline ≤ s.device.time then decideRound s r false else s)
  | none => .next s

/-- ROUND_DECISION_RESEND: the decision goes again to each recipient that has not acknowledged it. -/
def execRoundDecisionResend (s : State) : Out :=
  .next (s.group.decisions.foldl (fun s d => sendRound s d.unacked (decisionMsg d)) s)

/-- The held lock is released, with its record (R367). -/
def releaseLock (s : State) : State :=
  match s.group.lock with
  | some (v, h) =>
    let s1 := { s with group := { s.group with lock := none, released := s.group.released ++ [h] } }
    s1.record none (State.systemBody 0x36 0 0 0 v.toNat (h.toNat % 2 ^ 64) 0 0)
  | none => s

/-- GRREL (R367). -/
def execGrrel (s : State) : Out := ownerWrite s fun s => if s.input.value.getLsbD 0 then releaseLock s else s

/-! Kills of a group's launches -/

/-- Tasks of a launch that have not ended and that hold a core or a saved context. -/
def liveTasks (s : State) (e : Score) : Nat :=
  (s.sched.occupied.filter fun o => o.entry = e.id).length + ((e.gangs.filter (·.parked)).flatMap (·.saved)).length

/-- Kills these launches, and tells how many tasks that stops. -/
def killLaunches (s : State) (p : Launch → Bool) : Nat × State :=
  let es := s.sched.board.filter fun e => match e.launch with | some l => e.state = .issued ∧ p l | none => false
  ((es.map (liveTasks s)).sum, es.foldl (fun s e => killLaunch s e.id) s)

/-- What a revocation notice signs: the device and the version. -/
def noticeBytes (dev : BitVec 14) (ver : Word) : List Byte := natToBytes 2 dev.toNat ++ natToBytes 8 ver.toNat

/-- Valid signatures of members of a version on a notice (R308). -/
def noticeSigners (s : State) : List (BitVec 14) :=
  let msg := noticeBytes s.fabric.devid s.input.desc.ver
  ((s.input.sigs.filter fun g =>
    s.input.desc.ranks.contains g.1 ∧ xmssVerify (Config.certifiedKey g.1.toNat) msg g.2).map (·.1)).eraseDups

/-- REVOCATION_NOTICE: `index2` is the device named, `desc` the version and `value` the VA under which this device's launches name the
group (R308, R365; DESIGN CHOICE, log entry 18): its keys are erased and its launches killed. -/
def execRevocationNotice (s : State) : Out :=
  let n := s.input.desc.ranks.length
  if s.input.index2 ≠ s.fabric.devid.toNat ∨ s.input.desc.ranks.contains s.fabric.devid ∨ (noticeSigners s).length < n / 2 + 1 then
    .next s
  else
    let g := s.input.value
    let (count, s1) := killLaunches { s with sec := { s.sec with keys := s.sec.keys.filter fun k => k.group ≠ g } }
      fun l => l.group = g ∧ g ≠ 0
    .next (s1.record none (State.systemBody 0x33 0 0 count s.input.desc.ver.toNat 0 0 0))

end Sys2Proof.Machine
end

