-- ==== Sys2Proof/Machine/Fabric.lean ====
section
/-! DEFINITION. Packets, flits and ports, requests of this device and of others, and the host's answers over CXL.mem (R80, R105 to
R107, R278 to R284, R287, R352 to R357). -/

namespace Sys2Proof.Machine

/-! Packets -/

/-- The bytes of a packet: header, payload, and the tag of an encrypted one (R279). -/
def packetBytes (p : Packet) : List Byte :=
  natToBytes 2 p.dst.toNat ++ natToBytes 2 p.src.toNat ++ [p.kind]
    ++ natToBytes 1 ((if p.enc then 1 else 0) + (if p.ackreq then 2 else 0)) ++ natToBytes 2 p.gv.toNat
    ++ natToBytes 6 p.seq.toNat ++ natToBytes 2 p.payload.length ++ natToBytes 8 p.addr.toNat ++ natToBytes 8 p.aux.toNat
    ++ p.payload ++ (if p.enc then natToBytes 16 p.tag.toNat else [])

/-- The bytes that a packet has, as its header says (R279). -/
def packetLength (bs : List Byte) : Nat := 32 + field bs 14 2 + (if field bs 5 1 % 2 = 1 then 16 else 0)

/-- The packet that these bytes make; it is malformed with reserved bits set or a payload that is too long (R279). -/
def packetFrom (bs : List Byte) : Packet :=
  let flags := field bs 5 1
  let len := field bs 14 2
  { dst := BitVec.ofNat 14 (field bs 0 2), src := BitVec.ofNat 14 (field bs 2 2), kind := bs.getD 4 0, enc := flags % 2 = 1
    ackreq := flags / 2 % 2 = 1, gv := BitVec.ofNat 16 (field bs 6 2), seq := BitVec.ofNat 48 (field bs 8 6)
    addr := BitVec.ofNat 64 (field bs 16 8), aux := BitVec.ofNat 64 (field bs 24 8), payload := (bs.drop 32).take len
    tag := if flags % 2 = 1 then BitVec.ofNat 128 (field bs (32 + len) 16) else 0
    bad := 2 ^ 14 ≤ field bs 0 2 ∨ 2 ^ 14 ≤ field bs 2 2 ∨ 4 ≤ flags ∨ 4096 < len }

/-- The nonce of a packet (R287). -/
def packetNonce (p : Packet) : BitVec 96 := p.src.setWidth 16 ++ p.dst.setWidth 16 ++ p.seq ++ (0 : BitVec 16)

/-- The event of a packet that has come (R279); one of a reserved kind is dropped by whichever takes it. -/
def packetRow (kind : Byte) : Instr :=
  match kind.toNat with
  | 1 => .readResponse | 2 => .remoteWrite | 3 => .remoteAtomic | 4 => .atomicResponse | 5 => .acknowledgement
  | 6 => .collectiveData | 7 => .collectiveControl | 8 => .groupRound | _ => .remoteRead

/-! Flits -/

/-- Bytes 0 to 251 of a flit (R280). -/
def flitBody (f : Flit) : List Byte :=
  natToBytes 4 (f.fseq.toNat + f.fack.toNat * 2 ^ 12 + (if f.nak then 2 ^ 24 else 0) + f.fkind.toNat * 2 ^ 25) ++ f.data

/-- The flit is intact (R280). -/
def flitIntact (f : Flit) : Bool := f.data.length = 248 ∧ f.crc = crc32c (flitBody f)

/-- A flit with its CRC. -/
def sealFlit (f : Flit) : Flit := { f with crc := crc32c (flitBody f) }

/-- What the flits of a packet carry, the first marked (R280). -/
def chunksOf (p : Packet) (time : Nat) : (n : Nat) → (first : Bool) → List Byte → List Chunk
  | 0, _, _ => []
  | n + 1, first, bs =>
    ⟨first, bs.take 248 ++ List.replicate (248 - bs.length) 0, p, time⟩ :: chunksOf p time n false (bs.drop 248)

/-- The chunks of a packet. -/
def packetChunks (p : Packet) (time : Nat) : List Chunk :=
  chunksOf p time (((packetBytes p).length + 247) / 248) true (packetBytes p)

/-- A port of the device. -/
def port (s : State) (n : Nat) : Port := s.fabric.ports.getD n Port.reset

/-- Replaces a port. -/
def setPort (s : State) (n : Nat) (p : Port) : State :=
  { s with fabric := { s.fabric with ports := s.fabric.ports.setIfInBounds n p } }

/-- A port sends what waits, a flit for each chunk while the retry buffer has room (R280). -/
def sendFlits (time : Nat) : List Chunk → Port → Port
  | [], x => { x with queue := [] }
  | c :: cs, x =>
    if x.retry.length < Config.retryDepth then
      let f := sealFlit ⟨x.fseq, x.expected - 1, false, if c.first then 1 else 2, c.data, 0⟩
      sendFlits time cs { x with
        fseq := x.fseq + 1
        retry := x.retry ++ [(f, c.packet)]
        line := x.line ++ [f]
        progress := if x.retry.isEmpty then time else x.progress }
    else { x with queue := c :: cs }

/-- A port goes on with its queue. -/
def pumpPort (s : State) (n : Nat) : State := setPort s n (sendFlits s.device.time (port s n).queue (port s n))

/-- A flit without data tells the far side the last flit that came in sequence, as a NAK or not (R280). -/
def sendIdle (s : State) (n : Nat) (nak : Bool) : State :=
  let x := port s n
  setPort s n { x with line := x.line ++ [sealFlit ⟨0, x.expected - 1, nak, 0, List.replicate 248 0, 0⟩] }

/-! Routes (R278, R281) -/

/-- The route mask of a device (R278). -/
def routeOf (s : State) (dst : Nat) : BitVec 36 :=
  match s.fabric.routes.find? fun r => r.1 = dst with | some r => r.2 | none => 0

/-- The up ports of a die with a minimal route to a device. -/
def diePorts (s : State) (dst d : Nat) : List Nat :=
  ((List.range 9).map (9 * d + ·)).filter fun n => (routeOf s dst).getLsbD n ∧ (port s n).up

/-- The ports among which a packet of a die leaves: those of that die, else of the lowest die that has one (R278). -/
def egressPorts (s : State) (dst die : Nat) : List Nat :=
  let own := diePorts s dst die
  if own.isEmpty then ((List.range 4).map (diePorts s dst)).find? (fun l => ¬ l.isEmpty) |>.getD [] else own

/-- What R281 measures of a port: queued flits less the free slots that the far side has advertised. -/
def portLoad (s : State) (n : Nat) : Int := ((port s n).queue.length : Int) - (port s n).slots

/-- The port with the least load, the lowest of several (R281). -/
def choosePort (s : State) (n : Nat) (ns : List Nat) : Nat :=
  ns.foldl (fun a b => if portLoad s b < portLoad s a ∨ (portLoad s b = portLoad s a ∧ b < a) then b else a) n

/-- A packet of a die goes out through a port (R278, R281); with no port it is discarded (R356). -/
def forwardPacket (s : State) (p : Packet) (die : Nat) : State :=
  if ¬ s.fabric.devset then s else
  match egressPorts s p.dst.toNat die with
  | [] => s
  | n :: ns =>
    let n := choosePort s n ns
    let x := port s n
    let s := setPort s n { x with queue := x.queue ++ packetChunks p s.device.time }
    pumpPort { s with fabric := { s.fabric with out := s.fabric.out ++ [p] } } n

/-- The low bits of the version of this device's group (R279, R284). -/
def groupGv (s : State) : BitVec 16 := match s.group.cached with | some d => d.ver.setWidth 16 | none => 0

/-- The device's group belongs to an enclave. -/
def groupEnc (s : State) : Bool := match s.group.cached with | some d => d.enc | none => false

/-- The group's key of the version whose low bits a packet carries. -/
def keyFor (s : State) (gv : BitVec 16) : Option (BitVec 256) :=
  (s.sec.keys.find? fun k => k.group = s.launch.group ∧ k.ver.setWidth 16 = gv).map (·.key)

/-- The header of a packet as additional data. -/
def packetHead (p : Packet) : List Byte := (packetBytes { p with enc := true }).take 32

/-- Sends a packet of a die of this device; in an ENC group it is sealed (R287). -/
def sendPacket (s : State) (p : Packet) (die : Nat := s.die) : State :=
  let p := { p with src := s.fabric.devid, gv := groupGv s }
  if groupEnc s ∧ p.kind ≠ 8 then
    match keyFor s p.gv with
    | some k =>
      let r := gcmSeal k (packetNonce p) (packetHead p) p.payload
      forwardPacket s { p with enc := true, payload := r.1, tag := r.2 } die
    | none => s
  else forwardPacket s p die

/-! Ports (R280, R352) -/

/-- The flits after the one that FACK names; none where it is not in the buffer. -/
def afterAck (fack : BitVec 12) : List (Flit × Packet) → Option (List (Flit × Packet))
  | [] => none
  | f :: r => if f.1.fseq = fack then some r else afterAck fack r

/-- An intact flit's FACK: the retry buffer gives up what is acknowledged, and the port goes on. -/
def takeAck (s : State) (n : Nat) (fack : BitVec 12) : State :=
  let x := port s n
  match afterAck fack x.retry with
  | some r => pumpPort (setPort s n { x with retry := r, progress := s.device.time }) n
  | none => s

/-- The retry buffer is sent again, in its order (R280). -/
def replay (s : State) (n : Nat) : State :=
  let x := port s n
  setPort s n { x with line := x.line ++ x.retry.map (·.1) }

/-- A port goes down (R352): its bits change, its packets go to other ports or are discarded, and a record counts those. -/
def portDown (s : State) (n : Nat) : State :=
  let x := port s n
  let ps := (x.retry.map (·.2) ++ x.queue.map (·.packet)).eraseDups
  let s := setPort s n { Port.reset with up := false }
  let bit : Word := 1 <<< (20 + n)
  let s := { s with plat := { s.plat with ready := s.plat.ready &&& ~~~bit, error := s.plat.error ||| bit } }
  let lost := (ps.filter fun p => (egressPorts s p.dst.toNat (n / 9)).isEmpty).length
  (ps.foldl (fun s p => forwardPacket s p (n / 9)) s).record none
    (State.engineBody 0x2A 0 0 (0x4000 + n) 0 0 State.noPeer lost 0xFFFFFFFF)

/-- One retraining of a port, with its result: the third failure within a second takes the port down, and replay goes on after
another (R352). -/
def retrain (s : State) (n : Nat) (failed : Bool) : State :=
  let x := port s n
  if ¬ x.up then s
  else
    let recent := (x.retrains.filter fun t => s.device.time < t + 1000000000) ++ (if failed then [s.device.time] else [])
    if failed ∧ 3 ≤ recent.length then portDown s n
    else replay (setPort s n { x with retrains := if failed then recent else x.retrains, naks := 0, progress := s.device.time }) n

/-- A NAK that names a FACK: replay goes on from FACK + 1, and the 16th for one FACK retrains the port. -/
def takeNak (s : State) (n : Nat) (fack : BitVec 12) (failed : Bool) : State :=
  let s := takeAck s n fack
  let x := port s n
  let count := if x.nakFor = fack then x.naks + 1 else 1
  let s := setPort s n { x with nakFor := fack, naks := count }
  if count < 16 then replay s n else retrain s n failed

/-- A packet that has crossed the link whole comes to its event. -/
def deliverPacket (s : State) (p : Packet) : State :=
  { s with agenda := s.agenda ++ [⟨packetRow p.kind, { Input.none with packet := p, index2 := p.src.toNat }⟩] }

/-- The data of a flit that came in sequence: a part of a packet, or the free slots that the far side advertises in the first two
bytes of a control flit (R280, R281; DESIGN CHOICE, log entry 17). -/
def takeFlitData (s : State) (n : Nat) (f : Flit) : State :=
  let x := port s n
  if f.fkind = 3 then setPort s n { x with slots := field f.data 0 2 }
  else
    let bs := if f.fkind = 1 then f.data else x.inbuf ++ f.data
    if packetLength bs ≤ bs.length then deliverPacket (setPort s n { x with inbuf := [] }) (packetFrom bs)
    else setPort s n { x with inbuf := bs }

/-- The flit is accepted when it is the one that the port expects, or else discarded, with one NAK until another one is accepted
(R280). -/
def acceptFlit (s : State) (n : Nat) (f : Flit) : State :=
  let x := port s n
  if flitIntact f ∧ f.fseq = x.expected then
    sendIdle (takeFlitData (setPort s n { x with expected := x.expected + 1, nakSent := false }) n f) n false
  else if x.nakSent then s
  else setPort (sendIdle s n true) n { port (sendIdle s n true) n with nakSent := true }

/-- FLIT_RECEIVE: port `index` receives a flit; `flag` says that a retraining it leads to fails (R280). -/
def execFlitReceive (s : State) : Out :=
  let n := s.input.index
  let f := s.input.flit
  if ¬ (port s n).up then .next s
  else
    let s1 := if ¬ flitIntact f then s else if f.nak then takeNak s n f.fack s.input.flag else takeAck s n f.fack
    .next (if (flitIntact f ∧ f.fkind = 0) ∨ ¬ (port s1 n).up then s1 else acceptFlit s1 n f)

/-- NAK: a NAK reaches port `index`; `flag` says that a retraining it leads to fails (R280, R352). -/
def execNak (s : State) : Out :=
  .next (if (port s s.input.index).up then takeNak s s.input.index s.input.flit.fack s.input.flag else s)

/-- FACK_STALL_TIMEOUT: FACK has not advanced for 10 µs (R352). -/
def execFackStallTimeout (s : State) : Out :=
  let x := port s s.input.index
  .next (if x.up ∧ ¬ x.retry.isEmpty ∧ x.progress + 10000 ≤ s.device.time then retrain s s.input.index s.input.flag else s)

/-- PORT_RETRAIN (R352). -/
def execPortRetrain (s : State) : Out := .next (retrain s s.input.index s.input.flag)

/-- A queue without the packets of which no flit has gone out and that have waited 10 µs (R353). -/
def withoutHeld (time : Nat) : (gone : Bool) → List Chunk → List Chunk
  | _, [] => []
  | gone, c :: cs =>
    let gone := if c.first then c.since + 10000 ≤ time else gone
    if gone then withoutHeld time gone cs else c :: withoutHeld time gone cs

/-- A packet has been held at the gateway, for port n, for 10 µs. -/
def heldLong (s : State) (n : Nat) : Bool := (port s n).queue.any fun c => c.first ∧ c.since + 10000 ≤ s.device.time

/-- PACKET_HOLD_DISCARD: the packets that the gateway has held for port `index` for 10 µs are discarded (R353). -/
def execPacketHoldDiscard (s : State) : Out :=
  let x := port s s.input.index
  .next (setPort s s.input.index { x with queue := withoutHeld s.device.time false x.queue })

/-! Requests of this device (R282) -/

/-- The device of a request. -/
def reqDevice (r : RemoteReq) : Nat := regionOf r.loc - 1

/-- Groups of at most n entries. -/
def partsOf {α : Type} (n : Nat) (l : List α) : List (List α) :=
  (List.range ((l.length + n - 1) / n)).map fun i => (l.drop (n * i)).take n

/-- The bytes of an address and of what goes with it. -/
def addrBytes (l : Nat) : List Byte := natToBytes 8 (addrOf l)

/-- The payloads of a request with more than one location, in as many packets as they need (R279; their layout is log entry 17's,
DESIGN CHOICE). -/
def reqPayloads (op : RemoteOp) : List (List Byte) :=
  match op with
  | .reads us => (partsOf 64 us).map fun g => g.flatMap addrBytes
  | .writes ps => (partsOf 50 ps).map fun g => g.flatMap fun p => addrBytes p.1 ++ natToBytes 4 p.2.length ++ p.2
  | .adds ops => (partsOf 256 ops).map fun g => g.flatMap fun p => addrBytes p.1 ++ natToBytes p.2.bytes p.2.v.toNat
  | _ => []

/-- The function and the width of an atomic, as AUX has them (R283; DESIGN CHOICE, log entry 17). -/
def auxOf (op : AtomicOp) : Nat := op.fn + (if op.w32 then 256 else 0)

/-- AUX of one packet of several (DESIGN CHOICE, log entry 17): bit 63, the number of packets, which of them it is, and 16 bits of
the request. -/
def auxPart (n i low : Nat) : Word := BitVec.ofNat 64 (2 ^ 63 + n * 2 ^ 32 + i * 2 ^ 16 + low)

/-- The ranks of a collective packet within their devices, the number of the transfer and that of its word (DESIGN CHOICE, log
entry 17). -/
def auxData (m3 : Nat) (d : CollData) : Word :=
  BitVec.ofNat 64 (d.word % 2 ^ 12 + d.seq % 2 ^ 32 * 2 ^ 12 + d.rank % m3 * 2 ^ 44 + d.dest % m3 * 2 ^ 52)

/-- ADDR of a collective packet: instance, and place in the slot and whole length in 256-B units (R279; DESIGN CHOICE, log entry
17). -/
def addrData (d : CollData) : Word :=
  BitVec.ofNat 64 (d.inst % 2 ^ 23 + d.off / 256 % 2 ^ 20 * 2 ^ 23 + d.total / 256 % 2 ^ 20 * 2 ^ 43)

/-- The packets of a request (R279; the layout beyond that is log entry 17's, DESIGN CHOICE). A plain read says in AUX at which TIME its
snapshot stands. -/
def requestPackets (s : State) (r : RemoteReq) : List Packet :=
  let p : Packet :=
    { dst := BitVec.ofNat 14 (reqDevice r), src := 0, kind := 0, enc := false, ackreq := true, gv := 0
      seq := BitVec.ofNat 48 r.seq, addr := BitVec.ofNat 64 (addrOf r.loc), aux := 0, payload := [], tag := 0, bad := false }
  let several (kind : Byte) (low : Nat) : List Packet :=
    let bs := reqPayloads r.op
    bs.zipIdx.map fun b =>
      { p with kind := kind, seq := BitVec.ofNat 48 (r.seq + b.2), aux := auxPart bs.length b.2 low, payload := b.1 }
  match r.op with
  | .read imm => [{ p with ackreq := false, aux := if imm then 0 else BitVec.ofNat 64 (s.cutTime r.loc + 1) }]
  | .write bs => [{ p with kind := 2, payload := bs }]
  | .atomic op _ =>
    let v := natToBytes op.bytes op.v.toNat
    if op.fn = 10 then [{ p with kind := 3, aux := op.cmp, payload := v ++ [10] }]
    else [{ p with kind := 3, aux := BitVec.ofNat 64 (auxOf op), payload := v }]
  | .reads _ => several 0 0
  | .writes _ => several 2 0
  | .adds ops => several 3 (match ops with | q :: _ => auxOf q.2 | [] => 0)
  | .data d => [{ p with kind := 6, addr := addrData d, aux := auxData s.launch.m3 d, payload := d.bytes }]
  | .notice id rank dest =>
    let d : CollData := ⟨id, rank, dest, 0, 0, 0, 0, []⟩
    [{ p with kind := 7, ackreq := false, addr := addrData d, aux := auxData s.launch.m3 d }]

/-- Sequence numbers that a request takes. -/
def reqSeqs (r : RemoteReq) : Nat := max 1 (reqPayloads r.op).length

/-- Replaces a request. -/
def setReq (s : State) (r : RemoteReq) : State :=
  { s with memory := { s.memory with reqs := s.memory.reqs.map fun x => if x.id = r.id then r else x } }

/-- A request has ended. -/
def endReq (s : State) (r : RemoteReq) : State :=
  { s with memory := { s.memory with reqs := s.memory.reqs.filter fun x => x.id ≠ r.id } }

/-- The next sequence numbers of this device towards another one, so many of them (R279, R301). -/
def nextSeq (s : State) (dst : BitVec 14) (count : Nat) : Nat × State :=
  let own := s.fabric.devid
  let mine (q : BitVec 14 × BitVec 14 × Nat) : Bool := q.1 = own ∧ q.2.1 = dst
  let n := match s.fabric.seqs.find? mine with | some q => q.2.2 | none => 1
  (n, { s with fabric := { s.fabric with seqs := (own, dst, n + count) :: s.fabric.seqs.filter fun q => ¬ mine q } })

/-- A write that was given up, at its owner (R355): the task's waiter, a copy, an instance, or a reshard. -/
def writeGivenUp (s : State) (r : RemoteReq) (t : Trap) (uncertain : Bool) : State :=
  let rec_ (s : State) : State :=
    if uncertain ∧ ¬ isData r.op then s.engineRecord 0x29 (some t) 0 (reqDevice r) 1 else s
  match r.owner with
  | .task | .pub => { s with memory := { s.memory with uncertain := s.memory.uncertain ++ [t] } }
  | .copy id =>
    match s.channel.cmds.find? fun c => c.id = id with
    | some c => rec_ (setCopy s { c with fault := if c.fault.isSome then c.fault else some t })
    | none => rec_ s
  | .coll id =>
    match instanceOf s id with
    | some x => rec_ (failInstance s x (if t.detail = 4 then groupTrap else ⟨.fabric, 3, 0⟩) (reqDevice r) true)
    | none =>
      match reshardById s id with
      | some x => rec_ (failReshard s x (if t.detail = 4 then groupTrap else ⟨.fabric, 3, 0⟩))
      | none => rec_ s
  | .xfer _ | .engine => rec_ s

/-- A returning atomic was given up: its entry holds no value (R355); an element of a VATOM counts as come, and its entry
traps the same way. -/
def atomicGivenUp (s : State) (r : RemoteReq) (t : Trap) (uncertain : Bool) : State :=
  let s := if uncertain then s.engineRecord 0x29 (some t) 0 (reqDevice r) 1 else s
  match r.slot with
  | some id => { s with ret := s.ret.map fun e => if e.id = id then { e with bad := some t } else e }
  | none =>
    let slot := match s.queues.s.entries.head? with | some e => e.slot | none => none
    { s with
      ret := s.ret.map fun e => if some e.id = slot then { e with bad := some t } else e
      memory := { s.memory with
        vatom := s.memory.vatom.map fun l => l.map fun w => if w.2.2 = some r.id then (w.1, some 0, none) else w } }

/-- Units whose read was given up, for their consumers (R355). -/
def readsFailed (s : State) (us : List Nat) (t : Nat → Trap) : State :=
  { s with memory := { s.memory with failed := s.memory.failed ++ us.map fun u => (u / 64 * 64, t u) } }

/-- A request ends as given up, with this FABRIC detail for a write; reads have detail 3, or 4 for a stale version (R355 to
R357). -/
def giveUp (s : State) (r : RemoteReq) (detail : Nat) : State :=
  let s := endReq s r
  let read (va : Word) : Trap := ⟨.fabric, if detail = 4 then 4 else 3, va⟩
  match r.op with
  | .read _ => readsFailed s [r.loc] fun _ => read r.va
  | .reads us => readsFailed s us fun u => read (s.vaOf u)
  | .atomic _ true => atomicGivenUp s r ⟨.fabric, detail, r.va⟩ (detail ≠ 4)
  | .notice .. => s
  | .write _ | .writes _ | .adds _ | .data _ | .atomic _ false => writeGivenUp s r ⟨.fabric, detail, r.va⟩ (detail ≠ 4)

/-- A request is sent, the first time or again. -/
def sendAgain (s : State) (r : RemoteReq) : State :=
  let r := { r with sent := true, sends := r.sends + 1, at_ := s.device.time }
  (requestPackets s r).foldl (fun s p => sendPacket s p) (setReq s r)

/-- Parts of collective data that are on their way to a device: another one needs credit (R261). -/
def noCredit (s : State) (r : RemoteReq) : Bool :=
  isData r.op ∧ Config.collCredit (reqDevice r) < (s.memory.reqs.filter fun x => isData x.op ∧ x.sent ∧ reqDevice x = reqDevice r).length

/-- A request that has not been sent goes out; to a device with no route, or before the device has its number, it ends at once
(R282, R301, R356). Requests to the host need no packet, and nothing answers the notice of an abort. -/
def sendFirst (s : State) (r : RemoteReq) : State :=
  if regionOf r.loc = hostRegion then setReq s { r with sent := true }
  else if routeOf s (reqDevice r) = 0 ∨ ¬ s.fabric.devset then
    let s := giveUp s r 3
    s.record s.ownEntry (State.engineBody 0x2B Cause.fabric.code.toNat 3 s.core.toNat 0 r.va (reqDevice r) 0 s.launch.task)
  else if noCredit s r then s
  else
    let q := nextSeq s (BitVec.ofNat 14 (reqDevice r)) (reqSeqs r)
    let s := sendAgain q.2 { r with seq := q.1 }
    match r.op with | .notice .. => endReq s r | _ => s

/-- Requests that have not been sent go out. -/
def sendRequests (s : State) : State := (s.memory.reqs.filter fun r => ¬ r.sent).foldl sendFirst s

/-- The request that an event names. -/
def reqOf (s : State) (id : Nat) : Option RemoteReq :=
  s.memory.reqs.find? fun r => r.id = id ∧ r.sent ∧ regionOf r.loc ≠ hostRegion

/-- REQUEST_RESEND (R282). -/
def execRequestResend (s : State) : Out :=
  match reqOf s s.input.index with
  | some r => .next (if r.sends < 8 ∧ r.at_ + 20000 ≤ s.device.time then sendAgain s r else s)
  | none => .next s

/-- REQUEST_GIVE_UP (R354). -/
def execRequestGiveUp (s : State) : Out :=
  match reqOf s s.input.index with
  | some r => .next (if 8 ≤ r.sends ∧ r.at_ + 100000 ≤ s.device.time then giveUp s r 1 else s)
  | none => .next s

/-! Packets that arrive -/

/-- The checks of a packet that arrives: the packet opened, or the state after it is dropped (R279, R284, R287, R309, R357). -/
def admitPacket (s : State) (kind : Byte) : Except State Packet :=
  let p := s.input.packet
  let f := s.fabric
  let bump (n : BitVec 16) : BitVec 16 := if n = 0xFFFF then n else n + 1
  if s.sec.frozen then .error s
  else if p.bad ∨ 8 < p.kind.toNat then .error { s with fabric := { f with badpk := bump f.badpk } }
  else if p.kind ≠ kind ∨ p.dst ≠ f.devid then .error s
  else if s.group.cached.isSome ∧ p.kind ≠ 8 ∧ p.gv ≠ groupGv s then
    let s := { s with fabric := { f with gvdrop := bump f.gvdrop } }
    let back : Packet :=
      { dst := p.src, src := 0, kind := 5, enc := false, ackreq := false, gv := 0, seq := p.seq, addr := p.addr, aux := 1
        payload := [], tag := 0, bad := false }
    if p.kind = 0 ∨ p.kind = 2 ∨ p.kind = 3 then .error (sendPacket s back)
    else if p.kind = 6 then .error (sendPacket s { back with kind := 7, aux := 2 ^ 63 })
    else .error s
  else
    let opened : Option Packet :=
      if p.enc then
        match keyFor s p.gv with
        | some k => (gcmOpen k (packetNonce p) (packetHead p) p.payload p.tag).map fun b => { p with payload := b }
        | none => none
      else if groupEnc s ∧ p.kind ≠ 8 then none
      else some p
    match opened with
    | none => .error { s with fabric := { f with authf := bump f.authf } }
    | some p => .ok p

/-- A packet that answers another one. -/
def answerPacket (p : Packet) (kind : Byte) (aux : Word) (payload : List Byte) : Packet :=
  { dst := p.src, src := 0, kind := kind, enc := false, ackreq := false, gv := 0, seq := p.seq, addr := p.addr, aux := aux
    payload := payload, tag := 0, bad := false }

/-! The deduplication window (R283, R354) -/

/-- The window of a source, for this device's number (R301). -/
def windowOf (s : State) (src : BitVec 14) : Window :=
  match s.fabric.windows.find? fun w => w.own = s.fabric.devid ∧ w.src = src with
  | some w => w
  | none => ⟨s.fabric.devid, src, 0, [], [], [], 0⟩

/-- Replaces a window. -/
def setWindow (s : State) (w : Window) : State :=
  { s with fabric := { s.fabric with windows := w :: s.fabric.windows.filter fun x => ¬ (x.own = w.own ∧ x.src = w.src) } }

/-- H advances over the set bits that follow it. -/
def advanceHigh : (fuel : Nat) → (high : Nat) → (bits : List Nat) → Nat × List Nat
  | 0, h, bits => (h, bits)
  | n + 1, h, bits => if bits.contains (h + 1) then advanceHigh n (h + 1) (bits.filter (· ≠ h + 1)) else (h, bits)

/-- The window with a bit set. -/
def Window.mark (w : Window) (n time : Nat) : Window :=
  let r := advanceHigh (w.bits.length + 1) w.high (n :: w.bits)
  { w with high := r.1, bits := r.2, since := if r.1 = w.high ∧ ¬ w.bits.isEmpty then w.since else time }

/-- The window with the bits of a request of so many packets set. -/
def Window.markAll (w : Window) (n time : Nat) : (count : Nat) → Window
  | 0 => w
  | k + 1 => (w.markAll n time k).mark (n + k) time

/-- Where a sequence number lies. -/
inductive WindowPlace where
  | done | fresh | far
  deriving DecidableEq, Repr

/-- The position of a request against the window (R283). -/
def Window.place (w : Window) (n : Nat) : WindowPlace :=
  if n ≤ w.high ∨ w.bits.contains n then .done else if w.high + 4096 < n then .far else .fresh

/-- DEDUP_HOLE_TIMEOUT: the clear bits below a set one have stood for 200 µs, and count as set (R354). -/
def execDedupHoleTimeout (s : State) : Out :=
  let w := windowOf s (BitVec.ofNat 14 s.input.index)
  match w.bits with
  | [] => .next s
  | b :: bs =>
    if w.since + 200000 ≤ s.device.time then
      let low := bs.foldl min b
      let r := advanceHigh (w.bits.length + 1) low (w.bits.filter (· ≠ low))
      .next (setWindow s { w with high := r.1, bits := r.2, since := s.device.time, parts := w.parts.filter fun q => r.1 < q.1 })
    else .next s

/-! Requests of other devices -/

/-- The packet is one of several of a request (DESIGN CHOICE, log entry 17). -/
def isPart (p : Packet) : Bool := p.aux.getLsbD 63 ∧ ¬ (p.kind = 3 ∧ p.payload.length < 12)

/-- Which packet of its request this is, and of how many. -/
def partIx (p : Packet) : Nat × Nat :=
  if isPart p then (p.aux.toNat / 2 ^ 16 % 2 ^ 16, p.aux.toNat / 2 ^ 32 % 2 ^ 16) else (0, 1)

/-- The first sequence number of a packet's request. -/
def partFirst (p : Packet) : Nat := p.seq.toNat - (partIx p).1

/-- The payload of a request whose last packet has come, and the window without its parts; or the window that keeps this one. -/
def gather (w : Window) (p : Packet) : Except Window (List Byte × Window) :=
  let n := (partIx p).2
  let first := partFirst p
  let have_ := (p.seq.toNat, p.payload) :: w.parts.filter fun q => q.1 ≠ p.seq.toNat
  let got := (List.range n).filterMap fun i => (have_.find? fun q => q.1 = first + i).map (·.2)
  if got.length = n then .ok (got.flatten, { w with parts := have_.filter fun q => q.1 < first ∨ first + n ≤ q.1 })
  else .error { w with parts := have_ }

/-- The entries of a payload: an address and so many bytes with each, or with none given as many as its length says. -/
def entriesOf (size : Option Nat) : (fuel : Nat) → List Byte → List (Nat × List Byte)
  | 0, _ => []
  | n + 1, bs =>
    if bs.length < 8 then []
    else
      let (k, rest) := match size with
        | some k => (k, bs.drop 8)
        | none => (field bs 8 4, bs.drop 12)
      (field bs 0 8, rest.take k) :: entriesOf size n (rest.drop k)

/-- The atomic of a packet. -/
def packetAtomic (p : Packet) : AtomicOp :=
  let n := p.payload.length
  if n % 4 = 1 then ⟨10, n = 5, BitVec.ofNat 64 (bytesToNat (p.payload.take (n - 1))), p.aux⟩
  else ⟨p.aux.toNat % 256, n = 4, BitVec.ofNat 64 (bytesToNat p.payload), 0⟩

/-- What a packet's request asks, from its whole payload. -/
def packetOp (p : Packet) (bs : List Byte) : RemoteOp :=
  match p.kind.toNat, isPart p with
  | 0, false => .read (p.aux = 0)
  | 0, true => .reads ((entriesOf (some 0) bs.length bs).map (·.1))
  | 2, false => .write bs
  | 2, true => .writes (entriesOf none bs.length bs)
  | _, false => .atomic (packetAtomic p) true
  | _, true =>
    let w32 : Bool := p.aux.getLsbD 8
    .adds ((entriesOf (some (if w32 then 4 else 8)) bs.length bs).map fun e =>
      (e.1, ⟨p.aux.toNat % 256, w32, BitVec.ofNat 64 (bytesToNat e.2), 0⟩))

/-- The addresses that a request reaches here; a read takes whole units. -/
def targetAddrs (a : Nat) (op : RemoteOp) : List Nat :=
  match op with
  | .read _ => bytesAt (a / 64 * 64) 64
  | .reads us => us.flatMap fun u => bytesAt (u / 64 * 64) 64
  | .write bs => bytesAt a bs.length
  | .writes ps => ps.flatMap fun p => bytesAt p.1 p.2.length
  | .atomic op _ => bytesAt a op.bytes
  | .adds ops => ops.flatMap fun p => bytesAt p.1 p.2.bytes
  | .data _ | .notice .. => []

/-- The address lies in the device's memory (R74). -/
def addrOk (s : State) (a : Nat) : Bool := physKind s.device.sscfg a = .hbm ∨ physKind s.device.sscfg a = .stacked

/-- What a request does here, as one event: whether it met an uncorrectable error, the bytes of its answer, and the state (R91, R282,
R283, R337, R368). Packed frames are seen expanded (R85). `cut` is the TIME of the snapshot that a plain read is served from (R100). -/
def performRemote (s : State) (cut : Option Nat) (a : Nat) (op : RemoteOp) : Bool × List Byte × State :=
  let view := s.device.viewOf
  let locs := (targetAddrs a op).map view
  let bad := locs.any fun l => s.poisoned l ∨ s.stackFailed l
  let home := match cut with | some t => s.homeAt t | none => s.memory.home
  match op with
  | .read _ | .reads _ => (bad, locs.map (homeRead s.device.pkfmt home), s)
  | .write bs => (false, [], s.install (locs.zip bs))
  | .writes ps => (false, [], s.install (locs.zip (ps.flatMap (·.2))))
  | .atomic op _ =>
    if bad then (true, natToBytes 8 0, s)
    else
      let r := op.apply (locs.map s.homeByte)
      (false, natToBytes 8 r.2.toNat, s.install (locs.zip r.1))
  | .adds ops =>
    if bad then (true, [], s)
    else
      let m := addedOps s.homeByte (ops.map fun p => (view p.1, p.2))
      (false, locs.map fun l => (Overlay.get? m l).getD 0, s.install m)
  | .data _ | .notice .. => (false, [], s)

/-- An outside access waits until its stacks are ready (R311). -/
def park (s : State) (row : Instr) : State :=
  { s with plat := { s.plat with waiting := s.plat.waiting ++ [⟨row, s.input⟩] } }

/-- The packets of an answer: one, or as many as the request had, with the bytes divided among them. -/
def answerParts (p : Packet) (kind : Byte) (bad : Bool) (bs : List Byte) : List Packet :=
  let n := (partIx p).2
  let low := if bad then 1 else 0
  if ¬ isPart p then [answerPacket p kind (BitVec.ofNat 64 low) bs]
  else
    let size := if p.kind = 0 then 4096 else 256 * (if p.aux.getLsbD 8 then 4 else 8)
    (List.range n).map fun i =>
      { answerPacket p kind (auxPart n i low) ((bs.drop (size * i)).take size) with seq := BitVec.ofNat 48 (partFirst p + i) }

/-- The kind of the answer to a request: a response, or the acknowledgement of a write (R279). -/
def answerKind (kind : Byte) : Byte := if kind = 0 then 1 else if kind = 3 then 4 else 5

/-- The answer to a request leaves, from the die of its home (R278). -/
def answerRequest (s : State) (p : Packet) (bad : Bool) (bs : List Byte) : State :=
  let q := if p.kind = 2 then [{ answerPacket p 5 0 [] with seq := BitVec.ofNat 48 (partFirst p) }]
    else answerParts p (answerKind p.kind) bad bs
  q.foldl (fun s q => sendPacket s q (homeDie p.addr.toNat)) s

/-- A request that the window has: it is answered again, with what was kept (R283). -/
def answerAgain (s : State) (w : Window) (p : Packet) : State :=
  if p.kind = 2 then answerRequest s p false []
  else
    match w.olds.find? fun o => o.1 = partFirst p with
    | some o => answerRequest s p o.2.1 o.2.2
    | none => s

/-- A read, a write or an atomic of another device (R282, R283): a single read is served each time that it comes, every other request
is performed once, and its answer kept. -/
def serveRequest (s : State) (kind : Byte) (row : Instr) : Out :=
  match admitPacket s kind with
  | .error s => .next s
  | .ok p =>
    let w := windowOf s p.src
    let once : Bool := kind ≠ 0 ∨ isPart p
    match (if once then w.place p.seq.toNat else .fresh) with
    | .far => .next s
    | .done => .next (answerAgain s w p)
    | .fresh =>
      match gather w p with
      | .error w => .next (setWindow s w)
      | .ok (bs, w') =>
        let op := packetOp p bs
        let as_ := targetAddrs p.addr.toNat op
        match as_.find? fun a => ¬ addrOk s a with
        | some a => .fault (.reservedAddress a)
        | none =>
          if s.stackWaits (as_.map s.device.viewOf) then .next (park s row)
          else
            let cut := if kind = 0 ∧ p.aux ≠ 0 ∧ ¬ isPart p then some (p.aux.toNat - 1) else none
            let r := performRemote s cut p.addr.toNat op
            let w' := if w.place p.seq.toNat = .fresh then w'.markAll (partFirst p) s.device.time (partIx p).2 else w'
            let w' := if once ∧ kind ≠ 2 then { w' with olds := (partFirst p, r.1, r.2.1) :: w'.olds } else w'
            .next (answerRequest (setWindow r.2.2 w') p r.1 r.2.1)

/-- REMOTE_READ: served at its home; a poisoned unit says so in AUX (R282, R337). -/
def execRemoteRead (s : State) : Out := serveRequest s 0 .remoteRead

/-- REMOTE_WRITE: performed once through the window, and acknowledged (R107, R283). -/
def execRemoteWrite (s : State) : Out := serveRequest s 2 .remoteWrite

/-- REMOTE_ATOMIC: performed once at the home as an immediate, and answered with the old value (R283); a poisoned unit is not
touched, which AUX says (R337). -/
def execRemoteAtomic (s : State) : Out := serveRequest s 3 .remoteAtomic

/-! Answers -/

/-- The own request that an answer names. -/
def answered (s : State) (p : Packet) : Option RemoteReq :=
  s.memory.reqs.find? fun r =>
    r.sent ∧ regionOf r.loc = peerRegion p.src.toNat ∧ r.seq ≤ p.seq.toNat ∧ p.seq.toNat < r.seq + reqSeqs r

/-- The bytes of a unit that a read brings: for the immediate in progress, the copy of a fabric-cached line, or the snapshot
(R100, R106). Bytes of a copy that stand there stay. -/
def takeUnit (s : State) (r : RemoteReq) (imm : Bool) (bs : List Byte) : State :=
  let ws := bs.zipIdx.map fun b => (r.loc + b.2, b.1)
  let copied : Bool := match s.leafOf r.va.toNat with | .ok (leaf, _) => Leaf.mode leaf = 2 | .error _ => false
  if imm then { s with memory := { s.memory with peerImm := Overlay.setAll s.memory.peerImm ws } }
  else if copied then
    let dev := regionOf r.loc - 1
    let ws := (ws.map fun w => (regionBase (cachedRegion dev) + addrOf w.1, w.2)).filter fun w =>
      (Overlay.get? s.memory.cached w.1).isNone
    { s with memory := { s.memory with cached := Overlay.setAll s.memory.cached ws } }
  else { s with memory := { s.memory with peerSnap := Overlay.setAll s.memory.peerSnap ws } }

/-- A read ends with its data, or with poison that its consumer reports (R339). -/
def endRead (s : State) (r : RemoteReq) (bad : Bool) (bs : List Byte) : State :=
  let s := endReq s r
  match r.op with
  | .read imm => if bad then readsFailed s [r.loc] fun _ => ⟨.eccunc, 7, r.va⟩ else takeUnit s r imm bs
  | .reads us =>
    if bad then readsFailed s us fun u => ⟨.eccunc, 7, s.vaOf u⟩
    else
      { s with memory := { s.memory with
          peerImm := Overlay.setAll s.memory.peerImm ((us.flatMap fun u => bytesAt (u / 64 * 64) 64).zip bs) } }
  | _ => s

/-- A part of an answer joins those that have come: all of them, or the request with what it has. -/
def collect (r : RemoteReq) (p : Packet) : Except RemoteReq (List Byte) :=
  let n := reqSeqs r
  let got := (p.seq.toNat - r.seq, p.payload) :: r.got.filter fun q => q.1 ≠ p.seq.toNat - r.seq
  let bs := (List.range n).filterMap fun i => (got.find? fun q => q.1 = i).map (·.2)
  if bs.length = n then .ok bs.flatten else .error { r with got := got }

/-- The acknowledgement of an answer, so that the home may forget it (R283); AUX[1] tells it from that of a write (DESIGN CHOICE, log
entry 17). -/
def ackAnswer (s : State) (r : RemoteReq) (p : Packet) : State :=
  sendPacket s { answerPacket p 5 2 [] with seq := BitVec.ofNat 48 r.seq }

/-- READ_RESPONSE (R282); only the first one is used. -/
def execReadResponse (s : State) : Out :=
  match admitPacket s 1 with
  | .error s => .next s
  | .ok p =>
    match answered s p with
    | some r =>
      match r.op with
      | .read _ => .next (endRead s r (p.aux.getLsbD 0) p.payload)
      | .reads _ =>
        match collect r p with
        | .error r => .next (setReq s r)
        | .ok bs => .next (ackAnswer (endRead s r (p.aux.getLsbD 0) bs) r p)
      | _ => .next s
    | none => .next s

/-- What an own immediate has left at another device's home is the task's own until the next open (R94); bytes that the task has
written since keep their later values. -/
def ownLeft (s : State) (ws : List (Nat × Byte)) : State :=
  { s with memory := { s.memory with
      own := Overlay.setAll s.memory.own (ws.filter fun w => (Overlay.get? s.memory.own w.1).isNone)
      wrote := Overlay.setAll s.memory.wrote (ws.filter fun w => (Overlay.get? s.memory.own w.1).isNone) } }

/-- The old value of an own atomic arrives at its waiter. -/
def giveOld (s : State) (r : RemoteReq) (w32 : Bool) (v : Word) : State :=
  let s := deliverOld r.slot v s
  let n := if w32 then v.toNat % 2 ^ 32 else v.toNat
  { s with memory := { s.memory with
    vatom := s.memory.vatom.map fun l => l.map fun w => if w.2.2 = some r.id then (w.1, some n, none) else w } }

/-- An own atomic has been performed with this old value. -/
def endAtomic (s : State) (r : RemoteReq) (op : AtomicOp) (old bad : Bool) (v : Word) : State :=
  let s := endReq s r
  let t : Trap := ⟨.eccunc, 7, r.va⟩
  if bad then (if old then atomicGivenUp s r t false else writeGivenUp s r t false)
  else
    let left := (op.apply (natToBytes op.bytes v.toNat)).1
    let s := ownLeft s ((bytesAt r.loc op.bytes).zip left)
    if old then giveOld s r op.w32 v else s

/-- ATOMIC_RESPONSE (R282); it is acknowledged (R283). The answer to several additions has what they have left. -/
def execAtomicResponse (s : State) : Out :=
  match admitPacket s 4 with
  | .error s => .next s
  | .ok p =>
    match answered s p with
    | some r =>
      match r.op with
      | .atomic op old =>
        .next (ackAnswer (endAtomic s r op old (p.aux.getLsbD 0) (BitVec.ofNat 64 (bytesToNat p.payload))) r p)
      | .adds ops =>
        match collect r p with
        | .error r => .next (setReq s r)
        | .ok bs =>
          let s := ackAnswer (endReq s r) r p
          .next (if p.aux.getLsbD 0 then writeGivenUp s r ⟨.eccunc, 7, r.va⟩ false
            else ownLeft s ((ops.flatMap fun q => bytesAt q.1 q.2.bytes).zip bs))
      | _ => .next s
    | none => .next (sendPacket s (answerPacket p 5 2 []))

/-- ACKNOWLEDGEMENT: it ends the holding of a write; AUX[0] tells of a stale group version (R282, R357), and AUX[1] that the home may
forget an answer (R283). -/
def execAcknowledgement (s : State) : Out :=
  match admitPacket s 5 with
  | .error s => .next s
  | .ok p =>
    if p.aux.getLsbD 1 then
      let w := windowOf s p.src
      .next (setWindow s { w with olds := w.olds.filter fun o => o.1 ≠ p.seq.toNat })
    else
      match answered s p with
      | none => .next s
      | some r =>
        if p.aux.getLsbD 0 then .next (giveUp s r 4)
        else
          match r.op with
          | .write _ | .writes _ | .data _ => .next (endReq s r)
          | _ => .next s

/-! Collective data and round messages -/

/-- The rank of the task's domain that has this number within a device. -/
def rankOn (s : State) (dev : BitVec 14) (local_ : Nat) : Nat :=
  match groupDesc s with
  | some d => (d.ranks.findIdx? (· = dev)).getD 0 * s.launch.m3 + local_
  | none => local_

/-- The part that a packet brings (DESIGN CHOICE, log entry 17). -/
def packetData (s : State) (p : Packet) : CollData :=
  let a := p.addr.toNat
  let x := p.aux.toNat
  let inst := a % 2 ^ 23
  let word := x % 2 ^ 12
  { inst := inst, rank := rankOn s p.src (x / 2 ^ 44 % 2 ^ 8), dest := rankOn s s.fabric.devid (x / 2 ^ 52 % 2 ^ 8)
    seq := x / 2 ^ 12 % 2 ^ 32, word := word, off := a / 2 ^ 23 % 2 ^ 20 * 256
    total := a / 2 ^ 43 % 2 ^ 20 * 256 + if isReshardId inst then word else 0
    bytes := p.payload }

/-- Data of a collective arrive. -/
def arriveData (s : State) (p : Packet) : State := takeData s (packetData s p)

/-- COLLECTIVE_DATA: from another device once through the window and acknowledged; from a rank of this device as it is. -/
def execCollectiveData (s : State) : Out :=
  if s.input.packet.src = s.fabric.devid then .next (arriveData s s.input.packet)
  else
    match admitPacket s 6 with
    | .error s => .next s
    | .ok p =>
      let w := windowOf s p.src
      match w.place p.seq.toNat with
      | .far => .next s
      | .done => .next (sendPacket s (answerPacket p 5 0 []))
      | .fresh =>
        .next (sendPacket (setWindow (arriveData s p) (w.mark p.seq.toNat s.device.time)) (answerPacket p 5 0 []))

/-- A list of bytes with its length before it. -/
def sized (bs : List Byte) : List Byte := natToBytes 4 bs.length ++ bs

/-- The bytes of a round message: its code, H, and what it carries (R285; DESIGN CHOICE, log entry 17). -/
def msgBytes (m : GroupMsg) : List Byte :=
  let head (c : Nat) (h : BitVec 256) : List Byte := natToBytes 1 c ++ natToBytes 32 h.toNat
  match m with
  | .propose h d => head 0 h ++ sized (descriptorBytes d)
  | .refuse h => head 1 h
  | .signature h g => head 2 h ++ sized g
  | .adopt h d gs box =>
    head 3 h ++ sized (descriptorBytes d) ++ natToBytes 4 gs.length
      ++ (gs.flatMap fun g => natToBytes 2 g.1.toNat ++ sized g.2) ++ sized box
  | .abort h => head 4 h
  | .ack h => head 5 h

/-- A list of bytes that has its length before it, and the rest. -/
def unsized (bs : List Byte) : List Byte × List Byte := ((bs.drop 4).take (field bs 0 4), bs.drop (4 + field bs 0 4))

/-- Signatures with their devices, and the rest. -/
def sigsOf : (n : Nat) → List Byte → List (BitVec 14 × List Byte) × List Byte
  | 0, bs => ([], bs)
  | n + 1, bs =>
    let g := unsized (bs.drop 2)
    let r := sigsOf n g.2
    ((BitVec.ofNat 14 (field bs 0 2), g.1) :: r.1, r.2)

/-- What a round message brings to its event. -/
def msgInput (i : Input) (bs : List Byte) : Input :=
  let code := field bs 0 1
  let i := { i with index := code, hash := BitVec.ofNat 256 (field bs 1 32) }
  let body := unsized (bs.drop 33)
  match code with
  | 0 => { i with desc := descriptorOf (body.1.take 64) (body.1.drop 64) }
  | 2 => { i with sig := body.1 }
  | 3 =>
    let gs := sigsOf (field body.2 0 4) (body.2.drop 4)
    { i with desc := descriptorOf (body.1.take 64) (body.1.drop 64), sigs := gs.1, bytes := (unsized gs.2).1 }
  | _ => i

/-- A round message leaves in packets of KIND 8: ADDR has the place of each in the message, AUX its length (R279; DESIGN CHOICE, log
entry 17). -/
def sendMessage (s : State) (m : BitVec 14 × GroupMsg) : State :=
  let bs := msgBytes m.2
  let parts := partsOf 4096 bs
  let q := nextSeq s m.1 parts.length
  parts.zipIdx.foldl (fun s b =>
    sendPacket s { dst := m.1, src := 0, kind := 8, enc := false, ackreq := false, gv := 0, seq := BitVec.ofNat 48 (q.1 + b.2)
                   addr := BitVec.ofNat 64 (4096 * b.2), aux := BitVec.ofNat 64 bs.length, payload := b.1, tag := 0, bad := false }) q.2

/-- Round messages that have not left do. -/
def sendMessages (s : State) : State :=
  s.group.sent.foldl sendMessage { s with group := { s.group with sent := [] } }

/-- A round message acts: `index` is its code. -/
def takeMessage (s : State) : State :=
  match s.input.index with
  | 0 => receivePropose s
  | 1 => receiveRefuse s
  | 2 => receiveSignature s
  | 3 => receiveAdopt s
  | 4 => receiveAbort s
  | _ => receiveAck s

/-- GROUP_ROUND: an agreement-round packet arrives, and its message acts when all of it has come (R279, R285); or a message arrives
whole, of the code `index`: 0 PROPOSE, 1 REFUSE, 2 a signature, 3 ADOPT, 4 ABORT, any other an acknowledgement. -/
def execGroupRound (s : State) : Out :=
  if s.input.packet.kind ≠ 8 then .next (takeMessage s)
  else
    match admitPacket s 8 with
    | .error s => .next s
    | .ok p =>
      let i := p.addr.toNat / 4096
      let first := p.seq.toNat - i
      let others := s.fabric.frags.filter fun f => ¬ (f.1 = p.src ∧ f.2.1 = first ∧ f.2.2.1 = i)
      let all := (p.src, first, i, p.payload) :: others
      let n := (p.aux.toNat + 4095) / 4096
      let got := (List.range n).filterMap fun k =>
        (all.find? fun f => f.1 = p.src ∧ f.2.1 = first ∧ f.2.2.1 = k).map (·.2.2.2)
      if got.length = n then
        let s := { s with fabric := { s.fabric with frags := others.filter fun f => ¬ (f.1 = p.src ∧ f.2.1 = first) } }
        .next (takeMessage { s with input := msgInput { s.input with index2 := p.src.toNat } got.flatten })
      else .next { s with fabric := { s.fabric with frags := all } }

/-! The host's memory -/

/-- CXL_MEM_RESPONSE: the host answers request `index`: `bytes` of a read, poisoned with `flag`, or the end of a write (R80,
R337). -/
def execCxlMemResponse (s : State) : Out :=
  match s.memory.reqs.find? fun r => r.id = s.input.index ∧ regionOf r.loc = hostRegion with
  | none => .next s
  | some r =>
    let n := match r.op with | .read _ => 64 | .reads us => 64 * us.length | _ => 0
    if n = 0 then .next (endReq s r)
    else if s.input.bytes.length = n ∨ s.input.flag then .next (endRead s r s.input.flag s.input.bytes)
    else .next s

end Sys2Proof.Machine
end

