-- ==== Sys2Proof/Machine/Ordered.lean ====
section
/-! DEFINITION. Ordered accesses at their homes (R295 to R297). -/

namespace Sys2Proof.Machine

/-- The bytes of an atomic's location. -/
def opBytes (p : Nat × AtomicOp) : Nat := if p.2.w32 then 4 else 8

/-- Two held accesses of one domain meet at a location; those of different domains have no order between them (R296). -/
def Held.meets (a b : Held) : Bool :=
  a.dom = b.dom ∧ a.ops.any fun p => b.ops.any fun q => p.1 < q.1 + opBytes q ∧ q.1 < p.1 + opBytes p

/-- Logical order: the keys of R296. -/
def Held.before (a b : Held) : Bool :=
  a.task < b.task ∨ (a.task = b.task ∧ (a.elem < b.elem ∨ (a.elem = b.elem ∧ a.isn < b.isn)))

/-- The home holds the end markers of an interval from the tasks of a level-3 domain up to one of them (R296). -/
def markedUpTo (s : State) (d : OrdDomain) (interval last : Nat) : Bool :=
  (List.range (last - d.first + 1)).all fun i => s.ordered.markers.contains (d, interval, d.first + i)

/-- An interval of a level-3 domain has closed (R295): generation i + 1 of its interval barrier has completed, which for the
domain of the task in focus its barrier shows, and for any other the end markers of all its tasks. -/
def intervalClosed (s : State) (d : OrdDomain) (interval : Nat) : Bool :=
  if s.status ≠ .none ∧ s.launch.det ∧ d = ordDomain s then
    match s.bars[s.launch.header.nbar - 1]? with
    | some b =>
      let past := (b.gen - BitVec.ofNat 16 interval).toNat
      s.launch.header.nbar ≠ 0 ∧ 0 < past ∧ past < 2 ^ 15
    | none => false
  else markedUpTo s d interval (d.first + d.count - 1)

/-- Nothing of an earlier interval is held at the access's locations. -/
def noEarlier (s : State) (h : Held) : Bool := s.ordered.held.all fun x => ¬ (x.interval < h.interval ∧ x.meets h)

/-- A sequenced access may be performed (R296).
DEDUCED: log entry 24. -/
def seqReady (s : State) (h : Held) : Bool :=
  h.seqd ∧ noEarlier s h ∧ markedUpTo s h.dom h.interval h.task
    ∧ s.ordered.held.all fun x => ¬ (x.seqd ∧ x.interval = h.interval ∧ x.before h ∧ x.meets h)

/-- A batched access may be performed (R296). -/
def batchReady (s : State) (h : Held) : Bool :=
  ¬ h.seqd ∧ noEarlier s h ∧ intervalClosed s h.dom h.interval
    ∧ s.ordered.held.all fun x => ¬ (x.interval = h.interval ∧ x.meets h ∧ (x.seqd ∨ x.before h))

/-- The atomics of an access at their homes, as one event; the old value of the first (R101, R296). -/
def performOps (s : State) (own : Bool) (ops : List (Nat × AtomicOp)) : State × Word :=
  let ws := addedOps s.homeByte ops
  (if own then (s.writeImm ws).rememberAll (ops.map (·.1)) else s.install ws,
   match ops with | p :: _ => (p.2.apply ((bytesAt p.1 (opBytes p)).map s.homeByte)).2 | [] => 0)

/-- An access whose unit is poisoned ends with nothing installed: the entry that waits for its value reports it, and for one that
returns none the task's next wait for its accesses does (R116, R337, R338). -/
def heldPoisoned (s : State) (h : Held) : State :=
  match h.slot with
  | some id => { s with ret := s.ret.map fun e => if e.id = id then { e with bad := some ⟨.eccunc, 5, 0⟩ } else e }
  | none =>
    if h.vec ∧ h.mine then
      let slot := match s.queues.s.entries.head? with | some e => e.slot | none => none
      { s with
        ret := s.ret.map fun e => if some e.id = slot then { e with bad := some ⟨.eccunc, 5, 0⟩ } else e
        memory := { s.memory with
          vatom := s.memory.vatom.map fun l => l.map fun w =>
            if w.1 = h.elem ∧ w.2.1.isNone ∧ w.2.2.isNone then (w.1, some 0, none) else w } }
    else if h.mine then
      { s with memory := { s.memory with uncertain := s.memory.uncertain ++ [⟨.eccunc, 5, 0⟩] } }
    else s.record none (State.memoryBody 0x11 5 0 1 0 0 h.task)

/-- A held access is performed: it leaves the homes, and its old value goes to its waiter (R296, R297). -/
def performHeld (s : State) (h : Held) : State :=
  let s := { s with ordered := { s.ordered with held := s.ordered.held.erase h } }
  let own : Bool := h.mine
  if h.ops.any fun p => s.poisoned p.1 then heldPoisoned s h
  else
    let r := performOps s own h.ops
    let s := r.1
    let n := if h.ops.any (·.2.w32) then r.2.toNat % 2 ^ 32 else r.2.toNat
    if h.vec ∧ own then
      { s with memory := { s.memory with
        vatom := s.memory.vatom.map fun l => l.map fun w =>
          if w.1 = h.elem ∧ w.2.1.isNone ∧ w.2.2.isNone then (w.1, some n, none) else w } }
    else deliverOld h.slot r.2 s

/-- END_MARKER: the end marker of task `index2` of the launch in focus, for interval `index` (R295). -/
def execEndMarker (s : State) : Out :=
  let d : OrdDomain := ⟨s.launch.entry, s.input.index2 / s.launch.m3 * s.launch.m3, s.launch.m3⟩
  let m := (d, s.input.index, s.input.index2)
  .next { s with ordered := { s.ordered with
    markers := if s.ordered.markers.contains m then s.ordered.markers else s.ordered.markers ++ [m] } }

/-- SEQUENCED_PERFORM: the first held access that may be performed in its turn (R296). -/
def execSequencedPerform (s : State) : Out :=
  match s.ordered.held.find? (seqReady s) with
  | some h => .next (performHeld s h)
  | none => .next s

/-- Performs the batched accesses of closed intervals, one at a time. -/
def performBatch : Nat → State → State
  | 0, s => s
  | n + 1, s =>
    match s.ordered.held.find? (batchReady s) with
    | some h => performBatch n (performHeld s h)
    | none => s

/-- BATCHED_PERFORM (R296). -/
def execBatchedPerform (s : State) : Out := .next (performBatch s.ordered.held.length s)

end Sys2Proof.Machine
end

