-- ==== Sys2Proof/Machine/Platform.lean ====
section
/-! DEFINITION. Ownership, boot, attestation, alarms, bring-up, time, and device reset (R301 to R312, R360, R364 to R368). -/

namespace Sys2Proof.Machine

/-! Ownership (R302, R303) -/

/-- The port of the master that an event comes from. -/
def claimPort (s : State) : BitVec 2 := masterNo s.input.master

/-- A claim takes part in the election, an earlier one of the port replaced or withdrawn. -/
def enterClaim (s : State) (prio : Byte) : List (BitVec 2 × Byte) :=
  let others := s.owner.claims.filter fun c => c.1 ≠ claimPort s
  if prio = 0 then others else others ++ [(claimPort s, prio)]

/-- The first of two claims: the higher PRIO, on a tie the lower port (R302). -/
def betterClaim (a b : BitVec 2 × Byte) : BitVec 2 × Byte :=
  if a.2 < b.2 ∨ (a.2 = b.2 ∧ b.1 < a.1) then b else a

/-- The election is decided (R302). -/
def closeElection (s : State) : State :=
  let o := s.owner
  let winner := match o.claims with | [] => 3 | c :: cs => (cs.foldl betterClaim c).1
  { s with owner := { o with owner := winner, elect := false, claims := [] } }

/-- OWNCLAIM (R302, R303); a claim after the window finds the election decided. -/
def claimOwner (s : State) : State :=
  let prio : Byte := s.input.value.setWidth 8
  let s := if s.owner.elect ∧ s.owner.closes ≤ s.device.time then closeElection s else s
  let o := s.owner
  if o.owner = 3 then
    let open_ := ¬ o.elect ∧ prio ≠ 0
    { s with owner := { o with
      claims := enterClaim s prio
      elect := o.elect ∨ prio ≠ 0
      closes := if open_ then s.device.time + 1000000 else o.closes } }
  else if prio = 0 then s
  else if o.hpend ∧ claimPort s = o.succ ∧ s.device.time ≤ o.expires then
    { s with owner := { o with owner := o.succ, hpend := false, claims := [] } }
  else { s with owner := { o with refused := true } }

/-- OWNCLAIM, written by any master. -/
def execOwnclaim (s : State) : Out := .next (claimOwner s)

/-- ELECTION_CLOSE: the window of 1 ms closes (R302). -/
def execElectionClose (s : State) : Out :=
  .next (if ¬ s.owner.elect ∨ s.device.time < s.owner.closes then s else closeElection s)

/-- A write of HANDOVER by the owner (R303). -/
def startHandover (s : State) : State :=
  let succ : BitVec 2 := s.input.value.setWidth 2
  if succ = 3 then s
  else { s with owner := { s.owner with hpend := true, succ := succ, expires := s.device.time + 100000000 } }

/-- HANDOVER (R303). -/
def execHandover (s : State) : Out := ownerWrite s startHandover

/-- HANDOVER_TIMEOUT: no successor has claimed within 100 ms (R303, R366). -/
def execHandoverTimeout (s : State) : Out :=
  let o := s.owner
  if ¬ o.hpend ∨ s.device.time < o.expires then .next s
  else
    .next ({ s with owner := { o with hpend := false, hfail := true } }.record none
      (State.systemBody 0x34 o.owner.toNat o.succ.toNat 0 0 0 0 0))

/-- Some launch runs on the device. -/
def anyLaunch (s : State) : Bool := s.sched.board.any fun e => e.kind = 1 ∧ e.state = .issued

/-- A task stands on the die, or has not drained from it. -/
def dieBusy (s : State) (d : Nat) : Bool :=
  s.sched.occupied.any (fun o => o.core / 64 = d) ∨ (s.die = d ∧ s.status ≠ .none ∧ s.status ≠ .saved)

/-- A write of DEVID (R301). -/
def writeDevid (s : State) : State :=
  if anyLaunch s then s
  else { s with fabric := { s.fabric with devid := s.input.value.setWidth 14, devset := true } }

/-- DEVID_WRITE (R301). -/
def execDevidWrite (s : State) : Out := ownerWrite s writeDevid

/-! Security (R304 to R309, R364) -/

/-- SECCTL (R306). -/
def secctlWord (s : State) : Word :=
  BitVec.ofNat 64 ((if s.sec.alarm then 1 else 0) + s.sec.nrange.toNat * 2)

/-- What an attestation report holds before its signature (R305; its layout is log entry 17's, DESIGN CHOICE). -/
def reportBody (s : State) (nonce : List Byte) : List Byte :=
  natToBytes 2 s.fabric.devid.toNat ++ Config.certifiedKey s.fabric.devid.toNat
    ++ s.sec.meas.toList.flatMap (fun m => natToBytes 32 m.toNat) ++ natToBytes 8 (secctlWord s).toNat
    ++ (match s.group.cached with
        | some d => if d.enc then natToBytes 8 s.launch.group.toNat ++ natToBytes 8 d.ver.toNat else natToBytes 16 0
        | none => natToBytes 16 0)
    ++ nonce ++ natToBytes 4 s.sec.leaf

/-- An attestation request; with no leaf left it is refused (R305). -/
def attest (s : State) (nonce : List Byte) : State :=
  if 2 ^ 20 ≤ s.sec.leaf then { s with sec := { s.sec with report := [] } }
  else
    let b := reportBody s nonce
    { s with sec := { s.sec with leaf := s.sec.leaf + 1, report := b ++ xmssSign s.sec.leaf b } }

/-- ATTESTATION_REQUEST: the owner's write of a nonce to the mailbox (R300, R305). -/
def execAttestationRequest (s : State) : Out := ownerWrite s fun s => attest s (s.input.bytes.take 32)

/-- The code of an alarm's source (R361). -/
def alarmCode : AlarmSource → Nat
  | .tamper => 1 | .glitch => 2 | .policy => 3 | .thermal => 4

/-- Every core halts at its instruction boundary. -/
def haltCores (s : State) : State :=
  if s.status = .running ∨ s.status = .leaseWait ∨ s.status = .debug then { s with status := .halted } else s

/-- A launch on an ENC group: its descriptor says so, the cached one of the group in focus (R364). -/
def encLaunch (s : State) (l : Launch) : Bool :=
  if l.group = 0 then false
  else
    match (if l.group = s.launch.group then s.group.cached else none) with
    | some d => d.enc
    | none => (launchGroup s l).any (·.enc)

/-- The security alarm (R309, R364): the record, then the action that SECCTL selects. -/
def raiseAlarm (s : State) (src : AlarmSource) : State :=
  let killed := if s.sec.alarm then 0 else (killLaunches s (encLaunch s)).1
  let s := s.record none (State.systemBody 0x32 (alarmCode src) (if s.sec.alarm then 1 else 0) killed 0 0 0 0)
  if s.sec.alarm then
    let s := haltCores s
    { s with
      sec := { s.sec with frozen := true }
      fabric := { s.fabric with ports := s.fabric.ports.map fun p => { p with up := false } } }
  else
    let s1 := (killLaunches s (encLaunch s)).2
    { s1 with
      sec := { s1.sec with keys := [] }
      group := { s1.group with cached := if groupEnc s then none else s1.group.cached } }

/-- SECURITY_ALARM (R309). -/
def execSecurityAlarm (s : State) : Out := .next (raiseAlarm s s.input.alarm)

/-- THERMAL_LIMIT: THERM reads `index`; at 110 °C every core halts, until the device is reset, and the alarm is raised (R312, R364).
DESIGN CHOICE: log entry 22. -/
def execThermalLimit (s : State) : Out :=
  let s := { s with plat := { s.plat with therm := BitVec.ofNat 8 s.input.index } }
  .next (if 110 ≤ s.input.index then raiseAlarm (haltCores { s with plat := { s.plat with hot := true } }) .thermal else s)

/-! Boot and bring-up (R304, R311, R368) -/

/-- The function's bit in FUNCRDY. -/
def funcBit (n : Nat) : Word := 1 <<< n

/-- A function sets its FUNCERR bit and writes its record (R368). -/
def failFunction (s : State) (n : Nat) : State :=
  { s with plat := { s.plat with error := s.plat.error ||| funcBit n } }.record none
    (State.systemBody 0x35 n 0 0 0 0 0 0)

/-- BOOT_STAGE: the security processor checks stage `index` and extends its measurement; a stage that fails does not run, and no
later one does: the boot stops with those that have run (R304). -/
def execBootStage (s : State) : Out :=
  let i := s.input.index
  if i ≠ s.sec.stage ∨ 4 ≤ i then .next s
  else if xmssVerify Config.firmwareKey s.input.bytes s.input.sig then
    let old := natToBytes 32 (s.sec.meas.getD i 0).toNat
    let new := shake256 (old ++ shake256 s.input.bytes 32) 32
    .next { s with sec := { s.sec with
      stage := i + 1, meas := s.sec.meas.setIfInBounds i (BitVec.ofNat 256 (bytesToNat new)) } }
  else .next { s with sec := { s.sec with stage := 8 + i } }

/-- The boot stages that a function needs have run (R304, R368).
DESIGN CHOICE: log entry 21. -/
def bootReaches (s : State) (n : Nat) : Bool :=
  let run := s.sec.stage % 8
  if n = 57 then 2 ≤ run
  else s.plat.ready.getLsbD 57 ∧ (n = 59 → 3 ≤ run) ∧ (12 ≤ n ∧ n < 16 → 4 ≤ run)

/-- Accesses that waited for a stack come again (R311, R368). -/
def wakeAccesses (s : State) : State :=
  { s with agenda := s.agenda ++ s.plat.waiting, plat := { s.plat with waiting := [] } }

/-- FUNCTION_READY: function `index` reports ready (R311); a frozen device has none (R364). -/
def execFunctionReady (s : State) : Out :=
  let n := s.input.index
  if 60 ≤ n ∨ ¬ bootReaches s n ∨ s.plat.error.getLsbD n ∨ s.sec.frozen then .next s
  else
    let s := wakeAccesses { s with plat := { s.plat with ready := s.plat.ready ||| funcBit n } }
    .next (if 20 ≤ n ∧ n < 56 then setPort s (n - 20) { port s (n - 20) with up := true } else s)

/-- FUNCTION_TIMEOUT: function `index` has not reported ready in 1 s, or with `flag` has failed its check (R368). -/
def execFunctionTimeout (s : State) : Out :=
  let n := s.input.index
  if n < 60 ∧ ¬ s.plat.ready.getLsbD n ∧ ¬ s.plat.error.getLsbD n
      ∧ (s.input.flag ∨ s.plat.since + 1000000000 ≤ s.device.time) then
    .next (wakeAccesses (failFunction s n))
  else .next s

/-- DEVICE_RESET: the state after reset; the XMSS leaf index is kept, and the schedule goes on (R305, DESIGN CHOICE, log entry 3). -/
def execDeviceReset (s : State) : Out :=
  .next { State.reset with
    agenda := s.agenda, lag := s.lag, eager := s.eager, mates := s.mates, turn := s.turn, free := s.free
    sec := { Security.reset with leaf := s.sec.leaf } }

/-- TIME_SYNC: the time unit, once it is ready (R311, R368), takes `index` as the grandmaster's TIME and `index2` as the measured offset: it steps forward while LOCK
is 0, and else slews by what it is off; LOCK tells of 16 intervals in a row within 25 ns (R310).
DEDUCED: log entry 20. -/
def execTimeSync (s : State) : Out :=
  let t := s.device.time
  let offs : Lane32 := BitVec.ofNat 32 s.input.index2
  let near := if -25 ≤ offs.toInt ∧ offs.toInt ≤ 25 then s.plat.near + 1 else 0
  if ¬ s.plat.ready.getLsbD 58 then .next s else
  .next { s with
    device := { s.device with
      time := if s.plat.lock then t else max t s.input.index
      slew := if s.plat.lock then (s.input.index : Int) - t else 0
      slewed := t }
    plat := { s.plat with lock := 16 ≤ near, offs := offs, near := min near 16 } }

end Sys2Proof.Machine
end

