-- ==== Sys2Proof/Machine/Registers.lean ====
section
/-! DEFINITION. The register window, host accesses, resizing of stacked stores, scrubbing, repair and migration (R77, R82 to R85,
R268, R284, R299 to R301, R306, R336, R340 to R342, R346, R360). -/

namespace Sys2Proof.Machine

/-! The register window (R300) -/

/-- A bit as a number. -/
def bitAt (b : Bool) (n : Nat) : Nat := if b then 2 ^ n else 0

/-- OWNSTAT (R302). -/
def ownstatWord (s : State) : Word :=
  let o := s.owner
  BitVec.ofNat 64 (o.owner.toNat + bitAt o.elect 2 + bitAt o.refused 3 + bitAt o.wrej 4 + bitAt o.hpend 5 + bitAt o.hfail 6)

/-- FUNCRDY as it reads: zero but for SEC after a freeze (R364). -/
def funcrdyWord (s : State) : Word := if s.sec.frozen then s.plat.ready &&& funcBit 57 else s.plat.ready

/-- A word of a stream's registers (R268). -/
def streamWord (c : CmdStream) (k : Nat) : Word :=
  match k with
  | 0 => c.base
  | 1 => BitVec.ofNat 64 (c.log2 + bitAt c.own 5 + bitAt c.en 6 + bitAt c.serr 7)
  | 2 => c.ridx.setWidth 64
  | _ => c.widx.setWidth 64

/-- The registers below the stream windows (R300). -/
def lowReg (s : State) (off : Nat) : Word :=
  match off with
  | 0x08 => BitVec.ofNat 64 (s.fabric.devid.toNat + bitAt s.fabric.devset 14)
  | 0x18 => ownstatWord s
  | 0x40 => funcrdyWord s
  | 0x48 => s.plat.error
  | 0x80 => BitVec.ofNat 64 (bitAt s.plat.lock 0 + s.plat.offs.toNat * 2 ^ 32)
  | 0xC0 => secctlWord s
  | 0x200 => s.plat.pwrcap.setWidth 64
  | 0x208 => s.plat.therm.setWidth 64
  | 0x300 => BitVec.ofNat 64 (s.log.base * 4096)
  | 0x308 => BitVec.ofNat 64 (s.log.log2 + bitAt s.log.en 5 + s.log.lost.toNat * 2 ^ 16)
  | 0x310 => s.log.widx.setWidth 64
  | 0x318 => s.log.ridx.setWidth 64
  | 0x800 => BitVec.ofNat 64 s.sched.ageint
  | 0xC00 => BitVec.ofNat 64 (bitAt s.fabric.inv 0 + s.fabric.gvdrop.toNat * 2 ^ 16 + s.fabric.authf.toNat * 2 ^ 32
      + s.fabric.badpk.toNat * 2 ^ 48)
  | 0xC08 => BitVec.ofNat 64 s.fabric.grto
  | _ => 0

/-- A read of 8 bytes of the window; offsets not listed read as zero (R300). -/
def readReg (s : State) (off : Nat) : Word :=
  if 0x100 ≤ off ∧ off < 0x200 then
    (s.sec.meas.getD ((off - 0x100) / 32) 0).extractLsb' ((off - 0x100) / 8 % 4 * 64) 64
  else if 0x900 ≤ off ∧ off < 0xB00 then fence s ((off - 0x900) / 8)
  else if 0xD00 ≤ off ∧ off < 0xD20 then s.device.sscfg.getD ((off - 0xD00) / 8) 0
  else if 0xD80 ≤ off ∧ off < 0xDA0 then s.device.stglog.getD ((off - 0xD80) / 8) 0
  else if 0xE00 ≤ off ∧ off < 0xE80 then s.device.pkfmt.getD ((off - 0xE00) / 8) 0
  else if 0x1000 ≤ off ∧ off < 0x1800 then streamWord (cmdStream s ((off - 0x1000) / 32)) ((off - 0x1000) / 8 % 4)
  else if 0x2800 ≤ off ∧ off < 0x2900 then
    let r := s.sec.ranges.getD ((off - 0x2800) / 16) (0, 0)
    if (off - 0x2800) / 8 % 2 = 0 then r.1 else r.2
  else if 0x2000 ≤ off ∧ off < 0x2800 then
    BitVec.ofNat 64 (bytesToNat ((s.sec.report.drop (off - 0x2000)).take 8))
  else if 0x100000 ≤ off ∧ off < 0x120000 then (routeOf s ((off - 0x100000) / 8)).setWidth 64
  else lowReg s off

/-- A write of a stream's register (R268). -/
def writeStream (s : State) (n k : Nat) (v : Word) : State :=
  let c := cmdStream s n
  match k with
  | 0 => if c.en then s else setStream s n { c with base := v &&& ~~~0x3F }
  | 1 =>
    let l := (v.extractLsb' 0 5).toNat
    setStream s n { c with
      log2 := if 4 ≤ l ∧ l ≤ 16 then l else c.log2
      own := v.getLsbD 5, en := v.getLsbD 6, serr := c.serr && !v.getLsbD 7 }
  | 2 => if c.en then s else setStream s n { c with ridx := v.setWidth 32 }
  | _ => setStream s n { c with widx := v.setWidth 32 }

/-- A write of SSCFG of die d (R77): refused while a launch runs on the die; a size beyond 8 is ignored, and leaves REFUSED as it was;
a new size counts for address checks from the write on, while BUSY still stands (DESIGN CHOICE, log entry 54). -/
def writeSscfg (s : State) (d : Nat) (v : Word) : State :=
  let old := s.device.sscfg.getD d 0
  let size := v.extractLsb' 0 4
  let new : Word :=
    if dieBusy s d then old ||| 0x20
    else if 8 < size.toNat then old
    else size.setWidth 64 ||| 0x10
  { s with device := { s.device with sscfg := s.device.sscfg.setIfInBounds d new } }

/-- A write of ELCTL (R360). -/
def writeElctl (s : State) (v : Word) : State :=
  let l := (v.extractLsb' 0 5).toNat
  { s with log := { s.log with
    log2 := if 6 ≤ l ∧ l ≤ 16 then l else s.log.log2
    en := v.getLsbD 5
    lost := s.log.lost &&& ~~~(v.extractLsb' 16 16) } }

/-- A write of GSTAT clears where it has ones (R284). -/
def writeGstat (s : State) (v : Word) : State :=
  let f := s.fabric
  { s with fabric := { f with
    inv := f.inv && !v.getLsbD 0
    gvdrop := f.gvdrop &&& ~~~(v.extractLsb' 16 16)
    authf := f.authf &&& ~~~(v.extractLsb' 32 16)
    badpk := f.badpk &&& ~~~(v.extractLsb' 48 16) } }

/-- A write of OWNSTAT clears where it has ones (R302). -/
def writeOwnstat (s : State) (v : Word) : State :=
  let o := s.owner
  { s with owner := { o with
    refused := o.refused && !v.getLsbD 3, wrej := o.wrej && !v.getLsbD 4, hfail := o.hfail && !v.getLsbD 6 } }

/-- The owner writes a register below the stream windows; offsets not listed, and values that a register does not take, are
ignored (R300). -/
def writeLow (s : State) (off : Nat) (v : Word) : State :=
  match off with
  | 0x08 => writeDevid s
  | 0x18 => writeOwnstat s v
  | 0x20 => startHandover s
  | 0xC0 =>
    if groupEnc s then s else { s with sec := { s.sec with alarm := v.getLsbD 0, nrange := v.extractLsb' 1 4 } }
  | 0x200 =>
    let w := (v.extractLsb' 0 12).toNat
    if 1200 ≤ w ∧ w ≤ 2600 then { s with plat := { s.plat with pwrcap := v.setWidth 12 } } else s
  | 0x300 => if s.log.en then s else { s with log := { s.log with base := (v.extractLsb' 12 40).toNat } }
  | 0x308 => writeElctl s v
  | 0x318 => { s with log := { s.log with ridx := v.setWidth 32 } }
  | 0x320 =>
    match s.score (v.extractLsb' 0 8).toNat with
    | some e => if v.getLsbD 8 ∧ e.kind = 1 ∧ e.state = .issued then killLaunch s e.id else s
    | none => s
  | 0x800 => { s with sched := { s.sched with ageint := (v.extractLsb' 0 32).toNat } }
  | 0xC00 => writeGstat s v
  | 0xC08 =>
    let n := (v.extractLsb' 0 32).toNat
    if 1000 ≤ n ∧ n ≤ 10000000 then { s with fabric := { s.fabric with grto := n } } else s
  | 0xC10 => if v.getLsbD 0 then releaseLock s else s
  | _ => s

/-- A nonce is written to the mailbox, 8 bytes at a time; its last 8 bytes make the attestation request (R300, R305; DESIGN CHOICE, log
entry 17). -/
def writeNonce (s : State) (off : Nat) (v : Word) : State :=
  let n := s.sec.nonce.take (off / 8 * 8) ++ natToBytes 8 v.toNat ++ s.sec.nonce.drop (off / 8 * 8 + 8)
  let s := { s with sec := { s.sec with nonce := n } }
  if off / 8 = 3 then attest s n else s

/-- The owner writes 8 bytes of the window (R300). -/
def writeReg (s : State) (off : Nat) (v : Word) : State :=
  if 0x900 ≤ off ∧ off < 0xB00 then
    pumpBoard { s with sched := { s.sched with fences := s.sched.fences.setIfInBounds ((off - 0x900) / 8) v } }
  else if 0xD00 ≤ off ∧ off < 0xD20 then writeSscfg s ((off - 0xD00) / 8) v
  else if 0xD80 ≤ off ∧ off < 0xDA0 then
    let d := (off - 0xD80) / 8
    if dieBusy s d then s
    else { s with device := { s.device with stglog := s.device.stglog.setIfInBounds d (v &&& 0x00FFFFFFFFFF0000) } }
  else if 0xE00 ≤ off ∧ off < 0xE80 then
    { s with device := { s.device with pkfmt := s.device.pkfmt.setIfInBounds ((off - 0xE00) / 8) (v &&& 0x1FFF) } }
  else if 0x1000 ≤ off ∧ off < 0x1800 then writeStream s ((off - 0x1000) / 32) ((off - 0x1000) / 8 % 4) v
  else if 0x2800 ≤ off ∧ off < 0x2900 then
    if groupEnc s then s
    else
      let i := (off - 0x2800) / 16
      let r := s.sec.ranges.getD i (0, 0)
      let w := v &&& ~~~0xFFFF
      { s with sec := { s.sec with
        ranges := s.sec.ranges.setIfInBounds i (if (off - 0x2800) / 8 % 2 = 0 then (w, r.2) else (r.1, w)) } }
  else if 0x2000 ≤ off ∧ off < 0x2020 then writeNonce s (off - 0x2000) v
  else if 0x100000 ≤ off ∧ off < 0x120000 then
    let n := (off - 0x100000) / 8
    { s with fabric := { s.fabric with routes := (n, v.setWidth 36) :: s.fabric.routes.filter fun r => r.1 ≠ n } }
  else writeLow s off v

/-- A master writes 8 bytes of the window: anyone may claim, and only the owner's other writes take effect (R300, R302). -/
def windowWrite (s : State) (off : Nat) (v : Word) : Out :=
  let s := { s with input := { s.input with value := v } }
  if off = 0x10 then .next (claimOwner s) else ownerWrite s fun s => writeReg s off v

/-- REGISTER_WRITE: `value` at window offset `index`. -/
def execRegisterWrite (s : State) : Out := windowWrite s s.input.index s.input.value

/-- SSCFG_WRITE: `value` for die `index` (R77). -/
def execSscfgWrite (s : State) : Out := ownerWrite s fun s => writeSscfg s s.input.index s.input.value

/-- SSCFG_RESIZE: the resize of die `index` is applied while no task runs there: the window is zero, the lines that the die's slices
cache for other devices are dropped, and BUSY clears (R76, R77). -/
def execSscfgResize (s : State) : Out :=
  let d := s.input.index
  let w := s.device.sscfg.getD d 0
  if ¬ w.getLsbD 4 ∨ dieBusy s d then .next s
  else
    let out (a : Nat) : Bool := ¬ (stackBase d ≤ a ∧ a < stackBase (d + 1))
    .next { s with
      device := { s.device with sscfg := s.device.sscfg.setIfInBounds d (w &&& 0xF) }
      memory := { s.memory with
        home := s.memory.home.filter fun c => out c.1
        cached := s.memory.cached.filter fun c => homeDie (addrOf c.1) ≠ d
        poison := s.memory.poison.filter out } }

/-! Host accesses (R85, R299, R306, R337) -/

/-- The byte lies in an enclave range in use (R306). -/
def inEnclave (s : State) (l : Nat) : Bool :=
  (s.sec.ranges.toList.take s.sec.nrange.toNat).any fun r =>
    r.1.toNat ≤ State.physOf l ∧ State.physOf l < r.1.toNat + r.2.toNat

/-- The location of a byte of device memory as the host sees it: a packed frame in its expanded view (R85, R299). -/
def hostView (s : State) (a : Nat) : Nat := if isPacked a then a else s.device.viewOf a

/-- The location is one of device memory. -/
def hostTarget (s : State) (l : Nat) : Bool :=
  (regionOf l = 0 ∨ isPacked l) ∧ addrOk s (State.physOf l)

/-- HOST_READ: `index2` bytes of device memory at `index`, once their stacks are ready; with `flag` 8 bytes of the register window
(R85, R91, R299, R306, R311, R337). -/
def execHostRead (s : State) : Out :=
  if s.input.flag then
    .next { s with plat := { s.plat with
      lastRead := natToBytes 8 (readReg s s.input.index).toNat, lastBad := false } }
  else
    let ls := (List.range s.input.index2).map fun i => hostView s (s.input.index + i)
    match ls.find? fun l => ¬ hostTarget s l with
    | some l => .fault (.reservedAddress l)
    | none =>
      if s.stackWaits ls then .next (park s .hostRead)
      else .next { s with plat := { s.plat with
        lastRead := ls.map fun l => if inEnclave s l then 0 else homeRead s.device.pkfmt s.memory.home l
        lastBad := ls.any fun l => (s.poisoned l ∨ s.stackFailed l) ∧ ¬ inEnclave s l } }

/-- HOST_WRITE: `bytes` of device memory at `index`, once their stacks are ready; or with `flag` `value` in the register window (R91,
R299, R306, R311). -/
def execHostWrite (s : State) : Out :=
  if s.input.flag then windowWrite s s.input.index s.input.value
  else
    let ws := s.input.bytes.zipIdx.map fun b => (hostView s (s.input.index + b.2), b.1)
    match ws.find? fun w => ¬ hostTarget s w.1 with
    | some w => .fault (.reservedAddress w.1)
    | none =>
      if s.stackWaits (ws.map (·.1)) then .next (park s .hostWrite)
      else .next (s.install (ws.filter fun w => ¬ inEnclave s w.1))

/-- COLLECTIVE_CONTROL: an abort of an instance, of which AUX[63] tells of a stale group version (R261, R357); or an enclave
coordinator's access to the register window, a write with a payload, else a read (R300). -/
def execCollectiveControl (s : State) : Out :=
  match admitPacket s 7 with
  | .error s => .next s
  | .ok p =>
    if 0x800000000000 ≤ p.addr.toNat then
      let off := p.addr.toNat - 0x800000000000
      if p.payload.isEmpty then
        .next (sendPacket s (answerPacket p 7 0 (natToBytes 8 (readReg s off).toNat)))
      else
        windowWrite { s with input := { s.input with master := .enclave } } off (BitVec.ofNat 64 (bytesToNat (p.payload.take 8)))
    else
      let stale := p.aux.getLsbD 63
      let d := packetData s p
      let mine : Bool := isReshardId d.inst ∨ d.dest = s.rankAt s.launch.header.ndom
      .next (if stale ∨ mine then takeAbort s d.inst (if stale then groupTrap else ⟨.fabric, 2, 0⟩) p.src.toNat else s)

/-! Scrubbing and repair (R336, R340, R341, R346) -/

/-- UNIT and DETAIL of a memory record for an address (R339, R346). -/
def memUnit (pa : Nat) : Nat × Nat := if pa < 0xC000000000 then (0x8000 + pa / 4096 % 12, 1) else (homeSlice pa, 2)

/-- A corrected error is recorded at most once per millisecond per unit (R346). -/
def correctedError (s : State) (pa : Nat) : State :=
  let u := memUnit pa
  let seen := s.plat.corrected.find? fun c => c.1 = u.1
  let others := s.plat.corrected.filter fun c => c.1 ≠ u.1
  let t := s.device.time
  match seen with
  | some (_, at_, n) =>
    if t < at_ + 1000000 then { s with plat := { s.plat with corrected := (u.1, at_, n + 1) :: others } }
    else
      { s with plat := { s.plat with corrected := (u.1, t, 0) :: others } }.record none
        (State.memoryBody 0x10 u.2 u.1 (n + 1) pa 0 0xFFFFFFFF)
  | none =>
    { s with plat := { s.plat with corrected := (u.1, t, 0) :: others } }.record none
      (State.memoryBody 0x10 u.2 u.1 1 pa 0 0xFFFFFFFF)

/-- Errors of an HBM row in the scrub pass; 8 make it due for repair (R341). -/
def rowError (s : State) (row n : Nat) : State :=
  let old := match s.plat.rowErrors.find? fun r => r.1 = row with | some r => r.2 | none => 0
  { s with plat := { s.plat with rowErrors := (row, old + n) :: s.plat.rowErrors.filter fun r => r.1 ≠ row } }

/-- An uncorrectable error in the core's staging (R342): a revocable task is aborted and rerun; else its next publication commits
nothing. -/
def stagingLost (s : State) : State :=
  let s := s.record s.ownEntry (State.memoryBody 0x15 8 s.core.toNat 1 0 0 s.launch.task)
  if canRerun s then
    let s1 := leaveCore (stopEngines s)
    { s1 with
      ckpt := if s.phased then s.ckpt else none
      phased := s.phased
      sched := { s1.sched with
        occupied := s1.sched.occupied.map fun o => if o.core = s.core.toNat then { o with started := false } else o } }
  else { s with memory := { s.memory with stagingBad := true } }

/-- PATROL_SCRUB: the scrub reads the 64-B unit at `index`, of row `index2`; address 0 begins a pass. With `flag` the line holds
the staging of the core in focus (R340 to R342).
DESIGN CHOICE: log entry 23. -/
def execPatrolScrub (s : State) : Out :=
  let pa := s.input.index / 64 * 64
  let hbm : Bool := pa < 0xC000000000
  let s := if pa = 0 then { s with plat := { s.plat with rowErrors := [] } } else s
  match s.input.scrub with
  | .clean => .next s
  | .corrected =>
    let s := correctedError s pa
    .next (if hbm then rowError s s.input.index2 1 else s)
  | .uncorrectable =>
    if s.input.flag then .next (if s.memory.staging.isEmpty then s else stagingLost s)
    else
      let u := memUnit pa
      let s := { s with memory := { s.memory with
        poison := if s.memory.poison.contains pa then s.memory.poison else s.memory.poison ++ [pa] } }.record none
        (State.memoryBody 0x12 u.2 u.1 1 pa 0 0xFFFFFFFF)
      .next (if hbm then rowError s s.input.index2 8 else s)

/-- ROW_REPAIR: row `index2` of stack `index` is copied with its poison onto a spare row; with `flag` the stack has none left
(R341). -/
def execRowRepair (s : State) : Out :=
  let row := s.input.index2
  if s.plat.rowErrors.any fun r => r.1 = row ∧ 8 ≤ r.2 then
    let s := { s with plat := { s.plat with rowErrors := s.plat.rowErrors.filter fun r => r.1 ≠ row } }
    if s.input.flag then
      .next { s with plat := { s.plat with error := s.plat.error ||| funcBit (s.input.index % 12) } }
    else .next (s.record none (State.memoryBody 0x13 1 (0x8000 + s.input.index % 12) 1 0 0 0xFFFFFFFF))
  else .next s

/-! Migration (R82) -/

/-- The address of the level-3 entry that maps an address. -/
def pteAddr (s : State) (va : Nat) : (fuel table level : Nat) → Option Nat
  | 0, _, _ => none
  | fuel + 1, table, level =>
    let a := table + 8 * vaIndex va level
    if level = 3 then some a
    else
      match readPte s va a with
      | .ok e =>
        if ¬ e.getLsbD 0 ∨ e.getLsbD 31 then none
        else pteAddr s va fuel (Leaf.frame e * 65536 + (e.extractLsb' 16 4).toNat * 4096) (level + 1)
      | .error _ => none

/-- Pending writes of a page follow it to its new frame. -/
def movePage (m : Overlay) (old new : Nat) : Overlay :=
  let moved := (m.filter fun c => c.1 / 65536 = old / 65536).map fun c => (new + c.1 % 65536, c.2)
  Overlay.setAll (m.filter fun c => c.1 / 65536 ≠ old / 65536) moved

/-- The page after its move (R82): the bytes in the new frame, the entry rewritten, TLB entries gone. -/
def migrate (s : State) (va pte frame : Nat) (leaf : Word) (bs : List Byte) : State :=
  let old := regionBase (peerRegion (Leaf.peer leaf)) + Leaf.frame leaf * 65536
  let ws := (List.range 65536).map fun i => (frame + i, bs.getD i 0)
  let entry : Nat := (leaf.toNat % 2 ^ 32) - Leaf.mode leaf * 16 - Leaf.peer leaf * 2 ^ 16 + frame / 65536 * 2 ^ 32
  let s := (s.install ws).install ((natToBytes 8 entry).zipIdx.map fun b => (pte + b.2, b.1))
  { s with memory := { s.memory with
    snap := homeWrite s.device.pkfmt (fun _ => 0) s.memory.snap ws
    staging := movePage s.memory.staging old frame
    own := movePage s.memory.own old frame
    wrote := movePage s.memory.wrote old frame } }.dropTlb fun t => t.asn = s.launch.asn ∧ t.base ≤ va ∧ va < t.base + t.size

/-- PAGE_MIGRATION: the first page that has reached its threshold moves to a frame of its die's pool, once no access to it is in
flight; `bytes` are its contents at the peer. With an empty pool the event is counted in the error log, in a record whose KIND and
DETAIL the manual leaves open (R82; DESIGN CHOICE, log entry 55).
DESIGN CHOICE: log entry 23. -/
def execPageMigration (s : State) : Out :=
  match s.device.migDue with
  | [] => .next s
  | (d, va) :: due =>
    let s1 := { s with device := { s.device with migDue := due } }
    match s.device.migPool.getD d [] with
    | [] =>
      let n := s.device.migEmpty + 1
      let open_ := s.freeWord.toNat
      .next ({ s1 with device := { s1.device with migEmpty := n } }.bumpFree.record none
        (State.memoryBody (open_ % 2 ^ 8) (open_ / 2 ^ 8 % 2 ^ 8) d n 0 (BitVec.ofNat 64 va) 0xFFFFFFFF))
    | frame :: pool =>
      match s.leafOf va, pteAddr s va 4 (s.launch.root.toNat % 2 ^ 48) 0 with
      | .ok (leaf, _), some pte =>
        let page := (regionBase (peerRegion (Leaf.peer leaf)) + Leaf.frame leaf * 65536) / 65536
        if Leaf.mode leaf ≠ 3 then .next s1
        else if s.memory.reqs.any fun r => r.loc / 65536 = page then .next s
        else
          .next (migrate { s1 with device := { s1.device with migPool := s.device.migPool.setIfInBounds d pool } }
            va pte frame leaf s.input.bytes)
      | _, _ => .next s1

end Sys2Proof.Machine
end

