-- ==== Sys2Proof/Machine/Fetch.lean ====
section
/-! DEFINITION. The passing of time, what other cores do to shared state, and fetching an instruction (R135, R149, R164,
R171, R183, R310). -/

namespace Sys2Proof.Machine

/-- TIME after so many clk of 10/22 ns (R9), slewed by at most 1 ns in 2,000, forward or by holding it back (R310). -/
def tickTime (d : DeviceRegs) (dt : Nat) : DeviceRegs :=
  let ns := (d.timeFrac + 10 * dt) / 22
  let d := { d with timeFrac := (d.timeFrac + 10 * dt) % 22 }
  let most := (d.time + ns - d.slewed) / 2000
  if d.slew = 0 ∨ most = 0 then { d with time := d.time + ns }
  else if 0 < d.slew then
    let n := min most d.slew.toNat
    { d with time := d.time + ns + n, slew := d.slew - n, slewed := d.time + ns + n }
  else
    let n := min (min most ns) (-d.slew).toNat
    { d with time := d.time + ns - n, slew := d.slew + n, slewed := d.time + ns - n }

/-- The stage-1 count of a queue goes on while its entry waits for tokens (R50, R328). -/
def tickQueue (s : State) (q : Queue) (dt : Nat) : State :=
  match s.current q with
  | some e =>
    if e.stage = .pop ∧ (s.queue q).halt.isNone ∧ ¬ s.tokensReady q (tokensOf e.instr) then
      s.setQueue q { s.queue q with stall := (s.queue q).stall + dt }
    else s
  | none => s

/-- What a task of another core does, and what the uncorrectable errors of R336 do to the core's reader: a precise trap, a halt, or
a poisoned unit (R337 to R339, DESIGN CHOICE, log entry 1). -/
def mateAct (s : State) (a : MateAct) : State :=
  match a with
  | .phase l => { s with domArr := s.domArr.set l.toNat ((s.domArr[l.toNat]'l.isLt) + 1) l.isLt }
  | .arrive n => s.arrive n
  | .baset n t => { s with bars := s.bars.set n.toNat { (s.bars[n.toNat]'n.isLt) with target := t, count := 0 } n.isLt }
  | .bagrp n l =>
    let b := s.bars[n.toNat]'n.isLt
    { s with bars := s.bars.set n.toNat { b with joined := l :: b.joined } n.isLt }
  | .install pa bytes => s.install (bytes.zipIdx.map fun p => (pa + p.2, p.1))
  | .scratch r off bytes => s.putScr (bytes.zipIdx.map fun p => (r.toNat * 2 ^ 20 + off + p.2, p.1))
  | .scrAtomic r off op =>
    let ks := bytesAt (r.toNat * 2 ^ 20 + off) op.bytes
    if ks.any fun k => s.memory.scrPoison.contains (k / 64 * 64) then s
    else s.putScr (ks.zip (op.apply (ks.map (Mem.read s.memory.scratch))).1)
  | .walk core va => s.walkFor core va.toNat
  | .mcset ix v =>
    if s.channel.table.quiesced.getLsbD ix.toNat ∧ v.extractLsb' 25 39 = 0 then (s.onTable (·.replace ix v)).setMine ix false else s
  | .mcqui ix => s.onTable (·.quiesce ix)
  | .mccopy ix on => s.onTable (·.name ix on)
  | .hold h => { s with ordered := { s.ordered with held := s.ordered.held ++ [h] } }
  | .marker d i t => { s with ordered := { s.ordered with markers := s.ordered.markers ++ [(d, i, t)] } }
  | .mslot k v =>
    { s with matrix := { s.matrix with pending := s.matrix.pending ++ [⟨s.clk / 256 + 1, k, v⟩] } }
  | .lease r asks => mateLease s r asks
  | .mldb r b =>
    { s with matrix := { s.matrix with
      bufs := s.matrix.bufs.setIfInBounds (if b then 1 else 0) ⟨some r, 0, 0, 0, 0, []⟩ } }
  | .regError => if s.status = .running then s.trapAt ⟨.eccunc, 4, 0⟩ s.keptWait else s
  | .queueError q =>
    match s.current q with
    | some e =>
      if (s.queue q).halt.isNone ∧ s.status ≠ .none ∧ s.status ≠ .saved ∧ s.status ≠ .retired then
        s.haltQueue q e ⟨.eccunc, 4, 0⟩
      else s
    | none => s
  | .scrError r off =>
    let u := (r.toNat * 2 ^ 20 + off % 2 ^ 20) / 64 * 64
    { s with memory := { s.memory with
      scrPoison := if s.memory.scrPoison.contains u then s.memory.scrPoison else s.memory.scrPoison ++ [u] } }

/-- The acts of other cores that are due: those of an earlier clk, so that a bank serves this core's own accesses of a clk first (R67,
DESIGN CHOICE, log entry 1). Halted cores act no more. -/
def runMates (s : State) : State :=
  let due := s.mates.filter fun m => m.1 < s.clk
  if due.isEmpty ∨ s.coresHalted then s else
  due.foldl (fun s m => mateAct s m.2) { s with mates := s.mates.filter fun m => ¬ m.1 < s.clk }

/-- The task's sequencer counts how long it waits: the task is neither saved nor held by the debugger (R329). -/
def counting (s : State) : Bool := s.status = .running ∨ s.status = .halted ∨ s.status = .leaseWait

/-- The task's queues count how long their entries wait for tokens: the task is neither saved nor held by the debugger (R50,
R328). -/
def queuesCount (s : State) : Bool :=
  s.status ≠ .none ∧ s.status ≠ .saved ∧ s.status ≠ .debug ∧ s.status ≠ .retired

/-- One step's time: one clk and the lag that the schedule gives it. -/
def tick (s : State) : State :=
  let dt := 1 + s.lag.headD 0
  let s := { s with
    clk := s.clk + dt
    lag := s.lag.tail
    device := tickTime s.device dt
    waitClk := if s.waitClk ≠ 0 ∧ counting s then s.waitClk + dt else s.waitClk }
  let s := tickStream s dt
  let s := if queuesCount s then tickQueue (tickQueue (tickQueue s .l dt) .c dt) .s dt else s
  grantMate (runMates s)

/-- Fetches n bytes of code: a plain read through pages with X (R80, R135, DEDUCED, log entry 8). -/
def fetchBytes (s : State) (va n : Nat) : Res (List Byte) :=
  let vas := bytesAt va n
  match s.locsOf .fetch false true vas with
  | .error t => .trap t
  | .ok locs => (s.note vas).readSnap vas locs

/-- The words of the instruction at the pc, the second zero for an instruction of one word (R135). -/
def fetchWords (s : State) : Res (Nat × Nat) :=
  (fetchBytes s s.pc.toNat 4).bind fun b s =>
    let w0 := bytesToNat b
    if isLong w0 then (fetchBytes s (s.pc.toNat + 4) 4).bind fun b1 s => .ok (w0, bytesToNat b1) s
    else .ok (w0, 0) s

end Sys2Proof.Machine
end

