-- ==== Sys2Proof/Machine/Tables.lean ====
section
/-! DEFINITION. Step tables: TBLRUN, TBLSTOP, TBLBASE (R52, R152, R255). -/

namespace Sys2Proof.Machine

/-- The table entry reaches the head of its queue and starts; with a count of 0 it ends at once (R52, R255). -/
def startTable (s : State) (q : Queue) (base len cnt : Nat) : State :=
  let x := s.queue q
  if cnt = 0 then (s.setQueue q { x with entries := x.entries.tail, stall := 0 }).emptied q
  else s.setQueue q { x with table := some ⟨base, len, cnt, 0, 0, false, none⟩, stall := 0 }

/-- The count of a table entry: of the word, or of the register as it was read at issue (R146, R255). -/
def tableCount (a : Reg) (cnt : BitVec 6) (e : Entry) : Nat :=
  if a = 0 then cnt.toNat + 1 else (e.reg a).toNat % 2 ^ 32

/-- The first byte of a table that does not lie in scratchpad (R255, R321). -/
def tableBound (s : State) (off : BitVec 17) (len : BitVec 8) : Option Trap :=
  if 8 * off.toNat + 8 * (len.toNat + 1) ≤ s.launch.header.scratch then none
  else some ⟨.scrbound, 0, BitVec.ofNat 64 (max (8 * off.toNat) s.launch.header.scratch)⟩

/-- TBLRUN (R52, R255): the table entry is placed, and starts in the same step when the schedule says so and nothing stands
before it. -/
def execTblrun (a : Reg) (len : BitVec 8) (cnt : BitVec 6) (off : BitVec 17) (q : Queue) (s : State) : Out :=
  withRegs s [a]
    (match tableBound s off len with
     | some t => trapNow s t
     | none =>
       if s.queueFull q then stall s 8
       else
         let e := { s.entryOf (.tblrun a len cnt off q) none none with stage := .run }
         let idle := s.queueIdle q
         let s1 := (s.advance 2).enqueue q (if s.eager ∧ idle then e else { e with stage := .pop })
         .next (if s.eager ∧ idle then startTable s1 q (8 * off.toNat) (len.toNat + 1) (tableCount a cnt e) else s1))

/-- TBLSTOP (R255): the running table ends after its current micro-order, at once between two of them; a micro-order that
has halted its queue is current. -/
def execTblstop (q : Queue) (s : State) : Out :=
  let x := s.queue q
  match x.table with
  | none => .next (s.advance 2)
  | some t =>
    if t.cur.isSome ∨ x.halt.isSome then .next ((s.setQueue q { x with table := some { t with stop := true } }).advance 2)
    else .next (((s.setQueue q { x with table := none, entries := x.entries.tail, stall := 0 }).emptied q).advance 2)

/-- The entry of TBLBASE: the queue's rebase register takes the value read at issue (R255). -/
def runTblbase (a : Reg) (n : BitVec 3) (q : Queue) : Body := fun e s =>
  .ok () { s with rebase := s.rebase.setIfInBounds (rebaseBase q + n.toNat) (e.reg a) }

/-- TBLBASE (R255). -/
def execTblbase (a : Reg) (n : BitVec 3) (q : Queue) (s : State) : Out :=
  withRegs s [a]
    (if s.queueFull q then stall s 8
     else .next ((s.advance 2).passTo q (s.entryOf (.tblbase a n q) none none) (runTblbase a n q)))

end Sys2Proof.Machine
end

