-- ==== Sys2Proof/Machine/Run.lean ====
section
/-! DEFINITION. The queues at work beside the sequencer: tokens, finishing entries, micro-orders, lease grants and slot boundaries,
block fills, and what ends the waits of WAITA and WAITT (R47 to R52, R71, R143, R152, R166, R167, R181, R216, R225). -/

namespace Sys2Proof.Machine

/-- The queue and the entry's meaning of an instruction that becomes a queue entry (R15); none for every other one. -/
def bodyOf (i : Instr) : Option (Queue × Body) :=
  match i with
  | .vld o => some (.l, runVld o)
  | .vlds o => some (.l, runVlds o)
  | .vgath o => some (.l, runVgath o)
  | .vldro o => some (.l, runVldro o)
  | .tld o => some (.l, runTld o)
  | .ldblk o => some (.l, runLdblk o)
  | .aget o => some (.l, runAget o)
  | .vadd o => some (.c, runVadd o)
  | .vsub o => some (.c, runVsub o)
  | .vmul o => some (.c, runVmul o)
  | .vmulh o => some (.c, runVmulh o)
  | .vmin o => some (.c, runVmin o)
  | .vmax o => some (.c, runVmax o)
  | .vand o => some (.c, runVand o)
  | .vor o => some (.c, runVor o)
  | .vxor o => some (.c, runVxor o)
  | .vandn o => some (.c, runVandn o)
  | .vshl o => some (.c, runVshl o)
  | .vshr o => some (.c, runVshr o)
  | .vshra o => some (.c, runVshra o)
  | .vabs o => some (.c, runVabs o)
  | .vneg o => some (.c, runVneg o)
  | .vadds o => some (.c, runVadds o)
  | .vsubs o => some (.c, runVsubs o)
  | .vavg o => some (.c, runVavg o)
  | .vclz o => some (.c, runVclz o)
  | .vpopc o => some (.c, runVpopc o)
  | .vsel o => some (.c, runVsel o)
  | .viota o => some (.c, runViota o)
  | .vfadd o => some (.c, runVfadd o)
  | .vfsub o => some (.c, runVfsub o)
  | .vfmul o => some (.c, runVfmul o)
  | .vfmin o => some (.c, runVfmin o)
  | .vfmax o => some (.c, runVfmax o)
  | .vfabs o => some (.c, runVfabs o)
  | .vfneg o => some (.c, runVfneg o)
  | .vfdiv o => some (.c, runVfdiv o)
  | .vfsqrt o => some (.c, runVfsqrt o)
  | .vfrnd o => some (.c, runVfrnd o)
  | .vfma o => some (.c, runVfma o)
  | .vfms o => some (.c, runVfms o)
  | .vfnma o => some (.c, runVfnma o)
  | .vfnms o => some (.c, runVfnms o)
  | .vcmp o => some (.c, runVcmp o)
  | .kand o => some (.c, runKand o)
  | .kor o => some (.c, runKor o)
  | .kxor o => some (.c, runKxor o)
  | .knot o => some (.c, runKnot o)
  | .kpopc o => some (.c, runKpopc o)
  | .kffs o => some (.c, runKffs o)
  | .kmov o => some (.c, runKmov o)
  | .kset o => some (.c, runKset o)
  | .vperm o => some (.c, runVperm o)
  | .vshuf o => some (.c, runVshuf o)
  | .vslide o => some (.c, runVslide o)
  | .vbcast o => some (.c, runVbcast o)
  | .vzip o => some (.c, runVzip o)
  | .vunzip o => some (.c, runVunzip o)
  | .vtrn o => some (.c, runVtrn o)
  | .vcmpr o => some (.c, runVcmpr o)
  | .vexpd o => some (.c, runVexpd o)
  | .vrsum o => some (.c, runVrsum o)
  | .vrmax o => some (.c, runVrmax o)
  | .vrmin o => some (.c, runVrmin o)
  | .vrand o => some (.c, runVrand o)
  | .vror o => some (.c, runVror o)
  | .vpsum o => some (.c, runVpsum o)
  | .vcvt o => some (.c, runVcvt o)
  | .vqnt o => some (.c, runVqnt o)
  | .vdqnt o => some (.c, runVdqnt o)
  | .vcbx o => some (.c, runVcbx o)
  | .vpack o => some (.c, runVpack o)
  | .vunpk o => some (.c, runVunpk o)
  | .vsit o => some (.c, runVsit o)
  | .vsitc o => some (.c, runVsitc o)
  | .vdrain o => some (.c, runVdrain o)
  | .vsitclr o => some (.c, runVsitclr o)
  | .mldb o => some (.c, runMldb o)
  | .mma o => some (.c, runMma o)
  | .mzero o => some (.c, runMzero o)
  | .mlease o => some (.c, runMlease o)
  | .mrel o => some (.c, runMrel o)
  | .gemvh o => some (.c, runGemvh o)
  | .rlopen o => some (.c, runRlopen o)
  | .rlrec o => some (.c, runRlrec o)
  | .rlbr o => some (.c, runRlbr o)
  | .rlmark o => some (.c, runRlmark o)
  | .rlseal o => some (.c, runRlseal o)
  | .rlrev o => some (.c, runRlrev o)
  | .rlpop o => some (.c, runRlpop o)
  | .rlbrp o => some (.c, runRlbrp o)
  | .rlchk o => some (.c, runRlchk o)
  | .rlstat o => some (.c, runRlstat o)
  | .rlclose o => some (.c, runRlclose o)
  | .vmov o => some (.c, runVmov o)
  | .vins o => some (.c, runVins o)
  | .vext o => some (.c, runVext o)
  | .vli o => some (.c, runVli o)
  | .vexp2 o => some (.c, runVexp2 o)
  | .vlog2 o => some (.c, runVlog2 o)
  | .vrcp o => some (.c, runVrcp o)
  | .vrsq o => some (.c, runVrsq o)
  | .vst o => some (.s, runVst o)
  | .vsts o => some (.s, runVsts o)
  | .vscat o => some (.s, runVscat o)
  | .tst o => some (.s, runTst o)
  | .tacc o => some (.s, runTacc o)
  | .vrdm o => some (.s, runVrdm o)
  | .vatom o => some (.s, runVatom o)
  | .tblbase a n q => some (q, runTblbase a n q)
  | _ => none

/-! Micro-orders (R52, R124, R143, R152) -/

/-- Instructions that are no micro-orders (R152). -/
def tableBarred : Instr → Bool
  | .vext _ | .kpopc _ | .vatom _ | .rlstat _ | .aget _ | .tblbase .. => true
  | _ => false

/-- What the queue checks and binds when a micro-order starts, in the place of the sequencer (R152, R331).
DEDUCED: log entry 31. -/
def microSpec (i : Instr) (s : State) : IssueSpec :=
  match i with
  | .tld o => tileSpec o s
  | .tst o => tileSpec o s
  | .tacc o => tileSpec o s
  | .ldblk o => ldblkSpec o s
  | .mlease _ => { use := leaseUse s }
  | .rlopen _ => { use := if s.launch.header.tape = 0 then some ⟨.undef, 8, 0⟩ else none }
  | .mldb _ | .mma _ =>
    { use := if s.fmt.all (·.matched) then some { cause := .fmtunder } else leaseUse s
      bindAt := (tileCmdSpec s).bindAt }
  | _ => {}

/-- The entry of a micro-order of the running table, as yet without its own instruction. -/
def microEntry (s : State) (t : TableRun) (e : Entry) : Entry :=
  { e with
    regs := s.regFile, slot := none, fmt := none, stage := .pop
    micro := some ⟨t.step, t.iter, (t.iter * t.len + t.step + 1) % 2 ^ 32⟩ }

/-- The table's current entry is set. -/
def setMicro (s : State) (q : Queue) (t : TableRun) (e : Entry) : State :=
  s.setQueue q { s.queue q with table := some { t with cur := some e } }

/-- The next micro-order of a table is read, as its 8 bytes stand now, and becomes the queue's entry; or its encoding is illegal,
the queue halts, and an ERET reads it again (R52, R152). -/
def startMicro (s : State) (q : Queue) (t : TableRun) (e : Entry) : State :=
  let m := microEntry s t e
  match s.readScr (t.base + 8 * t.step) 8 with
  | .trap f => s.haltQueue q m f
  | .fail f _ => s.haltQueue q m f
  | .wait s => s
  | .ok bs s =>
    match decodeWords (bytesToNat (bs.take 4)) (bytesToNat (bs.drop 4)) with
    | .error _ => s.haltQueue q m ⟨.undef, 0, 0⟩
    | .ok i =>
      if tableBarred i ∨ (bodyOf i).map (·.1) ≠ some q then s.haltQueue q m ⟨.undef, 0, 0⟩
      else setMicro s q t { m with instr := i }

/-- A micro-order that has its tokens starts: it is checked and binds its format word or its tag; it halts its queue, to start again
after an ERET, or waits for its tag (R152). -/
def startEntry (s : State) (q : Queue) (e : Entry) : State :=
  let sp := microSpec e.instr s
  if ¬ namesOk s.launch.header e.instr then s.haltQueue q e { cause := .regbound }
  else
    match sp.bound, sp.use with
    | some f, _ => s.haltQueue q e f
    | none, some f => s.haltQueue q e f
    | none, none =>
      if sp.wait.isSome then s
      else
        let b := sp.bindAt s
        let e := { e with fmt := b.2.1, stage := .run }
        (b.2.2.consumeFormat e).setCurrent q e

/-! Pop, run, push (R48, R49) -/

/-- The pop stage ends: a table entry starts its table, and any other one takes its tokens and its format word (R48, R52, R215). -/
def popEntry (s : State) (q : Queue) (e : Entry) : State :=
  match e.instr with
  | .tblrun a len cnt off _ =>
    startTable (s.setCurrent q { e with stage := .run }) q (8 * off.toNat) (len.toNat + 1) (tableCount a cnt e)
  | i =>
    let s := s.popTokens q (tokensOf i)
    if e.micro.isSome then
      let e := { e with stage := .start }
      startEntry (s.setCurrent q e) q e
    else
      let e := { e with stage := .run }
      (s.consumeFormat e).setCurrent q e

/-- The current entry of the queue can pop. -/
def canPop (s : State) (q : Queue) : Bool :=
  match s.workOf q with
  | some e => e.stage = .pop ∧ s.tokensReady q (tokensOf e.instr)
  | none => false

/-- TOKEN_POP: the entry at the head of queue `queue` takes all its tokens (R48). -/
def execTokenPop (s : State) : Out :=
  let q := s.input.queue
  match s.workOf q with
  | some e => .next (if canPop s q then popEntry s q e else s)
  | none => .next s

/-- The current entry runs to its finish and pushes, or pushes what is left, or waits on (R48, R49). -/
def finishCurrent (s : State) (q : Queue) (e : Entry) : State :=
  match e.stage with
  | .pop => s
  | .start => startEntry s q e
  | .push sp sn => s.pushStage q sp sn
  | .run =>
    match bodyOf e.instr with
    | some (_, body) => s.runCurrent q e body
    | none => s

/-- ENTRY_FINISH: the entry that queue `queue` runs (R48, R49). -/
def execEntryFinish (s : State) : Out :=
  let q := s.input.queue
  match s.workOf q with
  | some e => .next (finishCurrent s q e)
  | none => .next s

/-- RETURN_VALUE_ARRIVE: the value-returning entry that queue `queue` runs delivers its value to its reserved return-queue entry
(R51). Values of other devices arrive with ATOMIC_RESPONSE, and those of held accesses when they are performed. -/
def execReturnValueArrive (s : State) : Out :=
  let q := s.input.queue
  match s.workOf q with
  | some e => .next (if e.slot.isSome ∧ e.stage = .run then finishCurrent s q e else s)
  | none => .next s

/-- The queue's table is between two micro-orders. -/
def microDue (s : State) (q : Queue) : Bool :=
  let between : Bool := match (s.queue q).table with | some t => t.cur.isNone | none => false
  s.queueLive q ∧ (s.queue q).halt.isNone ∧ between

/-- MICRO_ORDER_START: the running table of queue `queue` starts its next micro-order (R52). -/
def execMicroOrderStart (s : State) : Out :=
  let q := s.input.queue
  match (s.queue q).table, (s.queue q).entries with
  | some t, e :: _ => .next (if microDue s q then startMicro s q t e else s)
  | _, _ => .next s

/-! The matrix array (R181, R216, R225) -/

/-- The buffers that the task owned at its save are loaded again (R225), one whose load faults being owned by no core; then the task
goes on with a new snapshot (R110, R276). -/
def reloadBufs (s : State) : State :=
  let s := [0, 1].foldl (fun s n =>
    let b := weightBuf s n
    if b.owner = some (coreRank s) then
      match loadWeights s n b.word b.src b.k b.stride with
      | .ok _ s => s
      | .trap _ => disown s n
      | .fail _ s => s
      | .wait s => s
    else s) s
  { s with status := .running, matrix := { s.matrix with reload := false } }.openSnap true

/-- The core waits for the array, and the arbiter grants to it (R216). -/
def leaseDue (s : State) : Bool := nextHolder s = some (coreRank s)

/-- LEASE_GRANT: the array goes to the core in focus, for its MLEASE or for the reload of its buffers (R216, R225). -/
def execLeaseGrant (s : State) : Out :=
  if ¬ leaseDue s then .next s
  else
    let s1 := grantLease s (coreRank s)
    if s.status = .leaseWait then .next (reloadBufs s1)
    else
      match waitingLease s with
      | some e => .next (finishCurrent s1 .c e)
      | none => .next s

/-- A slot write whose boundary has come. -/
def slotDue (s : State) : Bool := s.matrix.pending.any fun w => w.period ≤ s.clk / 256

/-- SLOT_BOUNDARY: the slot writes whose boundary has come take effect, in their order (R181). -/
def execSlotBoundary (s : State) : Out :=
  let due := s.matrix.pending.filter fun w => w.period ≤ s.clk / 256
  .next { s with matrix := { s.matrix with
    slots := due.foldl (fun v w => v.set w.slot.toNat w.value w.slot.isLt) s.matrix.slots
    pending := s.matrix.pending.filter fun w => ¬ w.period ≤ s.clk / 256 } }

/-! Block fills (R71) -/

/-- Every byte of a block's lines is there, or will not come: the units that were asked for have been answered (R70, R355), and
their stacks are ready (R311). -/
def blockArrived (s : State) (b : Block) : Bool :=
  ¬ s.stackWaits b.locs
    ∧ s.memory.reqs.all fun r => match r.op with
      | .read false => b.locs.all fun l => r.loc / 128 ≠ peerOf l / 128
      | _ => true

/-- A line of a block is uncorrectable when its fill ends (R70). -/
def blockError (s : State) (b : Block) : Bool :=
  (blockBytes b.locs).any fun l => s.poisoned l ∨ s.stackFailed l ∨ s.memory.failed.any fun f => f.1 = peerOf l / 64 * 64

/-- The memory after a block's fill: a stale block is gone, and what its units' readers would have reported its tag does. -/
def closeBlock (m : Memory) (b : Block) : Memory :=
  { m with
    blocks := if b.stale then m.blocks.filter fun (x : Block) => x.id ≠ b.id
      else m.blocks.map fun (x : Block) => if x.id = b.id then { x with open_ := false } else x
    l1 := if b.stale then m.l1.filter (· ≠ .block b.id) else m.l1
    failed := m.failed.filter fun f => ¬ b.locs.any fun l => f.1 / 128 = peerOf l / 128 }

/-- BLOCK_FILL_END: the fill of block `index` ends, once all of it has come: its tag completes, with an error where a line is
uncorrectable by then, and a stale block is gone (R70, R71). -/
def execBlockFillEnd (s : State) : Out :=
  match s.memory.blocks.find? fun b => b.id = s.input.index ∧ b.open_ with
  | none => .next s
  | some b =>
    if ¬ blockArrived s b then .next s
    else .next ({ s with memory := closeBlock s.memory b }.tagDone b.tag (blockError s b))

/-! What ends a wait for memory or time (R166, R167) -/

/-- The instruction at which the sequencer waits. -/
def waitingInstr (s : State) : Option Instr :=
  match fetchWords s with
  | .ok w _ => match decodeWords w.1 w.2 with | .ok i => some i | .error _ => none
  | _ => none

/-- WAITA_WAKE: a WAITA that sleeps wakes: a line's Count has changed, the deadline has come, or the wake-up is spurious
(R166). -/
def execWaitaWake (s : State) : Out :=
  match decide (s.status = .running), s.wait, waitingInstr s with
  | true, some (.waita _), some (.waita d a b) => execWaita d a b { s with wake := s.input.wake = .spurious }
  | _, _, _ => .next s

/-- WAITT_EXPIRE: TIME has reached the deadline of a WAITT (R167). -/
def execWaittExpire (s : State) : Out :=
  match decide (s.status = .running), waitingInstr s with
  | true, some (.waitt a) => execWaitt a s
  | _, _ => .next s

end Sys2Proof.Machine
end

