-- ==== Sys2Proof/Machine/Dispatch.lean ====
section
/-! DEFINITION. The meaning of every instruction and event: one arm per constructor, each one direct call. -/

namespace Sys2Proof.Machine

def exec (i : Instr) (s : State) : Host.Outcome State Fault Refusal :=
  match i with
  | .add o => Sys2Proof.Machine.execAdd o s
  | .sub o => Sys2Proof.Machine.execSub o s
  | .and o => Sys2Proof.Machine.execAnd o s
  | .or o => Sys2Proof.Machine.execOr o s
  | .xor o => Sys2Proof.Machine.execXor o s
  | .andn o => Sys2Proof.Machine.execAndn o s
  | .sll o => Sys2Proof.Machine.execSll o s
  | .srl o => Sys2Proof.Machine.execSrl o s
  | .sra o => Sys2Proof.Machine.execSra o s
  | .rol o => Sys2Proof.Machine.execRol o s
  | .ror o => Sys2Proof.Machine.execRor o s
  | .mul o => Sys2Proof.Machine.execMul o s
  | .mulh o => Sys2Proof.Machine.execMulh o s
  | .mulhn o => Sys2Proof.Machine.execMulhn o s
  | .div o => Sys2Proof.Machine.execDiv o s
  | .divn o => Sys2Proof.Machine.execDivn o s
  | .rem o => Sys2Proof.Machine.execRem o s
  | .remn o => Sys2Proof.Machine.execRemn o s
  | .min o => Sys2Proof.Machine.execMin o s
  | .max o => Sys2Proof.Machine.execMax o s
  | .minn o => Sys2Proof.Machine.execMinn o s
  | .maxn o => Sys2Proof.Machine.execMaxn o s
  | .slt o => Sys2Proof.Machine.execSlt o s
  | .sltn o => Sys2Proof.Machine.execSltn o s
  | .seq o => Sys2Proof.Machine.execSeq o s
  | .clz o => Sys2Proof.Machine.execClz o s
  | .ctz o => Sys2Proof.Machine.execCtz o s
  | .popc o => Sys2Proof.Machine.execPopc o s
  | .ext o => Sys2Proof.Machine.execExt o s
  | .ins o => Sys2Proof.Machine.execIns o s
  | .sel o => Sys2Proof.Machine.execSel o s
  | .bswp o => Sys2Proof.Machine.execBswp o s
  | .addi o => Sys2Proof.Machine.execAddi o s
  | .andi o => Sys2Proof.Machine.execAndi o s
  | .ori o => Sys2Proof.Machine.execOri o s
  | .xori o => Sys2Proof.Machine.execXori o s
  | .shi d a kind n => Sys2Proof.Machine.execShi d a kind n s
  | .slti o => Sys2Proof.Machine.execSlti o s
  | .lui d imm => Sys2Proof.Machine.execLui d imm s
  | .liw d imm => Sys2Proof.Machine.execLiw d imm s
  | .beq o => Sys2Proof.Machine.execBeq o s
  | .bne o => Sys2Proof.Machine.execBne o s
  | .blt o => Sys2Proof.Machine.execBlt o s
  | .bge o => Sys2Proof.Machine.execBge o s
  | .bltn o => Sys2Proof.Machine.execBltn o s
  | .bgen o => Sys2Proof.Machine.execBgen o s
  | .jal off => Sys2Proof.Machine.execJal off s
  | .jalr o => Sys2Proof.Machine.execJalr o s
  | .ld o => Sys2Proof.Machine.execLd o s
  | .ldn o => Sys2Proof.Machine.execLdn o s
  | .st o => Sys2Proof.Machine.execSt o s
  | .aadd o => Sys2Proof.Machine.execAadd o s
  | .asub o => Sys2Proof.Machine.execAsub o s
  | .aand o => Sys2Proof.Machine.execAand o s
  | .aor o => Sys2Proof.Machine.execAor o s
  | .axor o => Sys2Proof.Machine.execAxor o s
  | .amin o => Sys2Proof.Machine.execAmin o s
  | .amax o => Sys2Proof.Machine.execAmax o s
  | .aminn o => Sys2Proof.Machine.execAminn o s
  | .amaxn o => Sys2Proof.Machine.execAmaxn o s
  | .aswp o => Sys2Proof.Machine.execAswp o s
  | .acas o => Sys2Proof.Machine.execAcas o s
  | .ainc o => Sys2Proof.Machine.execAinc o s
  | .adec o => Sys2Proof.Machine.execAdec o s
  | .afadd o => Sys2Proof.Machine.execAfadd o s
  | .afmin o => Sys2Proof.Machine.execAfmin o s
  | .afmax o => Sys2Proof.Machine.execAfmax o s
  | .fence sc => Sys2Proof.Machine.execFence sc s
  | .pub sc => Sys2Proof.Machine.execPub sc s
  | .opn sc => Sys2Proof.Machine.execOpen sc s
  | .phase level => Sys2Proof.Machine.execPhase level s
  | .waita d a b => Sys2Proof.Machine.execWaita d a b s
  | .waitt a => Sys2Proof.Machine.execWaitt a s
  | .twany a => Sys2Proof.Machine.execTwany a s
  | .twall a => Sys2Proof.Machine.execTwall a s
  | .tffr d a => Sys2Proof.Machine.execTffr d a s
  | .sqwait q => Sys2Proof.Machine.execSqwait q s
  | .disc a => Sys2Proof.Machine.execDisc a s
  | .agets d => Sys2Proof.Machine.execAgets d s
  | .trap code => Sys2Proof.Machine.execTrap code s
  | .srd r n => Sys2Proof.Machine.execSrd r n s
  | .swr r n => Sys2Proof.Machine.execSwr r n s
  | .brk code => Sys2Proof.Machine.execBrk code s
  | .fmtpush a => Sys2Proof.Machine.execFmtpush a s
  | .mapld m a => Sys2Proof.Machine.execMapld m a s
  | .mapst m a => Sys2Proof.Machine.execMapst m a s
  | .tdld a => Sys2Proof.Machine.execTdld a s
  | .mcset a b => Sys2Proof.Machine.execMcset a b s
  | .mcqui a => Sys2Proof.Machine.execMcqui a s
  | .mslot a b => Sys2Proof.Machine.execMslot a b s
  | .vld o => Sys2Proof.Machine.execVld o s
  | .vlds o => Sys2Proof.Machine.execVlds o s
  | .vgath o => Sys2Proof.Machine.execVgath o s
  | .vldro o => Sys2Proof.Machine.execVldro o s
  | .tld o => Sys2Proof.Machine.execTld o s
  | .ldblk o => Sys2Proof.Machine.execLdblk o s
  | .aget o => Sys2Proof.Machine.execAget o s
  | .vadd o => Sys2Proof.Machine.execVadd o s
  | .vsub o => Sys2Proof.Machine.execVsub o s
  | .vmul o => Sys2Proof.Machine.execVmul o s
  | .vmulh o => Sys2Proof.Machine.execVmulh o s
  | .vmin o => Sys2Proof.Machine.execVmin o s
  | .vmax o => Sys2Proof.Machine.execVmax o s
  | .vand o => Sys2Proof.Machine.execVand o s
  | .vor o => Sys2Proof.Machine.execVor o s
  | .vxor o => Sys2Proof.Machine.execVxor o s
  | .vandn o => Sys2Proof.Machine.execVandn o s
  | .vshl o => Sys2Proof.Machine.execVshl o s
  | .vshr o => Sys2Proof.Machine.execVshr o s
  | .vshra o => Sys2Proof.Machine.execVshra o s
  | .vabs o => Sys2Proof.Machine.execVabs o s
  | .vneg o => Sys2Proof.Machine.execVneg o s
  | .vadds o => Sys2Proof.Machine.execVadds o s
  | .vsubs o => Sys2Proof.Machine.execVsubs o s
  | .vavg o => Sys2Proof.Machine.execVavg o s
  | .vclz o => Sys2Proof.Machine.execVclz o s
  | .vpopc o => Sys2Proof.Machine.execVpopc o s
  | .vsel o => Sys2Proof.Machine.execVsel o s
  | .viota o => Sys2Proof.Machine.execViota o s
  | .vfadd o => Sys2Proof.Machine.execVfadd o s
  | .vfsub o => Sys2Proof.Machine.execVfsub o s
  | .vfmul o => Sys2Proof.Machine.execVfmul o s
  | .vfmin o => Sys2Proof.Machine.execVfmin o s
  | .vfmax o => Sys2Proof.Machine.execVfmax o s
  | .vfabs o => Sys2Proof.Machine.execVfabs o s
  | .vfneg o => Sys2Proof.Machine.execVfneg o s
  | .vfdiv o => Sys2Proof.Machine.execVfdiv o s
  | .vfsqrt o => Sys2Proof.Machine.execVfsqrt o s
  | .vfrnd o => Sys2Proof.Machine.execVfrnd o s
  | .vfma o => Sys2Proof.Machine.execVfma o s
  | .vfms o => Sys2Proof.Machine.execVfms o s
  | .vfnma o => Sys2Proof.Machine.execVfnma o s
  | .vfnms o => Sys2Proof.Machine.execVfnms o s
  | .vcmp o => Sys2Proof.Machine.execVcmp o s
  | .kand o => Sys2Proof.Machine.execKand o s
  | .kor o => Sys2Proof.Machine.execKor o s
  | .kxor o => Sys2Proof.Machine.execKxor o s
  | .knot o => Sys2Proof.Machine.execKnot o s
  | .kpopc o => Sys2Proof.Machine.execKpopc o s
  | .kffs o => Sys2Proof.Machine.execKffs o s
  | .kmov o => Sys2Proof.Machine.execKmov o s
  | .kset o => Sys2Proof.Machine.execKset o s
  | .vperm o => Sys2Proof.Machine.execVperm o s
  | .vshuf o => Sys2Proof.Machine.execVshuf o s
  | .vslide o => Sys2Proof.Machine.execVslide o s
  | .vbcast o => Sys2Proof.Machine.execVbcast o s
  | .vzip o => Sys2Proof.Machine.execVzip o s
  | .vunzip o => Sys2Proof.Machine.execVunzip o s
  | .vtrn o => Sys2Proof.Machine.execVtrn o s
  | .vcmpr o => Sys2Proof.Machine.execVcmpr o s
  | .vexpd o => Sys2Proof.Machine.execVexpd o s
  | .vrsum o => Sys2Proof.Machine.execVrsum o s
  | .vrmax o => Sys2Proof.Machine.execVrmax o s
  | .vrmin o => Sys2Proof.Machine.execVrmin o s
  | .vrand o => Sys2Proof.Machine.execVrand o s
  | .vror o => Sys2Proof.Machine.execVror o s
  | .vpsum o => Sys2Proof.Machine.execVpsum o s
  | .vcvt o => Sys2Proof.Machine.execVcvt o s
  | .vqnt o => Sys2Proof.Machine.execVqnt o s
  | .vdqnt o => Sys2Proof.Machine.execVdqnt o s
  | .vcbx o => Sys2Proof.Machine.execVcbx o s
  | .vpack o => Sys2Proof.Machine.execVpack o s
  | .vunpk o => Sys2Proof.Machine.execVunpk o s
  | .vsit o => Sys2Proof.Machine.execVsit o s
  | .vsitc o => Sys2Proof.Machine.execVsitc o s
  | .vdrain o => Sys2Proof.Machine.execVdrain o s
  | .vsitclr o => Sys2Proof.Machine.execVsitclr o s
  | .mldb o => Sys2Proof.Machine.execMldb o s
  | .mma o => Sys2Proof.Machine.execMma o s
  | .mzero o => Sys2Proof.Machine.execMzero o s
  | .mlease o => Sys2Proof.Machine.execMlease o s
  | .mrel o => Sys2Proof.Machine.execMrel o s
  | .gemvh o => Sys2Proof.Machine.execGemvh o s
  | .rlopen o => Sys2Proof.Machine.execRlopen o s
  | .rlrec o => Sys2Proof.Machine.execRlrec o s
  | .rlbr o => Sys2Proof.Machine.execRlbr o s
  | .rlmark o => Sys2Proof.Machine.execRlmark o s
  | .rlseal o => Sys2Proof.Machine.execRlseal o s
  | .rlrev o => Sys2Proof.Machine.execRlrev o s
  | .rlpop o => Sys2Proof.Machine.execRlpop o s
  | .rlbrp o => Sys2Proof.Machine.execRlbrp o s
  | .rlchk o => Sys2Proof.Machine.execRlchk o s
  | .rlstat o => Sys2Proof.Machine.execRlstat o s
  | .rlclose o => Sys2Proof.Machine.execRlclose o s
  | .vmov o => Sys2Proof.Machine.execVmov o s
  | .vins o => Sys2Proof.Machine.execVins o s
  | .vext o => Sys2Proof.Machine.execVext o s
  | .vli o => Sys2Proof.Machine.execVli o s
  | .vexp2 o => Sys2Proof.Machine.execVexp2 o s
  | .vlog2 o => Sys2Proof.Machine.execVlog2 o s
  | .vrcp o => Sys2Proof.Machine.execVrcp o s
  | .vrsq o => Sys2Proof.Machine.execVrsq o s
  | .vst o => Sys2Proof.Machine.execVst o s
  | .vsts o => Sys2Proof.Machine.execVsts o s
  | .vscat o => Sys2Proof.Machine.execVscat o s
  | .tst o => Sys2Proof.Machine.execTst o s
  | .tacc o => Sys2Proof.Machine.execTacc o s
  | .vrdm o => Sys2Proof.Machine.execVrdm o s
  | .vatom o => Sys2Proof.Machine.execVatom o s
  | .cpy o => Sys2Proof.Machine.execCpy o s
  | .fload o => Sys2Proof.Machine.execFload o s
  | .fst o => Sys2Proof.Machine.execFst o s
  | .crun o => Sys2Proof.Machine.execCrun o s
  | .gjoin o => Sys2Proof.Machine.execGjoin o s
  | .gleave o => Sys2Proof.Machine.execGleave o s
  | .gprop o => Sys2Proof.Machine.execGprop o s
  | .gver o => Sys2Proof.Machine.execGver o s
  | .rshd o => Sys2Proof.Machine.execRshd o s
  | .rshq o => Sys2Proof.Machine.execRshq o s
  | .hseq o => Sys2Proof.Machine.execHseq o s
  | .tblrun a len cnt off q => Sys2Proof.Machine.execTblrun a len cnt off q s
  | .tblstop q => Sys2Proof.Machine.execTblstop q s
  | .tblbase a n q => Sys2Proof.Machine.execTblbase a n q s
  | .evcfg a t => Sys2Proof.Machine.execEvcfg a t s
  | .evarm t => Sys2Proof.Machine.execEvarm t s
  | .evoff t => Sys2Proof.Machine.execEvoff t s
  | .barv n => Sys2Proof.Machine.execBarv n s
  | .bawt n => Sys2Proof.Machine.execBawt n s
  | .barw n => Sys2Proof.Machine.execBarw n s
  | .baset a target n => Sys2Proof.Machine.execBaset a target n s
  | .bagrp a n => Sys2Proof.Machine.execBagrp a n s
  | .batst a n => Sys2Proof.Machine.execBatst a n s
  | .send sa len => Sys2Proof.Machine.execSend sa len s
  | .recv sb len => Sys2Proof.Machine.execRecv sb len s
  | .rrs sa sb rop ty len => Sys2Proof.Machine.execRrs sa sb rop ty len s
  | .rred sa sb rop ty len => Sys2Proof.Machine.execRred sa sb rop ty len s
  | .copy sa sb len => Sys2Proof.Machine.execCopy sa sb len s
  | .loop n cnt => Sys2Proof.Machine.execLoop n cnt s
  | .endl n => Sys2Proof.Machine.execEndl n s
  | .peer mode ksrc n imm => Sys2Proof.Machine.execPeer mode ksrc n imm s
  | .sig bar => Sys2Proof.Machine.execSig bar s
  | .offs slot n stride => Sys2Proof.Machine.execOffs slot n stride s
  | .hcpy tpl tag oe reg => Sys2Proof.Machine.execHcpy tpl tag oe reg s
  | .hwtag tag => Sys2Proof.Machine.execHwtag tag s
  | .hadd reg inc => Sys2Proof.Machine.execHadd reg inc s
  | .hloop back cnt => Sys2Proof.Machine.execHloop back cnt s
  | .hflag off val => Sys2Proof.Machine.execHflag off val s
  | .roinv => Sys2Proof.Machine.execRoinv s
  | .eret => Sys2Proof.Machine.execEret s
  | .exit => Sys2Proof.Machine.execExit s
  | .tail => Sys2Proof.Machine.execTail s
  | .fqui => Sys2Proof.Machine.execFqui s
  | .ginv => Sys2Proof.Machine.execGinv s
  | .hstop => Sys2Proof.Machine.execHstop s
  | .wait => Sys2Proof.Machine.execWait s
  | .halt => Sys2Proof.Machine.execHalt s
  | .hend => Sys2Proof.Machine.execHend s
  | .tokenPop => Sys2Proof.Machine.execTokenPop s
  | .entryFinish => Sys2Proof.Machine.execEntryFinish s
  | .microOrderStart => Sys2Proof.Machine.execMicroOrderStart s
  | .returnValueArrive => Sys2Proof.Machine.execReturnValueArrive s
  | .tokstarve => Sys2Proof.Machine.execTokstarve s
  | .qfltSkip => Sys2Proof.Machine.execQfltSkip s
  | .qfltFlush => Sys2Proof.Machine.execQfltFlush s
  | .waitaWake => Sys2Proof.Machine.execWaitaWake s
  | .blockFillEnd => Sys2Proof.Machine.execBlockFillEnd s
  | .cellFire => Sys2Proof.Machine.execCellFire s
  | .callerTermFire => Sys2Proof.Machine.execCallerTermFire s
  | .callerActionStart => Sys2Proof.Machine.execCallerActionStart s
  | .streamDoorbell => Sys2Proof.Machine.execStreamDoorbell s
  | .nopRecord => Sys2Proof.Machine.execNopRecord s
  | .launchRecord => Sys2Proof.Machine.execLaunchRecord s
  | .xferRecord => Sys2Proof.Machine.execXferRecord s
  | .fsigRecord => Sys2Proof.Machine.execFsigRecord s
  | .invalRecord => Sys2Proof.Machine.execInvalRecord s
  | .xferDone => Sys2Proof.Machine.execXferDone s
  | .invalDone => Sys2Proof.Machine.execInvalDone s
  | .launchIssue => Sys2Proof.Machine.execLaunchIssue s
  | .gangPlace => Sys2Proof.Machine.execGangPlace s
  | .taskStart => Sys2Proof.Machine.execTaskStart s
  | .launchAgeing => Sys2Proof.Machine.execLaunchAgeing s
  | .launchComplete => Sys2Proof.Machine.execLaunchComplete s
  | .taskRetire => Sys2Proof.Machine.execTaskRetire s
  | .tailTrackerDrain => Sys2Proof.Machine.execTailTrackerDrain s
  | .preemptRequest => Sys2Proof.Machine.execPreemptRequest s
  | .coreHalt => Sys2Proof.Machine.execCoreHalt s
  | .contextSave => Sys2Proof.Machine.execContextSave s
  | .gangRequeue => Sys2Proof.Machine.execGangRequeue s
  | .gangResume => Sys2Proof.Machine.execGangResume s
  | .saveOverrun25us => Sys2Proof.Machine.execSaveOverrun25us s
  | .saveOverrun1ms => Sys2Proof.Machine.execSaveOverrun1ms s
  | .launchKill => Sys2Proof.Machine.execLaunchKill s
  | .coreFail => Sys2Proof.Machine.execCoreFail s
  | .qfaultReport => Sys2Proof.Machine.execQfaultReport s
  | .watchdog => Sys2Proof.Machine.execWatchdog s
  | .waittExpire => Sys2Proof.Machine.execWaittExpire s
  | .pageMigration => Sys2Proof.Machine.execPageMigration s
  | .sscfgWrite => Sys2Proof.Machine.execSscfgWrite s
  | .sscfgResize => Sys2Proof.Machine.execSscfgResize s
  | .leaseGrant => Sys2Proof.Machine.execLeaseGrant s
  | .slotBoundary => Sys2Proof.Machine.execSlotBoundary s
  | .copyStart => Sys2Proof.Machine.execCopyStart s
  | .copyComplete => Sys2Proof.Machine.execCopyComplete s
  | .graphLoad => Sys2Proof.Machine.execGraphLoad s
  | .streamStart => Sys2Proof.Machine.execStreamStart s
  | .streamEnd => Sys2Proof.Machine.execStreamEnd s
  | .streamWatchdog => Sys2Proof.Machine.execStreamWatchdog s
  | .abortNotice => Sys2Proof.Machine.execAbortNotice s
  | .collectiveTimeout => Sys2Proof.Machine.execCollectiveTimeout s
  | .reshardPieceLand => Sys2Proof.Machine.execReshardPieceLand s
  | .reshardReplace => Sys2Proof.Machine.execReshardReplace s
  | .reshardFail => Sys2Proof.Machine.execReshardFail s
  | .propose => Sys2Proof.Machine.execPropose s
  | .refuse => Sys2Proof.Machine.execRefuse s
  | .signature => Sys2Proof.Machine.execSignature s
  | .adopt => Sys2Proof.Machine.execAdopt s
  | .abort => Sys2Proof.Machine.execAbort s
  | .roundTimeout => Sys2Proof.Machine.execRoundTimeout s
  | .grrel => Sys2Proof.Machine.execGrrel s
  | .revocationNotice => Sys2Proof.Machine.execRevocationNotice s
  | .flitReceive => Sys2Proof.Machine.execFlitReceive s
  | .nak => Sys2Proof.Machine.execNak s
  | .fackStallTimeout => Sys2Proof.Machine.execFackStallTimeout s
  | .portRetrain => Sys2Proof.Machine.execPortRetrain s
  | .remoteRead => Sys2Proof.Machine.execRemoteRead s
  | .readResponse => Sys2Proof.Machine.execReadResponse s
  | .remoteWrite => Sys2Proof.Machine.execRemoteWrite s
  | .remoteAtomic => Sys2Proof.Machine.execRemoteAtomic s
  | .atomicResponse => Sys2Proof.Machine.execAtomicResponse s
  | .acknowledgement => Sys2Proof.Machine.execAcknowledgement s
  | .collectiveData => Sys2Proof.Machine.execCollectiveData s
  | .collectiveControl => Sys2Proof.Machine.execCollectiveControl s
  | .groupRound => Sys2Proof.Machine.execGroupRound s
  | .requestResend => Sys2Proof.Machine.execRequestResend s
  | .requestGiveUp => Sys2Proof.Machine.execRequestGiveUp s
  | .dedupHoleTimeout => Sys2Proof.Machine.execDedupHoleTimeout s
  | .packetHoldDiscard => Sys2Proof.Machine.execPacketHoldDiscard s
  | .endMarker => Sys2Proof.Machine.execEndMarker s
  | .sequencedPerform => Sys2Proof.Machine.execSequencedPerform s
  | .batchedPerform => Sys2Proof.Machine.execBatchedPerform s
  | .ownclaim => Sys2Proof.Machine.execOwnclaim s
  | .electionClose => Sys2Proof.Machine.execElectionClose s
  | .handover => Sys2Proof.Machine.execHandover s
  | .handoverTimeout => Sys2Proof.Machine.execHandoverTimeout s
  | .devidWrite => Sys2Proof.Machine.execDevidWrite s
  | .attestationRequest => Sys2Proof.Machine.execAttestationRequest s
  | .securityAlarm => Sys2Proof.Machine.execSecurityAlarm s
  | .thermalLimit => Sys2Proof.Machine.execThermalLimit s
  | .bootStage => Sys2Proof.Machine.execBootStage s
  | .functionReady => Sys2Proof.Machine.execFunctionReady s
  | .functionTimeout => Sys2Proof.Machine.execFunctionTimeout s
  | .deviceReset => Sys2Proof.Machine.execDeviceReset s
  | .timeSync => Sys2Proof.Machine.execTimeSync s
  | .hostRead => Sys2Proof.Machine.execHostRead s
  | .hostWrite => Sys2Proof.Machine.execHostWrite s
  | .patrolScrub => Sys2Proof.Machine.execPatrolScrub s
  | .rowRepair => Sys2Proof.Machine.execRowRepair s
  | .registerWrite => Sys2Proof.Machine.execRegisterWrite s
  | .debugStop => Sys2Proof.Machine.execDebugStop s
  | .debugResume => Sys2Proof.Machine.execDebugResume s
  | .roundDecisionResend => Sys2Proof.Machine.execRoundDecisionResend s
  | .cxlMemResponse => Sys2Proof.Machine.execCxlMemResponse s

end Sys2Proof.Machine
end

