-- ==== Sys2Proof/Machine/Schedule.lean ====
section
/-! DEFINITION. Which internal events of the device can happen next (DESIGN CHOICE, log entry 1): the schedule takes them in turn, between the
instructions of the task in focus. What comes from outside the core, or from the scheduler, comes from the agenda alone. -/

namespace Sys2Proof.Machine

/-- An event that only names something by number. -/
def indexEvent (row : Instr) (n : Nat) : Event := ⟨row, { Input.none with index := n }⟩

/-- An event of a queue. -/
def queueEvent (row : Instr) (q : Queue) : Event := ⟨row, { Input.none with queue := q }⟩

/-- What a queue can do (R48, R52, R328). -/
def queueEvents (s : State) (q : Queue) : List Event :=
  match s.workOf q with
  | some e =>
    if e.stage ≠ .pop then [queueEvent .entryFinish q]
    else if canPop s q then [queueEvent .tokenPop q]
    else if Config.starveClk ≤ (s.queue q).stall then [queueEvent .tokstarve q]
    else []
  | none => if microDue s q then [queueEvent .microOrderStart q] else []

/-- What the Caller can do (R257). -/
def callerEvents (s : State) : List Event :=
  ((List.range 32).filter fun i => actionReady s (BitVec.ofNat 5 i)).map (indexEvent .callerActionStart)

/-- What the copy channel can do (R245). -/
def copyEvents (s : State) : List Event :=
  s.channel.cmds.filterMap fun c =>
    if c.ended ∧ copyPublished s c then some (indexEvent .copyComplete c.id)
    else if copyReady s c then some (indexEvent .copyStart c.id)
    else none

/-- What the grid can do (R249, R252). -/
def gridEvents (s : State) : List Event :=
  match s.grid.run with
  | some r =>
    match readyCell s r with
    | some i => [indexEvent .cellFire i]
    | none =>
      if streamOver r ∨ r.ending.isSome then [indexEvent .streamEnd 0]
      else if Config.starveClk ≤ r.idle then [indexEvent .streamWatchdog 0]
      else []
  | none =>
    match wantedGraph s with
    | none => []
    | some g => if isResident s g ∧ ¬ floadFirst s then [indexEvent .streamStart 0] else [indexEvent .graphLoad 0]

/-- The helper's next word (R254). -/
def helperEvents (s : State) : List Event :=
  if ¬ helperLive s then []
  else
    match helperFetch s with
    | .ok w _ => match decodeHelper w with | .ok i => [⟨i, Input.none⟩] | .error _ => []
    | _ => []

/-- The next words of the live instances (R260). -/
def collEvents (s : State) : List Event :=
  s.coll.live.filterMap fun x => match nextWord s x with | .ok i => some (indexEvent i x.id) | .error _ => none

/-- What the reshards can do (R90, R266): one of the pieces that have not landed is looked at in turn. -/
def reshardEvents (s : State) : List Event :=
  s.reshards.filterMap fun r =>
    match r.todo[s.clk % r.todo.length]? with
    | some p => some ⟨.reshardPieceLand, { Input.none with index := r.tensor, index2 := p }⟩
    | none => if allDone s r then some (indexEvent .reshardReplace r.tensor) else none

/-- The ordered accesses that can be performed (R296). -/
def orderedEvents (s : State) : List Event :=
  (if s.ordered.held.any (seqReady s) then [indexEvent .sequencedPerform 0] else [])
    ++ (if s.ordered.held.any (batchReady s) then [indexEvent .batchedPerform 0] else [])

/-- The matrix array (R181, R216). -/
def matrixEvents (s : State) : List Event :=
  (if leaseDue s then [indexEvent .leaseGrant 0] else []) ++ (if slotDue s then [indexEvent .slotBoundary 0] else [])

/-- Block fills (R71). -/
def blockEvents (s : State) : List Event :=
  (s.memory.blocks.filter fun b => b.open_ ∧ blockArrived s b).map fun b => indexEvent .blockFillEnd b.id

/-- The end of the task in focus (R63, R64). -/
def taskEvents (s : State) : List Event :=
  if retireDue s then [indexEvent .taskRetire s.core.toNat]
  else if s.status = .tailed ∧ ((ownTracked s).any (trackedDone s) ∨ ((ownTracked s).isEmpty ∧ writesDone s)) then
    [indexEvent .tailTrackerDrain s.core.toNat]
  else []

/-- Requests that are due to be sent again or given up (R354). -/
def requestEvents (s : State) : List Event :=
  s.memory.reqs.filterMap fun r =>
    if ¬ r.sent then none
    else if r.sends < 8 then if r.at_ + 20000 ≤ s.device.time then some (indexEvent .requestResend r.id) else none
    else if r.at_ + 100000 ≤ s.device.time then some (indexEvent .requestGiveUp r.id) else none

/-- Time limits of the fabric and of group rounds that have passed (R284, R287, R355, R358). -/
def limitEvents (s : State) : List Event :=
  (s.coll.live.filterMap fun x => if (lateTransfer s x).isSome then some (indexEvent .collectiveTimeout x.id) else none)
    ++ (s.reshards.filter (lateReshard s)).map (fun r => indexEvent .collectiveTimeout r.id)
    ++ ((List.range 36).filter (heldLong s)).map (indexEvent .packetHoldDiscard)
    ++ (s.fabric.windows.filterMap fun w =>
        if w.own = s.fabric.devid ∧ ¬ w.bits.isEmpty ∧ w.since + 200000 ≤ s.device.time then some (indexEvent .dedupHoleTimeout w.src.toNat) else none)
    ++ (match s.group.round with
        | some r => if r.deadline ≤ s.device.time then [indexEvent .roundTimeout 0] else []
        | none => [])

/-- Every internal event that can happen now; a frozen device has none (R364). -/
def internalEvents (s : State) : List Event :=
  if s.sec.frozen then []
  else
    callerEvents s ++ queueEvents s .l ++ queueEvents s .c ++ queueEvents s .s ++ matrixEvents s
      ++ copyEvents s ++ gridEvents s ++ helperEvents s ++ collEvents s ++ reshardEvents s ++ orderedEvents s
      ++ blockEvents s ++ requestEvents s ++ limitEvents s ++ taskEvents s

/-- The internal event whose turn it is. -/
def nextInternal (s : State) : Option Event :=
  let es := internalEvents s
  es[s.turn / 2 % es.length]?

/-! What the engines do between events -/

/-- The helper's fetch asks for its word, or faults, or finds no word of R151 (R254). -/
def settleHelper (s : State) : State :=
  if ¬ helperLive s then s
  else
    match helperFetch s with
    | .ok w _ => match decodeHelper w with | .ok _ => s | .error _ => helperFault s ⟨.undef, 0, 0⟩
    | .wait s => s
    | .trap t => helperFault s t
    | .fail t s => helperFault s t

/-- An instance whose word is none of R150 faults; one with transfers left moves what it can (R260, R261). -/
def settleInstance (s : State) (x : Instance) : State :=
  match nextWord s x with
  | .error t => collFault s x t
  | .ok _ => if x.pend.isEmpty then s else pumpInstance s x

/-- The terms of the Caller have acted at every clk (R257), requests go out, and the helper, the instances and the reshards go on as
far as they can without an event. -/
def settle (s : State) : State :=
  let s := sendMessages (sendRequests (callerClks (s.caller.pulses.length + 1) s))
  let s := settleHelper s
  s.reshards.foldl pumpReshard (s.coll.live.foldl settleInstance s)

end Sys2Proof.Machine
end

