-- ==== Sys2Proof/Machine/Step.lean ====
section
/-! DEFINITION. One step of the machine: time passes, then one event of the schedule, one internal event, or one
instruction of the task in focus happens. -/

namespace Sys2Proof.Machine

/-- The sequencer runs the instruction at the pc: a fetch fault or an illegal encoding traps (R135, R149). A queue's halt that is due
for its report traps first, at the boundary before it (R324). -/
def stepTask (s : State) : Host.Outcome State Fault Refusal :=
  if (reportDue s).isSome then execQfaultReport s
  else match fetchWords s with
  | .trap t => trapNow s t
  | .wait s => hold s
  | .fail t s => .next (s.trapAt t)
  | .ok (w0, w1) s =>
    match decodeWords w0 w1 with
    | .error _ => trapNow s ⟨.undef, 0, 0⟩
    | .ok i => exec i s

/-- The state in which a step happens: time has passed, and the engines have gone on (R9, R310). -/
def ready (s : State) : State := settle (tick s)

/-- The next turn of the schedule. -/
def nextTurn (s : State) : State := { s with turn := s.turn + 1 }

/-- What a step does in that state. -/
@[irreducible] def act (s : State) : Host.Outcome State Fault Refusal :=
  match s.agenda with
  | e :: rest => exec e.row { s with agenda := rest, input := e.input }
  | [] =>
    if s.status = .running ∧ s.turn % 2 = 0 then stepTask (nextTurn s)
    else
      match nextInternal s with
      | some e => exec e.row { nextTurn s with input := e.input }
      | none => if s.status = .running then stepTask (nextTurn s) else .next (nextTurn s)

/-- One step. -/
def step (s : State) : Host.Outcome State Fault Refusal := act (ready s)

/-- A header that declares every resource in full (R43). -/
def fullHeader : Header :=
  { Header.reset with
    ns := 56, nv := 64, nk := 16, nm := 16, scratch := 2 ^ 20, nbar := 512, ntag := 64, ndom := 1,
    lease := 64, tape := 65536 }

/-- The queue without a halt. -/
def QueueState.unhalted (x : QueueState) : QueueState := { x with halt := none }

/-- The state with an instruction's bits stored where the next step fetches: a task runs and has its turn, no queue has halted, the pc's page is
translated, its HBM stacks are ready, nothing else is on its way, and the bytes stand in the snapshot that fetch reads. -/
def State.withFetchWord (s : State) (nbits w : Nat) : State :=
  let pc := s.pc.toNat % 65536
  let bytes := tableBytes nbits w
  { s with
    agenda := []
    mates := []
    turn := 0
    status := .running
    pc := BitVec.ofNat 64 pc
    wait := none
    queues := { s.queues with l := s.queues.l.unhalted, c := s.queues.c.unhalted, s := s.queues.s.unhalted }
    plat := { s.plat with ready := s.plat.ready ||| 0xFFF }
    launch := { s.launch with header := fullHeader, m1 := 1, m2 := 1, m3 := 1, ntask := 1 }
    memory := { s.memory with
      tlb := [⟨s.launch.asn, 0, 65536, 7⟩]
      own := []
      blocks := []
      failed := []
      poison := []
      reqs := []
      home := Mem.writeBytes s.memory.home pc bytes
      snap := Mem.writeBytes s.memory.snap pc bytes } }

end Sys2Proof.Machine
end

