-- ==== Sys2Proof/Safety.lean ====
section
/-! DEFINITION. What every step keeps, and the terms in which the statements speak of an instruction's effect: where it
completes, what it leaves as it was, and what taking a trap leaves. -/

namespace Sys2Proof.Machine

/-- The lists that hold memory are in canonical form. -/
def Memory.wf (m : Memory) : Bool :=
  Mem.wf m.home && Mem.wf m.snap && Mem.wf m.scratch && Mem.wf m.roBase && m.past.all (fun p => Mem.wf p.2)
    && Overlay.wf m.own && Overlay.wf m.staging && Overlay.wf m.wrote && Overlay.wf m.roOwn && Overlay.wf m.peerSnap
    && Overlay.wf m.peerImm && Overlay.wf m.cached

/-- The instruction completes from this state: it answers a next state, which has the property. -/
def Completes (i : Instr) (s : State) (P : State → Prop) : Prop := ∃ t, exec i s = .next t ∧ P t

/-- The frame of an instruction of the sequencer that touches scalar registers alone: the pc, the scalar registers of the
current trap level and the instruction count may differ, and no wait goes on; all else is as before. -/
def SeqKept (s t : State) : Prop :=
  t = { s with
    regs := t.regs, trap := { s.trap with banks := t.trap.banks }, pc := t.pc, isn := s.isn + 1, wait := none,
    waitClk := 0 }
  ∧ ∀ j : Nat, j / 4 ≠ s.trap.tl.val → t.trap.banks[j]? = s.trap.banks[j]?

/-- One scalar register has its new value, where it is not s0; the others keep theirs; execution goes on at `pc`. -/
def ScalarResult (s t : State) (d : Reg) (v : Word) (pc : Word) : Prop :=
  (∀ r : Reg, t.getReg r = if r = d ∧ r ≠ 0 then v else s.getReg r) ∧ t.pc = pc ∧ SeqKept s t

/-- No scalar register changes; execution goes on at `pc`. -/
def NoResult (s t : State) (pc : Word) : Prop := (∀ r : Reg, t.getReg r = s.getReg r) ∧ t.pc = pc ∧ SeqKept s t

/-- A trap of this context does not kill it (R174). -/
def CanTrap (s : State) : Prop := s.trap.tl.val < 2 ∧ s.trap.tvec ≠ 0

/-- What taking a trap leaves (R174): the next level with its saved registers, and the handler's address; all else is as
before, but for reads given up and the wait. -/
def TookTrap (s t : State) (cause : Byte) (pc va : Word) (sts : BitVec 22) (mark : Option Wait) : Prop :=
  t.trap.tl.val = s.trap.tl.val + 1
  ∧ t.pc = s.trap.tvec + BitVec.ofNat 64 (0x100 * s.trap.tl.val)
  ∧ (if s.trap.tl = 0 then t.trap.l1 = ⟨pc, cause, va, sts, mark⟩ ∧ t.trap.l2 = s.trap.l2
     else t.trap.l2 = ⟨pc, cause, va, sts, mark⟩ ∧ t.trap.l1 = s.trap.l1)
  ∧ t = { s with
      trap := { s.trap with tl := t.trap.tl, l1 := t.trap.l1, l2 := t.trap.l2 }, pc := t.pc,
      memory := { s.memory with failed := [] }, wait := none, waitClk := 0 }

/-- The stacks of these locations answer at once: each is ready and none has failed (R311, R368). -/
def StacksReady (s : State) (locs : List Nat) : Prop := s.stackWaits locs = false ∧ ∀ l ∈ locs, s.stackFailed l = false

/-- Bytes have been installed at local homes: beside the homes only the versions that they had, the lines' counts and poison differ
(R91, R100, R166, R337), and the counter of open values where a packed block is packed again (R85). -/
def Installed (s u : State) : Prop :=
  u = { s with free := u.free, memory := { s.memory with
    home := u.memory.home, past := u.memory.past, counts := u.memory.counts, poison := u.memory.poison } }

/-- The task's own values have changed (R94, R95). -/
def OwnWritten (s u : State) : Prop :=
  u = { s with memory := { s.memory with own := u.memory.own, wrote := u.memory.wrote } }

/-- The own writes that stay pending when a snapshot opens (R94): what is on its way to another device's home, and else what is
staged. -/
def PendingOwn (s : State) (own : Overlay) : Prop :=
  (s.inFlight = [] → own = s.memory.staging)
  ∧ (s.memory.wf = true → ∀ l, Overlay.get? own l
      = if l ∈ s.inFlight then Overlay.get? s.memory.own l else Overlay.get? s.memory.staging l)

/-- A snapshot of the homes has opened, and nothing else differs (R71, R94, R100, R179): own pending writes stay, what was fetched
for the last snapshot is gone, and the L1 keeps the blocks whose fill is outstanding, stale after an acquire. -/
def Opened (s t : State) (acquire : Bool) : Prop :=
  PendingOwn s t.memory.own
  ∧ t = { s with memory := { s.memory with
      snap := s.memory.home, own := t.memory.own, engDone := [], peerSnap := [], openTime := s.device.time, acquired := [], descs := []
      l1 := s.memory.l1.filter fun i => s.memory.blocks.any fun b => b.open_ && decide (i = .block b.id)
      blocks := (s.memory.blocks.filter fun b => b.open_).map fun b => if acquire then { b with stale := true } else b } }

/-- A record is made (R360, R361): it is written at the log's write index, with its kind at byte 32, while the log is enabled and has
room and the security processor runs; else no byte of memory changes. -/
def Logged (s u : State) (kind : Nat) : Prop :=
  (∃ v, Installed s v ∧ u = { v with log := u.log, free := u.free, plat := { s.plat with msix := u.plat.msix } })
  ∧ u.log.made = s.log.made + 1
  ∧ (let at_ := s.log.base * 4096 + s.log.widx.toNat % 2 ^ s.log.log2 * 64
     if s.log.en = true ∧ (s.log.widx - s.log.ridx).toNat < 2 ^ s.log.log2 ∧ s.plat.error.getLsbD 57 = false then
       u.log.widx = s.log.widx + 1 ∧ (Mem.wf s.memory.home = true → at_ + 64 ≤ 2 ^ 48 → s.stackFailed at_ = false →
         Mem.read u.memory.home (at_ + 32) = BitVec.ofNat 8 kind)
     else u.memory = s.memory ∧ u.log.widx = s.log.widx)

/-- The instruction takes a precise trap (R321, R322): TPC is its own address, TSTS names the cause, its detail and no
queue. -/
def Traps (i : Instr) (s : State) (c : Cause) (detail : Nat) (va : Word) : Prop :=
  Completes i s fun t =>
    TookTrap s t c.code s.pc va (BitVec.ofNat 22 (c.code.toNat + 0x100 * detail + 0x3000)) none

/-- An ALU row writes the result that its rule relates to the operands at width 64, or at width 32 sign-extended, and
nothing else (R153, R154). -/
def AluRow (row : RegOp → Instr) (rule : (w : Nat) → (a b d r : BitVec w) → Prop) : Prop :=
  ∀ (o : RegOp) (s : State), s.regsOk [o.d, o.a, o.b] = true →
    (o.w32 = false → Completes (row o) s fun t => ∃ r : Word,
      rule 64 (s.getReg o.a) (s.getReg o.b) (s.getReg o.d) r ∧ ScalarResult s t o.d r (s.pc + 4))
    ∧ (o.w32 = true → Completes (row o) s fun t => ∃ r : BitVec 32,
      rule 32 ((s.getReg o.a).setWidth 32) ((s.getReg o.b).setWidth 32) ((s.getReg o.d).setWidth 32) r
      ∧ ScalarResult s t o.d (r.signExtend 64) (s.pc + 4))

/-- R154: the sums, the logical operations and the products, at both widths. -/
def AluArithmetic : Prop :=
  AluRow .add (fun w a b _ r => r.toNat = (a.toNat + b.toNat) % 2 ^ w)
  ∧ AluRow .sub (fun w a b _ r => (r.toNat + b.toNat) % 2 ^ w = a.toNat)
  ∧ AluRow .and (fun w a b _ r => ∀ i < w, r.getLsbD i = (a.getLsbD i && b.getLsbD i))
  ∧ AluRow .or (fun w a b _ r => ∀ i < w, r.getLsbD i = (a.getLsbD i || b.getLsbD i))
  ∧ AluRow .xor (fun w a b _ r => ∀ i < w, r.getLsbD i = (a.getLsbD i != b.getLsbD i))
  ∧ AluRow .andn (fun w a b _ r => ∀ i < w, r.getLsbD i = (a.getLsbD i && !b.getLsbD i))
  ∧ AluRow .sel (fun w a b d r => ∀ i < w, r.getLsbD i = (if d.getLsbD i then a.getLsbD i else b.getLsbD i))
  ∧ AluRow .mul (fun w a b _ r => r = (a.setWidth (2 * w) * b.setWidth (2 * w)).setWidth w)
  ∧ AluRow .mulh (fun w a b _ r => r = (a.signExtend (2 * w) * b.signExtend (2 * w)).extractLsb' w w)
  ∧ AluRow .mulhn (fun w a b _ r => r = (a.setWidth (2 * w) * b.setWidth (2 * w)).extractLsb' w w)

/-- R154: the shifts and rotations by B mod W, the fields, and the byte reversal, bit by bit. -/
def AluShifts : Prop :=
  AluRow .sll (fun w a b _ r => ∀ i < w, r.getLsbD i = (decide (b.toNat % w ≤ i) && a.getLsbD (i - b.toNat % w)))
  ∧ AluRow .srl (fun w a b _ r => ∀ i < w, r.getLsbD i = a.getLsbD (i + b.toNat % w))
  ∧ AluRow .sra (fun w a b _ r => ∀ i < w,
      r.getLsbD i = (if i + b.toNat % w < w then a.getLsbD (i + b.toNat % w) else a.getLsbD (w - 1)))
  ∧ AluRow .rol (fun w a b _ r => ∀ i < w, r.getLsbD ((i + b.toNat) % w) = a.getLsbD i)
  ∧ AluRow .ror (fun w a b _ r => ∀ i < w, r.getLsbD i = a.getLsbD ((i + b.toNat) % w))
  ∧ AluRow .ext (fun w a b _ r => ∀ i < w,
      r.getLsbD i = (decide (i ≤ b.toNat / 256 % 64) && a.getLsbD (i + b.toNat % 64)))
  ∧ AluRow .ins (fun w a b d r => ∀ i < w,
      r.getLsbD i = (if b.toNat % 64 ≤ i ∧ i ≤ b.toNat % 64 + b.toNat / 256 % 64
        then a.getLsbD (i - b.toNat % 64) else d.getLsbD i))
  ∧ AluRow .bswp (fun w a _ _ r => ∀ i < w, r.getLsbD i = a.getLsbD (w - 8 - i / 8 * 8 + i % 8))

/-- R154: minimum, maximum and comparison by value, and the counts of bits. -/
def AluComparesAndCounts : Prop :=
  AluRow .min (fun _ a b _ r => r.toInt = Min.min a.toInt b.toInt)
  ∧ AluRow .max (fun _ a b _ r => r.toInt = Max.max a.toInt b.toInt)
  ∧ AluRow .minn (fun _ a b _ r => r.toNat = Min.min a.toNat b.toNat)
  ∧ AluRow .maxn (fun _ a b _ r => r.toNat = Max.max a.toNat b.toNat)
  ∧ AluRow .slt (fun _ a b _ r => r.toNat = if a.toInt < b.toInt then 1 else 0)
  ∧ AluRow .sltn (fun _ a b _ r => r.toNat = if a.toNat < b.toNat then 1 else 0)
  ∧ AluRow .seq (fun _ a b _ r => r.toNat = if a = b then 1 else 0)
  ∧ AluRow .clz (fun w a _ _ r => r.toNat ≤ w ∧ (∀ i < w, w ≤ i + r.toNat → a.getLsbD i = false)
      ∧ (r.toNat < w → a.getLsbD (w - 1 - r.toNat) = true))
  ∧ AluRow .ctz (fun w a _ _ r => r.toNat ≤ w ∧ (∀ i < r.toNat, a.getLsbD i = false)
      ∧ (r.toNat < w → a.getLsbD r.toNat = true))
  ∧ AluRow .popc (fun w a _ _ r => r.toNat = ((List.range w).filter fun i => a.getLsbD i).length)

/-- A division row completes with the rule's result where it does not trap. -/
def DivRow (row : RegOp → Instr) (rule : (w : Nat) → (a b r : BitVec w) → Prop) : Prop :=
  ∀ (o : RegOp) (s : State), s.regsOk [o.d, o.a, o.b] = true →
    (o.w32 = false → (s.trap.trapen = true → s.getReg o.b ≠ 0) → Completes (row o) s fun t => ∃ r : Word,
      rule 64 (s.getReg o.a) (s.getReg o.b) r ∧ ScalarResult s t o.d r (s.pc + 4))
    ∧ (o.w32 = true → (s.trap.trapen = true → (s.getReg o.b).setWidth 32 ≠ 0#32) → Completes (row o) s fun t =>
      ∃ r : BitVec 32, rule 32 ((s.getReg o.a).setWidth 32) ((s.getReg o.b).setWidth 32) r
        ∧ ScalarResult s t o.d (r.signExtend 64) (s.pc + 4))

/-- R155: quotients and remainders; a zero divisor without the trap gives all ones and the dividend; the most negative number
by −1 gives itself and remainder 0. -/
def DivisionResults : Prop :=
  DivRow .div (fun w a b r =>
    if b = 0 then r = BitVec.allOnes w
    else if a = BitVec.intMin w ∧ b = BitVec.allOnes w then r = BitVec.intMin w
    else r.toInt = a.toInt.tdiv b.toInt)
  ∧ DivRow .divn (fun w a b r => if b = 0 then r = BitVec.allOnes w else r.toNat = a.toNat / b.toNat)
  ∧ DivRow .rem (fun w a b r =>
    if b = 0 then r = a
    else if a = BitVec.intMin w ∧ b = BitVec.allOnes w then r = 0#w
    else r.toInt = a.toInt - a.toInt.tdiv b.toInt * b.toInt)
  ∧ DivRow .remn (fun _ a b r => if b = 0 then r = a else r.toNat = a.toNat - a.toNat / b.toNat * b.toNat)

/-- R155: with TRAPEN.IDZ set, a zero divisor at the operation's width traps IDIVZ, and no register changes. -/
def DivisionTraps : Prop :=
  ∀ row ∈ [Instr.div, .divn, .rem, .remn], ∀ (o : RegOp) (s : State), s.regsOk [o.d, o.a, o.b] = true → CanTrap s →
    s.trap.trapen = true → (if o.w32 then (s.getReg o.b).setWidth 32 = 0#32 else s.getReg o.b = 0) →
    Traps (row o) s .idivz 0 0

/-- R154: the unary rows admit no second operand. -/
def UnaryRows : Prop := ∀ row ∈ [Instr.clz, .ctz, .popc, .bswp], ∀ o : RegOp, (row o).wf = true ↔ o.b = 0

/-- An immediate row writes the rule's value of s[a] and SExt(imm14, 64). -/
def ImmRow (row : ImmOp → Instr) (f : Word → Word → Word) : Prop :=
  ∀ (o : ImmOp) (s : State), s.regsOk [o.d, o.a] = true →
    Completes (row o) s fun t => ScalarResult s t o.d (f (s.getReg o.a) (o.imm.signExtend 64)) (s.pc + 4)

/-- A branch row goes to PC + 4 × SExt(off14, 64) exactly when its comparison holds, and changes nothing else. -/
def BranchRow (row : BranchOp → Instr) (holds : Word → Word → Prop) : Prop :=
  ∀ (o : BranchOp) (s : State), s.regsOk [o.a, o.b] = true →
    (holds (s.getReg o.a) (s.getReg o.b) →
      Completes (row o) s fun t => NoResult s t (s.pc + BitVec.ofInt 64 (4 * o.off.toInt)))
    ∧ (¬ holds (s.getReg o.a) (s.getReg o.b) → Completes (row o) s fun t => NoResult s t (s.pc + 4))

/-- A fetch that faults traps at the pc that it fetches from, with a record where it consumed an uncorrectable error (R135, R158,
R346). -/
def FetchFaultsTrapAtTheirPc : Prop :=
  ∀ (s r n : State) (t : Trap), r = ready s → r.agenda = [] → r.status = .running → (r.turn % 2 = 0 ∨ nextInternal r = none) →
    n = { r with turn := r.turn + 1 } → reportDue n = none → fetchWords n = .trap t → t.detail < 16 → CanTrap n →
    ∃ v u, (if t.cause = .eccunc then Logged n v 0x11 else v = n) ∧ step s = .next u
      ∧ TookTrap v u t.cause.code n.pc t.va (BitVec.ofNat 22 (t.cause.code.toNat + 0x100 * t.detail + 0x3000)) none

/-- Only what a translated access leaves differs: TLB entries, pages in use, migration counts and the frames known to be packed (R81,
R82, R84). -/
def MemNoted (s u : State) : Prop :=
  u = { s with
    memory := { s.memory with
      tlb := u.memory.tlb, tlbClu := u.memory.tlbClu, tlbDie := u.memory.tlbDie, vaPages := u.memory.vaPages }
    device := { s.device with
      migCount := u.device.migCount, migDue := u.device.migDue, packed := u.device.packed } }

/-- Only what a plain read leaves in the L1 differs (R69, R71): whole blocks may have gone. -/
def Touched (s u : State) : Prop :=
  u = { s with memory := { s.memory with l1 := u.memory.l1, blocks := u.memory.blocks } }
  ∧ ∀ b ∈ u.memory.blocks, b ∈ s.memory.blocks

/-- Nothing keeps a read of these local locations from being answered at once: no given-up read, no stack that is not ready
or has failed, no poison. -/
def ReadsAtOnce (s : State) (vas locs : List Nat) : Prop :=
  (∀ l ∈ locs, l < 2 ^ 48) ∧ s.failedRead vas locs = none ∧ s.stackWaits locs = false ∧ s.poisonTrap vas locs = none

/-- Where the scratchpad that an address names begins: the task's own, or that of a rank of its level-1 domain (R66). -/
def scratchBase (s : State) (a : Nat) : Option Nat :=
  if a < 2 ^ 20 then some (s.launch.task % s.launch.m1 * 2 ^ 20)
  else if 2 ^ 23 ≤ a ∧ a < 2 ^ 23 + 2 ^ 22 ∧ (a - 2 ^ 23) / 2 ^ 20 < s.launch.m1 then some ((a - 2 ^ 23) / 2 ^ 20 * 2 ^ 20)
  else none

/-- An access of n bytes at a scratchpad address meets no bound and no poisoned bank word; its first byte stands at `k`. -/
def ScratchOk (s : State) (a n k : Nat) : Prop :=
  0 < n ∧ a % 2 ^ 20 + n ≤ s.launch.header.scratch ∧ (scratchBase s a).map (· + a % 2 ^ 20) = some k
  ∧ ∀ i < n, (k + i) / 64 * 64 ∉ s.memory.scrPoison

/-- A loaded value: n bytes, lowest first, then copies of the sign or zeros (R159). -/
def LoadedValue (v : Word) (bs : List Byte) (signed : Bool) : Prop :=
  (∀ i < bs.length, v.extractLsb' (8 * i) 8 = bs.getD i 0)
  ∧ ∀ j < 64, 8 * bs.length ≤ j → v.getLsbD j = (signed && v.getLsbD (8 * bs.length - 1))

/-- The bytes of a load have reached its destination: one register, or with size q the pair (R159). -/
def LoadResult (s t : State) (o : MemOp) (signed : Bool) (bs : List Byte) : Prop :=
  if o.size = .q then
    (∃ lo hi : Word, LoadedValue lo (bs.take 8) false ∧ LoadedValue hi (bs.drop 8) false
      ∧ ∀ r : Reg, t.getReg r =
        if r = 0 then 0 else if r = o.d + 1 then hi else if r = o.d then lo else s.getReg r)
    ∧ t.pc = s.pc + 4 ∧ SeqKept s t
  else ∃ v : Word, LoadedValue v bs signed ∧ ScalarResult s t o.d v (s.pc + 4)

/-- R66, R159: a load from scratchpad delivers the bytes that stand there; memory is as before. -/
def LoadFromScratchpad : Prop :=
  ∀ row ∈ [(Instr.ld, true), (Instr.ldn, false)], ∀ (o : MemOp) (s : State) (k : Nat),
    s.regsOk (memRegs o) = true → o.place = .scratch →
    ScratchOk s ((s.getReg o.base + BitVec.ofNat 64 (o.off.toNat * o.size.bytes)).toNat % 2 ^ 32) o.size.bytes k →
    Completes (row.1 o) s fun t =>
      LoadResult s t o row.2 ((List.range o.size.bytes).map fun i => Mem.read s.memory.scratch (k + i))

/-- The addresses of a global scalar access. -/
def globalVas (o : MemOp) (s : State) : List Nat :=
  (List.range o.size.bytes).map ((s.getReg o.base + BitVec.ofNat 64 (o.off.toNat * o.size.bytes)).toNat + ·)

/-- The checks of a global scalar access are passed, and its bytes stand at these locations (R80, R159). -/
def GlobalOk (o : MemOp) (s : State) (k : Access) (locs : List Nat) : Prop :=
  let ea := (s.getReg o.base + BitVec.ofNat 64 (o.off.toNat * o.size.bytes)).toNat
  s.regsOk (memRegs o) = true ∧ o.place ≠ .scratch ∧ ea < 2 ^ 52 ∧ (o.ord ≠ .plain → ea % o.size.bytes = 0)
  ∧ s.locsOf k false (o.ord = .plain) (globalVas o s) = .ok locs

/-- The bytes that a store writes: s[d], with size q then s[d+1] (R159). -/
def StoredBytes (o : MemOp) (s : State) (bs : List Byte) : Prop :=
  bs.length = o.size.bytes ∧ ∀ i < o.size.bytes,
    bs.getD i 0 = (if i < 8 then s.getReg o.d else s.getReg (o.d + 1)).extractLsb' (8 * (i % 8)) 8

/-- A byte memory after bytes were written at these locations: each holds its byte, every other as before. -/
def WroteBytes (m m' : Nat → Byte) (locs : List Nat) (bs : List Byte) : Prop :=
  (∀ i < locs.length, m' (locs.getD i 0) = bs.getD i 0) ∧ ∀ l, l ∉ locs → m' l = m l

/-- R66, R159: a store to scratchpad writes its bytes there; every other byte of every memory and every register is as
before. -/
def StoreToScratchpad : Prop :=
  ∀ (o : MemOp) (s : State) (k : Nat), s.regsOk (memRegs o) = true → o.place = .scratch →
    Mem.wf s.memory.scratch = true →
    ScratchOk s ((s.getReg o.base + BitVec.ofNat 64 (o.off.toNat * o.size.bytes)).toNat % 2 ^ 32) o.size.bytes k →
    Completes (.st o) s fun t => ∃ bs u, StoredBytes o s bs
      ∧ WroteBytes (Mem.read s.memory.scratch) (Mem.read u.memory.scratch)
          ((List.range o.size.bytes).map (k + ·)) bs
      ∧ u = { s with memory := { s.memory with scratch := u.memory.scratch, scrPoison := u.memory.scrPoison } }
      ∧ NoResult u t (s.pc + 4)

/-- R60, R94, R101, R159: a plain store outside tail mode is staged, where the task alone sees it, and no home changes; an
immediate store (and a plain store in tail mode, R64) is at its home at once. -/
def StoreToGlobalMemory : Prop :=
  ∀ (o : MemOp) (s : State) (locs : List Nat), GlobalOk o s .store locs → locs.Nodup → (∀ l ∈ locs, l < 2 ^ 48) →
    s.memory.wf = true →
    (o.ord = .plain → s.launch.header.tailm = false → s.stagingFull locs = false →
      Completes (.st o) s fun t => ∃ bs u v, StoredBytes o s bs ∧ MemNoted s u
        ∧ (∀ i < locs.length, Overlay.get? v.memory.staging (locs.getD i 0) = some (bs.getD i 0)
            ∧ Overlay.get? v.memory.own (locs.getD i 0) = some (bs.getD i 0))
        ∧ (∀ l, l ∉ locs → Overlay.get? v.memory.staging l = Overlay.get? s.memory.staging l
            ∧ Overlay.get? v.memory.own l = Overlay.get? s.memory.own l)
        ∧ OwnWritten { u with memory := { u.memory with staging := v.memory.staging } } v
        ∧ NoResult v t (s.pc + 4))
    ∧ (o.ord = .imm ∨ o.ord = .acq ∨ (o.ord = .plain ∧ s.launch.header.tailm = true) → StacksReady s locs →
      Completes (.st o) s fun t => ∃ bs u v, StoredBytes o s bs ∧ MemNoted s u
        ∧ WroteBytes (Mem.read s.memory.home) (Mem.read v.memory.home) locs bs
        ∧ (∀ i < locs.length, Overlay.get? v.memory.own (locs.getD i 0) = some (bs.getD i 0))
        ∧ (∀ l, l ∉ locs → Overlay.get? v.memory.own l = Overlay.get? s.memory.own l)
        ∧ (∃ w, Installed { u with seen := v.seen, revocable := false } w ∧ OwnWritten w v)
        ∧ NoResult v t (s.pc + 4))

/-- R99, R102: a release store, with nothing on its way to another device, first commits the whole staging, then writes: its
bytes are at their homes, and so is every byte that was staged. -/
def ReleaseStorePublishesFirst : Prop :=
  ∀ (o : MemOp) (s : State) (locs : List Nat), GlobalOk o s .store locs → o.ord = .rel → locs.Nodup →
    (∀ l ∈ locs, l < 2 ^ 48) → (∀ c ∈ s.memory.staging, c.1 < 2 ^ 48) → s.memory.wf = true → s.wait = none →
    StacksReady s (locs ++ s.memory.staging.map fun c => c.1) → s.memory.stagingBad = false → s.memory.uncertain = [] →
    s.memory.reqs = [] →
    Completes (.st o) s fun t => ∃ bs, StoredBytes o s bs
      ∧ (∀ i < locs.length, Mem.read t.memory.home (locs.getD i 0) = bs.getD i 0)
      ∧ (∀ l, l ∉ locs → Mem.read t.memory.home l
          = (Overlay.get? s.memory.staging l).getD (Mem.read s.memory.home l))
      ∧ t.memory.staging = [] ∧ t.memory.snap = s.memory.snap ∧ t.memory.scratch = s.memory.scratch
      ∧ (∀ r : Reg, t.getReg r = s.getReg r) ∧ t.pc = s.pc + 4

/-- R161: the new value of an atomic at width W, from the old value, s[d] and s[b]. -/
def atomRule (fn : Nat) (w : Nat) (x v cmp new : BitVec w) : Prop :=
  match fn with
  | 0 => new.toNat = (x.toNat + v.toNat) % 2 ^ w
  | 1 => (new.toNat + v.toNat) % 2 ^ w = x.toNat
  | 2 => ∀ i < w, new.getLsbD i = (x.getLsbD i && v.getLsbD i)
  | 3 => ∀ i < w, new.getLsbD i = (x.getLsbD i || v.getLsbD i)
  | 4 => ∀ i < w, new.getLsbD i = (x.getLsbD i != v.getLsbD i)
  | 5 => new.toInt = min x.toInt v.toInt
  | 6 => new.toInt = max x.toInt v.toInt
  | 7 => new.toNat = min x.toNat v.toNat
  | 8 => new.toNat = max x.toNat v.toNat
  | 9 => new = v
  | 10 => new = if x = cmp then v else x
  | 11 => new.toNat = if v.toNat ≤ x.toNat then 0 else x.toNat + 1
  | _ => new.toNat = if x.toNat = 0 ∨ v.toNat < x.toNat then v.toNat else x.toNat - 1

/-- R161: the new f32 code of AFADD, AFMIN and AFMAX: a NaN operand or result gives Canon, and the minimum and the maximum
are one of the operands, with −0 below +0. -/
def floatAtomRule (fn : Nat) (x v new : BitVec 32) : Prop :=
  let a := unpackFloat .f32 x.toNat
  let b := unpackFloat .f32 v.toNat
  (a = .nan ∨ b = .nan → new.toNat = canonNaN .f32)
  ∧ (a ≠ .nan → b ≠ .nan →
      match fn with
      | 13 => new = BitVec.ofNat 32 (roundF32 (fAdd a b).1)
      | 14 => (new = x ∨ new = v) ∧ fLess a (unpackFloat .f32 new.toNat) = false
          ∧ fLess b (unpackFloat .f32 new.toNat) = false
      | _ => (new = x ∨ new = v) ∧ fLess (unpackFloat .f32 new.toNat) a = false
          ∧ fLess (unpackFloat .f32 new.toNat) b = false)

/-- The value that stands in n bytes of a memory from a location. -/
def wordAt (m : Mem) (l n : Nat) : Nat := bytesToNat (Mem.readBytes m l n)

/-- What an atomic of n bytes leaves: the new value where the old one stood, the old value in a new entry of the return
queue unless `.nr` (R51, R160), and the next word; no other byte, no register and nothing else changes, but for what the access
itself leaves (R81, R82, R94, R166). -/
def AtomResult (s t : State) (o : AtomOp) (m m' : Mem) (l n : Nat) (new : Nat) (old : Word) : Prop :=
  wordAt m' l n = new ∧ (∀ a, a < l ∨ l + n ≤ a → Mem.read m' a = Mem.read m a)
  ∧ ∃ u : State, NoResult u t (s.pc + 4)
    ∧ u.ret = (if o.nr then s.ret else s.ret ++ [⟨s.nextRet, false, some (.scalar old), none, none⟩])
    ∧ (∀ a, a < l ∨ l + n ≤ a → Overlay.get? u.memory.own a = Overlay.get? s.memory.own a)
    ∧ ∃ v w x : State, MemNoted s v ∧ Installed { v with
        ret := u.ret, nextRet := u.nextRet, seen := u.seen, revocable := u.revocable } w ∧ OwnWritten w x
      ∧ u = { x with memory := { x.memory with scratch := u.memory.scratch, scrPoison := u.memory.scrPoison } }

/-- An atomic has its place in the return queue (R51): it needs none, or an entry is free and no entry has the next number. -/
def HasReturn (s : State) (o : AtomOp) : Prop :=
  o.nr = true ∨ (s.ret.length < 32 ∧ ∀ e ∈ s.ret, e.id ≠ s.nextRet)

/-- One row of ATOM, in scratchpad and at a local home, at both widths (R160 to R162). -/
def AtomRow (row : AtomOp → Instr) (form : AtomOp → Prop) (rule : (w : Nat) → (x v cmp new : BitVec w) → Prop) : Prop :=
  ∀ (o : AtomOp) (s : State) (n w : Nat), form o → s.regsOk [o.d, o.a, o.b] = true → HasReturn s o → s.memory.wf = true →
    n = (if o.w32 then 4 else 8) → w = 8 * n → (s.launch.det = true → o.nr = true) →
    (o.scratch = true → ∀ k, (s.getReg o.a).toNat % n = 0 → ScratchOk s ((s.getReg o.a).toNat % 2 ^ 32) n k →
      Completes (row o) s fun t => ∃ x new : BitVec w, x.toNat = wordAt s.memory.scratch k n
        ∧ rule w x ((s.getReg o.d).setWidth w) ((s.getReg o.b).setWidth w) new
        ∧ AtomResult s t o s.memory.scratch t.memory.scratch k n new.toNat (x.signExtend 64)
        ∧ t.memory.home = s.memory.home)
    ∧ (o.scratch = false → s.launch.det = false → ∀ l leaf size, (s.getReg o.a).toNat % n = 0 →
      s.leafOf (s.getReg o.a).toNat = .ok (leaf, size) →
      s.locsOf .atomic false false ((List.range n).map ((s.getReg o.a).toNat + ·)) = .ok ((List.range n).map (l + ·)) →
      l + n ≤ 2 ^ 48 → s.stackWaits ((List.range n).map (l + ·)) = false →
      s.poisonTrap ((List.range n).map ((s.getReg o.a).toNat + ·)) ((List.range n).map (l + ·)) = none →
      Completes (row o) s fun t => ∃ x new : BitVec w, x.toNat = wordAt s.memory.home l n
        ∧ rule w x ((s.getReg o.d).setWidth w) ((s.getReg o.b).setWidth w) new
        ∧ AtomResult s t o s.memory.home t.memory.home l n new.toNat (x.signExtend 64)
        ∧ t.memory.scratch = s.memory.scratch)

/-- R160, R161: the integer atomics. -/
def AtomicsUpdateTheirLocation : Prop :=
  ∀ row ∈ [(Instr.aadd, 0), (.asub, 1), (.aand, 2), (.aor, 3), (.axor, 4), (.amin, 5), (.amax, 6), (.aminn, 7), (.amaxn, 8),
      (.aswp, 9), (.acas, 10), (.ainc, 11), (.adec, 12)],
    AtomRow row.1 (fun _ => True) (atomRule row.2)

/-- R161: the float atomics, which work on 32-bit data and set no flag (R153). -/
def FloatAtomicsRoundAtTheHome : Prop :=
  ∀ row ∈ [(Instr.afadd, 13), (.afmin, 14), (.afmax, 15)],
    AtomRow row.1 (fun o => o.w32 = true)
      (fun _ x v _ new => floatAtomRule row.2 (x.setWidth 32) (v.setWidth 32) (new.setWidth 32))

/-- Every L, C and S entry has finished (R97). -/
def QueuesIdle (s : State) : Prop := ∀ q ∈ [Queue.l, .c, .s], (s.queue q).entries = [] ∧ (s.queue q).table = none

/-- Nothing of the task is on its way to another device, and no write was reported lost. -/
def NothingSent (s : State) : Prop := s.memory.reqs = [] ∧ s.memory.uncertain = []

/-- What is staged is whole and has its homes in this device, in stacks that answer. -/
def StagingLocal (s : State) : Prop :=
  (∀ c ∈ s.memory.staging, c.1 < 2 ^ 48) ∧ s.memory.stagingBad = false
  ∧ StacksReady s (s.memory.staging.map fun c => c.1)

/-- Every immediate of the task has performed (R97): none awaits another device, and no ordered access of it is held. -/
def ImmediatesDone (s : State) : Prop :=
  (∀ r ∈ s.memory.reqs, r.owner = .task → State.reqLocs r = []) ∧ ∀ h ∈ s.ordered.held, h.mine = false

/-- Publication (R60, R99): every staged byte is at its home, every other home is as before, and nothing is staged. -/
def Committed (s t : State) : Prop :=
  (∀ l, Mem.read t.memory.home l = (Overlay.get? s.memory.staging l).getD (Mem.read s.memory.home l))
  ∧ t.memory.staging = []

/-- R95, R97, R99, R100: PUB commits the staging and opens no snapshot; OPEN takes the homes as the snapshot and publishes
nothing; ROINV lets the read-only path see what the task sees now, its own writes since its start among it. -/
def PublishAndOpen : Prop :=
  ∀ s : State,
    (∀ sc, StagingLocal s → NothingSent s → s.memory.wf = true → s.wait = none → Completes (.pub sc) s fun t =>
      ∃ u, Committed s u ∧ NoResult u t (s.pc + 4)
        ∧ ∃ v, Installed s v ∧ u = { v with wait := u.wait, memory := { v.memory with staging := [] } })
    ∧ (∀ sc, Completes (.opn sc) s fun t => ∃ u, Opened s u false ∧ NoResult u t (s.pc + 4))
    ∧ Completes .roinv s fun t => NoResult { s with memory := { s.memory with
        roBase := s.memory.snap, roOwn := s.memory.wrote } } t (s.pc + 4)

/-- What the opening of a phase leaves, after the publication and the checkpoint (R62, R100, R106, R164). -/
def PhaseOpened (s u : State) (level : BitVec 2) : Prop :=
  u = { s with
    fpstat := s.fpstat ||| s.fpPend, fpPend := 0, domArr := u.domArr, ckpt := u.ckpt, free := u.free
    revocable := !s.launch.header.tailm, phased := true
    memory := { s.memory with
      home := u.memory.home, snap := u.memory.home, own := [], staging := [], counts := u.memory.counts
      poison := u.memory.poison, past := u.memory.past, engDone := [], peerSnap := [], openTime := s.device.time
      acquired := [], descs := [], cached := if level = 3 then [] else s.memory.cached
      l1 := s.memory.l1.filter fun i => s.memory.blocks.any fun b => b.open_ && decide (i = .block b.id)
      blocks := s.memory.blocks.filter (·.open_) } }

/-- R62, R164: PHASE at a declared level, once the queues and the task's immediates have finished and every other member has arrived,
publishes, opens a snapshot of the homes as they then stand, makes the task revocable again unless it is in tail mode, and under CKPT
takes the checkpoint, which stands in its part of the save area; a level beyond NDOM traps UNDEF. -/
def PhaseEndsAndOpens : Prop :=
  ∀ (level : BitVec 2) (s : State),
    (level.toNat < s.launch.header.ndom → QueuesIdle s → ImmediatesDone s → StagingLocal s → NothingSent s →
      s.memory.wf = true → s.wait = none → s.membAt (level.toNat + 1) ≤ (s.domArr[level.toNat]'level.isLt) + 1 →
      (s.launch.header.ckpt = false → Completes (.phase level) s fun t => ∃ u,
        Committed s u ∧ u.free = s.free ∧ u.ckpt = s.ckpt ∧ PhaseOpened s u level ∧ NoResult u t (s.pc + 4))
      ∧ (s.launch.header.ckpt = true → ∀ locs,
          launchLocs (s.commit (levelScope level)) s.launch .store (checkpointVa s.launch) 4096 = some locs →
          locs.Nodup → (∀ l ∈ locs, l < 2 ^ 48) → StacksReady s locs →
          Completes (.phase level) s fun t => ∃ (u : State) (bs : List Byte), bs.length = 4096
            ∧ WroteBytes (fun l => (Overlay.get? s.memory.staging l).getD (Mem.read s.memory.home l)) (Mem.read u.memory.home)
                locs bs
            ∧ (∃ c, u.ckpt = some c ∧ c.pc = s.pc + 4 ∧ c.kregs = s.kregs ∧ c.mregs = s.mregs ∧ c.rebase = s.rebase
                ∧ c.bars = s.bars ∧ c.isn = s.isn + 1 ∧ c.fpstat = s.fpstat ||| s.fpPend ∧ c.trapen = s.trap.trapen
                ∧ c.ranges = s.matrix.invalid ∧ c.interval = s.ordered.interval
                ∧ ∀ r : Reg, c.regs[r.toNat]'r.isLt = s.getReg r)
            ∧ PhaseOpened s u level ∧ NoResult u t (s.pc + 4)))
    ∧ (s.launch.header.ndom ≤ level.toNat → CanTrap s → s.wait = none → Traps (.phase level) s .undef 3 0)

/-- Only what the wait for an engine's completion brings into the snapshot differs (R109); nothing does when no engine has
written. -/
def EngineSeen (s u : State) : Prop :=
  u = { s with memory := { s.memory with
    snap := u.memory.snap, own := u.memory.own, peerSnap := u.memory.peerSnap, acquired := u.memory.acquired
    engDone := u.memory.engDone } }
  ∧ (s.memory.engDone = [] → u = s)

/-- R165: TWANY ends when a named tag is ready or none is named, TWALL when all named tags are, TFFR writes the lowest ready
named tag or 64; a mask bit at or above NTAG traps TAGBOUND. -/
def TagWaits : Prop :=
  ∀ (a d : Reg) (s : State), s.regsOk [d, a] = true →
    ((∀ i < 64, s.launch.header.ntag ≤ i → (s.getReg a).getLsbD i = false) →
      (s.launch.det = false → (s.getReg a = 0 ∨ s.tags.rdy &&& s.getReg a ≠ 0) →
        Completes (.twany a) s fun t => ∃ u, EngineSeen s u ∧ NoResult u t (s.pc + 4))
      ∧ ((∀ i < 64, (s.getReg a).getLsbD i = true → s.tags.rdy.getLsbD i = true) →
        Completes (.twall a) s fun t => ∃ u, EngineSeen s u ∧ NoResult u t (s.pc + 4))
      ∧ (s.launch.det = false → Completes (.tffr d a) s fun t => ∃ u n, EngineSeen s u
          ∧ ScalarResult u t d (BitVec.ofNat 64 n) (s.pc + 4) ∧ n ≤ 64
          ∧ (∀ i < n, (s.tags.rdy &&& s.getReg a).getLsbD i = false)
          ∧ (n < 64 → (s.tags.rdy &&& s.getReg a).getLsbD n = true)))
    ∧ (∀ i < 64, s.launch.header.ntag ≤ i → (s.getReg a).getLsbD i = true → CanTrap s →
        Traps (.twany a) s .tagbound 0 0 ∧ Traps (.twall a) s .tagbound 0 0 ∧ Traps (.tffr d a) s .tagbound 0 0)

/-- R166, R167: WAITA with no line armed ends with 4 once its deadline has passed or none is set; resumed with its counts, it
ends with the lowest line whose Count has changed, and with none changed and a deadline passed, with 4; WAITT ends once TIME has
come. In a DET launch WAITA traps DETVIOL. -/
def WaitsOnLinesAndTime : Prop :=
  ∀ (d a b : Reg) (s : State), s.regsOk [d, a, a + 1, a + 2, a + 3, b] = true →
    (s.wait = none → s.launch.det = false → (∀ i < 4, s.getReg (a + BitVec.ofNat 6 i) = 0) →
      (s.getReg b).toNat ≤ s.device.time →
      Completes (.waita d a b) s fun t => ScalarResult { s with wake := false } t d 4 (s.pc + 4))
    ∧ (∀ (cs : List (Option Lane32)) (same : Nat → Bool), s.wait = some (.waita cs) → cs.length = 4 →
        (∀ i < 4, same i = true ↔ ∀ c l, cs[i]? = some (some c) → waitaLoc s (s.getReg (a + BitVec.ofNat 6 i)) = .ok l →
          s.lineCount (State.physOf l) = c) →
        (∀ i < 4, same i = false → (∀ j < i, same j = true) →
          Completes (.waita d a b) s fun t => ScalarResult { s with wake := false } t d (BitVec.ofNat 64 i) (s.pc + 4))
        ∧ ((∀ i < 4, same i = true) → s.getReg b ≠ 0 → (s.getReg b).toNat ≤ s.device.time →
          Completes (.waita d a b) s fun t => ScalarResult { s with wake := false } t d 4 (s.pc + 4))
        ∧ ((∀ i < 4, same i = true) → (∃ i < 4, ∃ c, cs[i]? = some (some c)) → s.wake = false → s.getReg b = 0 →
          s.waitClk ≤ 2 ^ 32 → Completes (.waita d a b) s fun t => t.pc = s.pc ∧ t.wait = s.wait))
    ∧ (s.launch.det = true → s.wait = none → CanTrap s → Traps (.waita d a b) s .detviol 1 0)
    ∧ ((s.getReg a).toNat ≤ s.device.time → Completes (.waitt a) s fun t => NoResult s t (s.pc + 4))

/-- R103, R168: DISC on a writable, unpacked page of mode 0 or 4 zeroes the 128-byte line at its home as the task's own write, and
drops what the task had staged there. -/
def DiscardZeroesTheLine : Prop :=
  ∀ (a : Reg) (s : State) (leaf : Word) (size base : Nat), s.regsOk [a] = true → s.memory.wf = true →
    s.leafOf (s.getReg a).toNat = .ok (leaf, size) → leaf.getLsbD 1 = true → leaf.getLsbD 3 = false →
    (leaf.extractLsb' 4 3 = 0 ∨ leaf.extractLsb' 4 3 = 4) → s.fillPending [(s.getReg a).toNat] = false →
    base = ((leaf.extractLsb' 32 32).toNat * 65536 + (s.getReg a).toNat % size) / 128 * 128 → base + 128 ≤ 2 ^ 48 →
    StacksReady s (((leaf.extractLsb' 32 32).toNat * 65536 + (s.getReg a).toNat % size) :: (List.range 128).map (base + ·)) →
    Completes (.disc a) s fun t => ∃ u v, MemNoted s u ∧ NoResult v t (s.pc + 4)
      ∧ (∀ l, Mem.read v.memory.home l = if base ≤ l ∧ l < base + 128 then 0 else Mem.read s.memory.home l)
      ∧ (∀ l, Overlay.get? v.memory.own l = if base ≤ l ∧ l < base + 128 then some 0 else Overlay.get? s.memory.own l)
      ∧ v.memory.staging = s.memory.staging.filter (fun c => ¬ (base ≤ c.1 ∧ c.1 < base + 128))
      ∧ ∃ w, Installed { u with
          seen := v.seen, revocable := false, memory := { u.memory with staging := v.memory.staging } } w ∧ OwnWritten w v

/-- R51, R169: AGETS delivers the value of the oldest entry that no pop has matched, and frees the entry; with no such entry it
traps UNDEF, detail 1. -/
def PopOfTheReturnQueue : Prop :=
  ∀ (d : Reg) (s : State), s.regsOk [d] = true → s.wait = none → s.launch.det = false →
    (∀ (before after : List RetEntry) (e : RetEntry) (v : Word), s.ret = before ++ e :: after →
      (∀ x ∈ before, x.matched = true ∧ x.id ≠ e.id) → (∀ x ∈ after, x.id ≠ e.id) →
      e.matched = false → e.bad = none → e.value = some (.scalar v) →
      Completes (.agets d) s fun t => ScalarResult { s with ret := before ++ after } t d v (s.pc + 4))
    ∧ ((∀ e ∈ s.ret, e.matched = true) → CanTrap s → Traps (.agets d) s .undef 1 0)

/-- An arrival at a barrier (R171). -/
def ArrivedAt (b b' : Barrier) : Prop :=
  if b.count + 1 = b.target then b' = { b with count := 0, gen := b.gen + 1 } else b' = { b with count := b.count + 1 }

/-- Only one named barrier, and pulses that the Caller has not seen yet, differ (R171). -/
def OneBarrier (s u : State) (n : BitVec 9) : Prop :=
  u = { s with bars := u.bars, caller := { s.caller with pulses := u.caller.pulses } }
  ∧ ∀ (m : Nat) (h : m < 512), m ≠ n.toNat → u.bars[m] = s.bars[m]

/-- A generation lies among those that a wait which ends now has waited for: after WATCH, up to GEN (R171, R262). -/
def Passing (b : Barrier) (g : BitVec 16) : Prop := g ≠ b.watch ∧ (g - b.watch).toNat ≤ (b.gen - b.watch).toNat

/-- R171, R172, R262: BARV takes WATCH and arrives without waiting; BAWT ends when GEN has left WATCH; BARW does both when its
arrival completes the generation; BAWT at an unchanged GEN waits, and one that passes a failed generation traps with the engine's
cause. -/
def BarriersCountArrivals : Prop :=
  ∀ (n : BitVec 9) (s : State) (b : Barrier), n.toNat < s.launch.header.nbar → s.bars[n.toNat]'n.isLt = b →
    s.launch.det = false → s.wait = none →
    (Completes (.barv n) s fun t => ∃ u, OneBarrier s u n ∧ ArrivedAt { b with watch := b.gen } (u.bars[n.toNat]'n.isLt)
      ∧ NoResult u t (s.pc + 8))
    ∧ (b.gen ≠ b.watch → (∀ f ∈ b.failed, ¬ Passing b f.1) → Completes (.bawt n) s fun t => ∃ u v, OneBarrier s u n
        ∧ u.bars[n.toNat]'n.isLt = { b with watch := b.gen } ∧ EngineSeen u v ∧ NoResult v t (s.pc + 8))
    ∧ (b.count + 1 = b.target → (∀ f ∈ b.failed, f.1 ≠ b.gen + 1) → Completes (.barw n) s fun t => ∃ u v, OneBarrier s u n
        ∧ u.bars[n.toNat]'n.isLt = { b with count := 0, gen := b.gen + 1, watch := b.gen + 1 } ∧ EngineSeen u v
        ∧ NoResult v t (s.pc + 8))
    ∧ (∀ (g : BitVec 16) (x : Trap) (rest : List (BitVec 16 × Trap)), b.gen ≠ b.watch → b.failed = (g, x) :: rest →
        Passing b g → (∀ f ∈ rest, ¬ Passing b f.1) → x.cause ≠ .eccunc → x.detail < 16 → CanTrap s →
        Completes (.bawt n) s fun t => ∃ u, OneBarrier s u n
          ∧ u.bars[n.toNat]'n.isLt = { b with watch := b.gen, failed := rest }
          ∧ TookTrap u t x.cause.code s.pc x.va (BitVec.ofNat 22 (x.cause.code.toNat + 0x100 * x.detail + 0x3000)) none)
    ∧ (b.gen = b.watch → s.waitClk ≤ 2 ^ 32 → Completes (.bawt n) s fun t => t.pc = s.pc ∧ t.bars = s.bars)

/-- R170, R172, R173: BASET sets TARGET from its field or from s[a], BATST returns the image, BAGRP binds where no other member
has to come, and unbinds at level 0; a target of 0 or beyond 15 bits traps UNDEF, detail 4, and a barrier at or above NBAR traps
BARBOUND. -/
def BarrierSetup : Prop :=
  ∀ (a : Reg) (target : BitVec 15) (n : BitVec 9) (s : State) (b : Barrier) (v : Word), s.regsOk [a] = true →
    s.bars[n.toNat]'n.isLt = b → v = (if a = 0 then target.setWidth 64 else s.getReg a) →
    (n.toNat < s.launch.header.nbar → s.launch.det = false →
      (v ≠ 0 → v.toNat < 2 ^ 15 → Completes (.baset a target n) s fun t => ∃ u, OneBarrier s u n
        ∧ u.bars[n.toNat]'n.isLt = { b with target := v.setWidth 15, count := 0, watch := b.gen } ∧ NoResult u t (s.pc + 8))
      ∧ (v = 0 ∨ 2 ^ 15 ≤ v.toNat → CanTrap s → Traps (.baset a target n) s .undef 4 0)
      ∧ (Completes (.batst a n) s fun t => ∃ w : Word, ScalarResult s t a w (s.pc + 8)
          ∧ w.extractLsb' 0 15 = b.count ∧ w.extractLsb' 15 15 = b.target ∧ w.extractLsb' 30 2 = b.level
          ∧ w.extractLsb' 32 16 = b.gen ∧ w.extractLsb' 48 16 = b.watch)
      ∧ (s.getReg a = 0 → b.level = 0 → Completes (.bagrp a n) s fun t => ∃ u, OneBarrier s u n
          ∧ u.bars[n.toNat]'n.isLt = { b with count := 0, target := 1, level := 0, watch := b.gen }
          ∧ NoResult u t (s.pc + 8))
      ∧ (∀ l : Nat, l ∈ [1, 2, 3] → (s.getReg a).toNat = l → l ≤ s.launch.header.ndom → s.membAt l = 1 →
          Completes (.bagrp a n) s fun t => ∃ u b', OneBarrier s u n ∧ u.bars[n.toNat]'n.isLt = b'
            ∧ b'.count = 0 ∧ b'.target = 1 ∧ b'.level.toNat = l ∧ b'.gen = 0 ∧ b'.watch = 0 ∧ NoResult u t (s.pc + 8)))
    ∧ (s.launch.header.nbar ≤ n.toNat → CanTrap s →
        Traps (.barv n) s .barbound 0 0 ∧ Traps (.bawt n) s .barbound 0 0 ∧ Traps (.barw n) s .barbound 0 0
        ∧ Traps (.baset a target n) s .barbound 0 0 ∧ Traps (.bagrp a n) s .barbound 0 0
        ∧ Traps (.batst a n) s .barbound 0 0)

/-- R174, R175: TRAP and BRK enter the handler of the next level with their code in TSTS; with break enabled BRK halts the task
at its own address instead. -/
def SoftwareTraps : Prop :=
  ∀ (code : BitVec 12) (s : State),
    (CanTrap s → Completes (.trap code) s fun t =>
      TookTrap s t 0x48 s.pc 0 (BitVec.ofNat 22 (code.toNat + 0x3000)) none)
    ∧ (CanTrap s → s.breakOn = false → Completes (.brk code) s fun t =>
      TookTrap s t 0x49 s.pc 0 (BitVec.ofNat 22 (code.toNat + 0x3000)) none)
    ∧ (s.breakOn = true → Completes (.brk code) s fun t => t = { s with status := .debug })

/-- R174, R333: a trap at level 2, or with TVEC 0, kills the context: its sequencer and its helper stop, entries that have not started
are gone, and so is a running table but for its micro-order that has, and its staging is discarded. -/
def ContextIsKilledWithoutAHandler : Prop :=
  ∀ (code : BitVec 12) (s : State), s.trap.tl = 2 ∨ s.trap.tvec = 0 → Completes (.trap code) s fun t =>
    t.status = .killed ∧ t.memory.staging = [] ∧ t.memory.own = [] ∧ t.pc = s.pc ∧ t.trap = s.trap
    ∧ (∃ va sts, t.killed = some (0x48, va, sts))
    ∧ t.helper.running = false
    ∧ ∀ q, (t.queue q).halt = none ∧ (t.queue q).entries.length ≤ 1 ∧ (∀ x, (t.queue q).table = some x → x.stop = true)
      ∧ ∀ e, t.current q = some e → e.stage = .run ∧ s.current q = some e

/-- R174, R175: TRAP and BRK, with a handler and without. -/
def SoftwareTrapsEnterTheHandler : Prop := SoftwareTraps ∧ ContextIsKilledWithoutAHandler

/-- A queue after the return from a level (R326): a halt that was reported there is released, any other stays. -/
def Released (n : Fin 3) (q q' : QueueState) : Prop :=
  if (∃ h, q.halt = some h ∧ h.reported = some n) then q' = { q with halt := none, stall := 0 } else q' = q

/-- What ERET leaves (R175, R326, R371): execution goes on at the level's saved pc one level lower, with the wait that its mark
resumes; the halts reported at the level are released, and all else is as before. -/
def Returned (s t : State) : Prop :=
  let l := if s.trap.tl.val = 1 then s.trap.l1 else s.trap.l2
  t.trap.tl.val + 1 = s.trap.tl.val ∧ t.pc = l.pc ∧ t.wait = l.mark
  ∧ (∀ q, Released s.trap.tl (s.queue q) (t.queue q))
  ∧ t = { s with
      trap := { s.trap with tl := t.trap.tl }, pc := t.pc, isn := s.isn + 1, wait := t.wait, waitClk := 0
      queues := { s.queues with l := t.queues.l, c := t.queues.c, s := t.queues.s } }

/-- R174, R175, R326, R371: ERET at level 1 or 2 returns to the address that the level has saved, one level lower; after a TRAP it
comes back to the TRAP itself at the level where it was taken, with every scalar register as it was; ERET at level 0 traps UNDEF, and
one to an address with [1:0] ≠ 0 traps MISALIGN. -/
def ReturnFromTrap : Prop :=
  ∀ (code : BitVec 12) (s : State),
    (s.trap.tl.val = 1 → s.trap.l1.pc.toNat % 4 = 0 → Completes .eret s fun t => Returned s t)
    ∧ (s.trap.tl.val = 2 → s.trap.l2.pc.toNat % 4 = 0 → Completes .eret s fun t => Returned s t)
    ∧ (CanTrap s → s.pc.toNat % 4 = 0 → Completes (.trap code) s fun t => Completes .eret t fun u =>
      u.pc = s.pc ∧ u.trap.tl = s.trap.tl ∧ u.trap.tvec = s.trap.tvec ∧ u.status = s.status ∧ u.wait = none
      ∧ (∀ r : Reg, u.getReg r = s.getReg r) ∧ u.fpstat = s.fpstat ∧ u.memory.home = s.memory.home
      ∧ u.memory.staging = s.memory.staging)
    ∧ (s.trap.tl = 0 → CanTrap s → Traps .eret s .undef 5 0)
    ∧ (s.trap.tl = 1 → CanTrap s → s.trap.l1.pc.toNat % 4 ≠ 0 → Traps .eret s .misalign 0 s.trap.l1.pc)

/-- R175, R182, R183: SRD delivers the register of each number; FPSTAT holds every ordered flag and none that was never set;
an unknown number traps UNDEF. -/
def SystemRegisterReads : Prop :=
  ∀ (r : Reg) (s : State), s.regsOk [r] = true →
    (∀ p ∈ [((0x000 : BitVec 12), s.tags.rdy), (0x001, s.tags.err), (0x003, if s.trap.trapen then 1 else 0),
        (0x010, BitVec.ofNat 64 s.trap.tl.val), (0x011, s.trap.tvec), (0x012, s.trap.l1.pc), (0x013, s.trap.l2.pc),
        (0x014, s.trap.l1.cause.setWidth 64), (0x015, s.trap.l2.cause.setWidth 64), (0x016, s.trap.l1.va),
        (0x017, s.trap.l2.va), (0x018, s.trap.l1.sts.setWidth 64), (0x019, s.trap.l2.sts.setWidth 64),
        (0x024, BitVec.ofNat 64 s.launch.task), (0x025, BitVec.ofNat 64 s.launch.ntask), (0x026, s.launch.seed),
        (0x027, s.launch.mesh), (0x028, if s.launch.det then 1 else 0), (0x030, BitVec.ofNat 64 s.clk),
        (0x031, BitVec.ofNat 64 s.device.time), (0x043, s.queues.l.qfpc), (0x044, s.queues.c.qfpc),
        (0x045, s.queues.s.qfpc)],
      Completes (.srd r p.1) s fun t => ScalarResult s t r p.2 (s.pc + 4))
    ∧ (Completes (.srd r 0x002) s fun t => ∃ v : BitVec 6, ScalarResult { s with free := s.free + 1 } t r (v.setWidth 64) (s.pc + 4)
        ∧ ∀ i < 6, (s.fpstat.getLsbD i = true → v.getLsbD i = true)
          ∧ (v.getLsbD i = true → (s.fpstat ||| s.fpPend).getLsbD i = true)
          ∧ (s.launch.det = true → v = s.fpstat))
    ∧ (∀ n ∈ [(0x004 : BitVec 12), 0x00F, 0x01A, 0x029, 0x02F, 0x032, 0x03F, 0x046, 0xFFF], CanTrap s →
        Traps (.srd r n) s .undef 6 0)

/-- R175, R183, R371: SWR writes the fields that are RW and nothing else; TVEC keeps its low eight bits zero, and a write of TPCn
clears the resume mark of the level; a register that is RO as a whole, or an unknown number, traps UNDEF. -/
def SystemRegisterWrites : Prop :=
  ∀ (r : Reg) (s : State) (v : Word), s.regsOk [r] = true → v = s.getReg r →
    (∀ p ∈ [((0x003 : BitVec 12), { s.trap with trapen := v.getLsbD 0 }),
        (0x011, { s.trap with tvec := v.extractLsb' 8 56 ++ 0#8 }),
        (0x012, { s.trap with l1 := { s.trap.l1 with pc := v, mark := none } }),
        (0x013, { s.trap with l2 := { s.trap.l2 with pc := v, mark := none } }),
        (0x014, { s.trap with l1 := { s.trap.l1 with cause := v.setWidth 8 } }),
        (0x015, { s.trap with l2 := { s.trap.l2 with cause := v.setWidth 8 } }),
        (0x016, { s.trap with l1 := { s.trap.l1 with va := v } }), (0x017, { s.trap with l2 := { s.trap.l2 with va := v } }),
        (0x018, { s.trap with l1 := { s.trap.l1 with sts := v.setWidth 22 } }),
        (0x019, { s.trap with l2 := { s.trap.l2 with sts := v.setWidth 22 } })],
      Completes (.swr r p.1) s fun t => NoResult { s with trap := p.2 } t (s.pc + 4))
    ∧ (Completes (.swr r 0x002) s fun t => ∃ u, NoResult u t (s.pc + 4) ∧ u.fpstat = v.setWidth 6
        ∧ u = { s with fpstat := v.setWidth 6, fpPend := u.fpPend, free := s.free + 1 }
        ∧ (∀ i < 6, u.fpPend.getLsbD i = true → s.fpPend.getLsbD i = true)
        ∧ (s.launch.det = true → u.fpPend = s.fpPend))
    ∧ (∀ n ∈ [(0x000 : BitVec 12), 0x001, 0x010, 0x020, 0x024, 0x025, 0x026, 0x027, 0x028, 0x030, 0x031, 0x040, 0x041, 0x043,
        0x044, 0x045, 0x046, 0xFFF], CanTrap s → Traps (.swr r n) s .undef 6 0)

/-- Nothing of the task's engines is at work: its L and C queues, its helper, its streams and its Caller (R63, R64). -/
def EnginesIdle (s : State) : Prop :=
  (∀ q ∈ [Queue.l, .c], (s.queue q).entries = [] ∧ (s.queue q).table = none) ∧ s.helper.running = false
  ∧ s.grid.queue = [] ∧ s.grid.run = none ∧ ∀ x ∈ s.caller.terms.toList, x.pending = none

/-- R63, R64: EXIT with everything finished publishes what is staged and the task has left; TAIL in tail mode leaves at once what
the S queue and the copies still have to do in the core's retirement tracker, and frees the core; TAIL outside tail mode traps
UNDEF. -/
def ExitAndTail : Prop :=
  ∀ s : State,
    (EnginesIdle s → (s.queue .s).entries = [] → (s.queue .s).table = none → s.channel.cmds = [] → s.helper.fault = none →
      s.wait = none → StagingLocal s → NothingSent s → s.memory.wf = true →
      Completes .exit s fun t => t.status = .retired ∧ Committed s t ∧ t.fpstat = s.fpstat ||| s.fpPend ∧ t.revocable = false
        ∧ (∃ v, Installed s v ∧ t.memory = { v.memory with staging := [] })
        ∧ (∀ r : Reg, t.getReg r = s.getReg r) ∧ t.pc = s.pc + 4 ∧ t.isn = s.isn + 1)
    ∧ (s.launch.header.tailm = true → EnginesIdle s → (ownTracked s).length + (tailEntries s).length ≤ 16 →
      Completes .tail s fun t => t.status = .tailed ∧ t.pc = s.pc + 4 ∧ t.memory = s.memory
        ∧ (∀ o ∈ t.sched.occupied, o.core ≠ s.core.toNat)
        ∧ (∀ x ∈ s.sched.tracker, x ∈ t.sched.tracker)
        ∧ ((s.queue .s).entries ≠ [] → ⟨s.core.toNat, s.launch.entry, s.launch.task, none⟩ ∈ t.sched.tracker)
        ∧ (∀ c ∈ s.channel.cmds, ⟨s.core.toNat, s.launch.entry, s.launch.task, some c.tag.toNat⟩ ∈ t.sched.tracker))
    ∧ (s.launch.header.tailm = false → CanTrap s → Traps .tail s .undef 7 0)

/-- R180: the task has marked a group quiesced in its launch's table, and nothing else has changed. -/
def Quiesced (s u : State) (g : Nat) : Prop :=
  u = { s with channel := { s.channel with
    table := { s.channel.table with quiesced := u.channel.table.quiesced }, mine := u.channel.mine } }
  ∧ ∀ i < 16, u.channel.table.quiesced.getLsbD i = (s.channel.table.quiesced.getLsbD i || decide (i = g))
      ∧ u.channel.mine.getLsbD i = (s.channel.mine.getLsbD i || decide (i = g))

/-- R180: a copy of the launch on this device that names the group has not completed. -/
def GroupNamed (s : State) (g : Nat) : Prop :=
  (∃ c ∈ copiesHeld s, c.tpl.mc = true ∧ c.tpl.mcg = g) ∨ s.channel.table.others.getLsbD g = true

/-- R177, R180, R181, R246: FMTPUSH appends the pair as one format word, MCQUI marks a group and ends once no copy of the launch names
it, MCSET replaces the entry of a group that this task has quiesced and clears its mark, and MSLOT registers its write for the next
slot boundary; MCSET of a group that the task has not quiesced traps UNDEF, detail 2, and one of an entry with bits above 24 UNDEF,
detail 15. -/
def FormatAndTableWrites : Prop :=
  ∀ (a b : Reg) (s : State),
    (s.regsOk [a, a + 1] = true → s.fmt.length < 16 → Completes (.fmtpush a) s fun t =>
      NoResult { s with fmt := s.fmt ++ [⟨s.nextFmt, false, s.getReg (a + 1) ++ s.getReg a⟩], nextFmt := s.nextFmt + 1 } t
        (s.pc + 4))
    ∧ (∀ g, s.regsOk [a] = true → g = (s.getReg a).toNat % 16 →
      (¬ GroupNamed s g → Completes (.mcqui a) s fun t => ∃ u, NoResult u t (s.pc + 4) ∧ Quiesced s u g)
      ∧ (GroupNamed s g → s.waitClk ≤ 2 ^ 32 → Completes (.mcqui a) s fun t => ∃ u, Quiesced s u g
          ∧ t = { u with waitClk := max s.waitClk 1, waitKind := 6 }))
    ∧ (∀ g, s.regsOk [a, b] = true → g = (s.getReg a).toNat % 16 →
      (s.channel.mine.getLsbD g = true → (s.getReg b).toNat < 2 ^ 25 → Completes (.mcset a b) s fun t =>
        ∃ u, NoResult u t (s.pc + 4)
          ∧ u = { s with channel := { s.channel with
              table := { s.channel.table with entries := u.channel.table.entries, quiesced := u.channel.table.quiesced }
              mine := u.channel.mine } }
          ∧ u.channel.table.entries[g]? = some (s.getReg b)
          ∧ (∀ i, i ≠ g → u.channel.table.entries[i]? = s.channel.table.entries[i]?)
          ∧ ∀ i < 16, u.channel.table.quiesced.getLsbD i = (s.channel.table.quiesced.getLsbD i && decide (i ≠ g))
              ∧ u.channel.mine.getLsbD i = (s.channel.mine.getLsbD i && decide (i ≠ g)))
      ∧ (s.channel.mine.getLsbD g = true → 2 ^ 25 ≤ (s.getReg b).toNat → CanTrap s → Traps (.mcset a b) s .undef 15 0)
      ∧ (s.channel.mine.getLsbD g = false → CanTrap s → Traps (.mcset a b) s .undef 2 0))
    ∧ (s.regsOk [a, b] = true → (s.getReg b).toNat < 8 → Completes (.mslot a b) s fun t =>
      NoResult { s with matrix := { s.matrix with
        pending := s.matrix.pending ++ [⟨s.clk / 256 + 1, (s.getReg a).setWidth 4, (s.getReg b).setWidth 3⟩] } } t (s.pc + 4))

/-- R176, R178, R179: MAPLD takes the 64 bytes of a plain read into the map register, MAPST stages the register's 64 bytes, TDLD
refetches one descriptor from its home (without a tensor table it only drops the cached one); a map register at or above NM traps REGBOUND, an address off 64 bytes MISALIGN. -/
def MapsAndDescriptors : Prop :=
  ∀ (m : BitVec 4) (a : Reg) (s : State) (vas locs : List Nat), s.regsOk [a] = true →
    vas = (List.range 64).map ((s.getReg a).toNat + ·) →
    (m.toNat < s.launch.header.nm → (s.getReg a).toNat % 64 = 0 → s.locsOf .load false true vas = .ok locs →
      ReadsAtOnce s vas locs → s.fillPending vas = false → s.atomicInFlight locs = false →
      Completes (.mapld m a) s fun t => ∃ u v, MemNoted s u ∧ Touched { u with mregs := v.mregs } v ∧ NoResult v t (s.pc + 4)
        ∧ (∀ i < 64, (v.mregs[m.toNat]'m.isLt).extractLsb' (8 * i) 8
            = (Overlay.get? s.memory.own (locs.getD i 0)).getD (Mem.read s.memory.snap (locs.getD i 0)))
        ∧ ∀ (j : Nat) (h : j < 16), j ≠ m.toNat → v.mregs[j] = s.mregs[j])
    ∧ (m.toNat < s.launch.header.nm → (s.getReg a).toNat % 64 = 0 → s.locsOf .store false true vas = .ok locs →
      locs.Nodup → s.launch.header.tailm = false → s.stagingFull locs = false → s.memory.wf = true →
      Completes (.mapst m a) s fun t => ∃ u v, MemNoted s u ∧ NoResult v t (s.pc + 4)
        ∧ (∀ i < 64, Overlay.get? v.memory.staging (locs.getD i 0)
            = some ((s.mregs[m.toNat]'m.isLt).extractLsb' (8 * i) 8))
        ∧ (∀ l, l ∉ locs → Overlay.get? v.memory.staging l = Overlay.get? s.memory.staging l)
        ∧ OwnWritten { u with memory := { u.memory with staging := v.memory.staging } } v)
    ∧ (s.launch.header.nm ≤ m.toNat → CanTrap s →
        Traps (.mapld m a) s .regbound 0 0 ∧ Traps (.mapst m a) s .regbound 0 0)
    ∧ (m.toNat < s.launch.header.nm → (s.getReg a).toNat % 64 ≠ 0 → CanTrap s →
        Traps (.mapld m a) s .misalign 0 (s.getReg a) ∧ Traps (.mapst m a) s .misalign 0 (s.getReg a))
    ∧ (s.launch.ttab = 0 → Completes (.tdld a) s fun t => NoResult { s with memory := { s.memory with
        descs := s.memory.descs.filter fun d => d.id ≠ (s.getReg a).toNat % 4096 } } t (s.pc + 4))
    ∧ (∀ (id : Nat) (bs : List Byte) (u : State), id = (s.getReg a).toNat % 4096 → s.launch.ttab ≠ 0 →
        readHomeVa s (descVa s id false) 128 = .ok bs u → (Desc.ofBytes bs).rs = false →
        Completes (.tdld a) s fun t => t.memory.descs.head? = some ⟨id, bs⟩ ∧ (∀ r : Reg, t.getReg r = u.getReg r)
          ∧ t.pc = u.pc + 4 ∧ t.memory.home = u.memory.home)

/-- Bit p of the string that a group or span of vector registers holds, the named register lowest (R141). -/
def vecBit (s : State) (r : Reg) (p : Nat) : Bool := (s.vregs.getD (r.toNat + p / 2048) 0).getLsbD (p % 2048)

/-- Element i of a group or span, of so many bits (R141, R185). -/
def vElem (s : State) (r : Reg) (bits i : Nat) : Nat :=
  ((List.range bits).map fun j => if vecBit s r (bits * i + j) then 2 ^ j else 0).sum

/-- Element i of an operand governed by w is active under mask k: k0 admits all (R141, R186). -/
def activeAt (s : State) (k : BitVec 4) (w : BitVec 2) (bits i : Nat) : Bool :=
  decide (k = 0) || (s.kregs[k.toNat]'k.isLt).getLsbD (i * (bits / 8) / 2 ^ w.toNat)

/-- Nothing stands before a new entry of the queue, its tokens are there and its pushes have room (R28, R47, R48), the schedule
runs it at once (log entry 1), and its word is well-formed with every register declared (R149, R187). -/
def QueueReady (s : State) (q : Queue) (i : Instr) : Prop :=
  i.wf = true ∧ namesOk s.launch.header i = true ∧ s.eager = true ∧ (s.queue q).entries = [] ∧ (s.queue q).table = none
  ∧ (s.queue q).halt = none
  ∧ ((tokensOf i).wp = true → 0 < s.fifo (prevQ q) q) ∧ ((tokensOf i).wn = true → 0 < s.fifo (nextQ q) q)
  ∧ ((tokensOf i).sn = true → s.fifo q (nextQ q) < 15) ∧ ((tokensOf i).sp = true → s.fifo q (prevQ q) < 15)

/-- The entry has taken its tokens, made its pushes and left its queue; nothing else of the queues differs (R48). -/
def QueueDone (s t : State) (q : Queue) (tok : Tokens) : Prop :=
  t.queue q = { s.queue q with stall := 0 } ∧ (∀ p, p ≠ q → t.queue p = s.queue p)
  ∧ t.queues.qsel = s.queues.qsel ∧ t.queues.halts = s.queues.halts
  ∧ ∀ a b, t.fifo a b
    = s.fifo a b - (if b = q ∧ ((a = prevQ q ∧ tok.wp = true) ∨ (a = nextQ q ∧ tok.wn = true)) then 1 else 0)
      + (if a = q ∧ ((b = nextQ q ∧ tok.sn = true) ∨ (b = prevQ q ∧ tok.sp = true)) then 1 else 0)

/-- An engine instruction has run: its queue is as QueueDone says, the sequencer is past its two words, and everything that the
instruction may not touch is as in `u`, the state with its effect (R15, R124). -/
def EngineResult (s t u : State) (q : Queue) (i : Instr) : Prop :=
  QueueDone s t q (tokensOf i)
  ∧ t = { u with
      queues := t.queues, pc := s.pc + 8, isn := s.isn + 1, wait := none, waitClk := 0
      caller := { s.caller with pulses := t.caller.pulses } }

/-- The elements of a destination group and the flags that they set follow a rule; every other vector register is as before. -/
def GroupWritten (s u : State) (d : Reg) (regs bits n : Nat) (rule : Nat → Nat → Flags → Prop) : Prop :=
  u = { s with vregs := u.vregs, fpPend := u.fpPend }
  ∧ (∀ m : Nat, m < d.toNat ∨ d.toNat + regs ≤ m → u.vregs[m]? = s.vregs[m]?)
  ∧ ∃ flags : Nat → Flags, (∀ i < n, rule i (vElem u d bits i) (flags i))
    ∧ ∀ b < 6, u.fpPend.getLsbD b = true ↔ s.fpPend.getLsbD b = true ∨ ∃ i < n, (flags i).getLsbD b = true

/-- A C-class row writes its destination group by a rule of the element, its code and its flags. -/
def GroupRow (row : EOp → Instr) (rule : EOp → State → Nat → Nat → Flags → Prop) : Prop :=
  ∀ (o : EOp) (s : State), QueueReady s .c (row o) → Completes (row o) s fun t => ∃ u,
    EngineResult s t u .c (row o)
    ∧ GroupWritten s u o.d (2 ^ o.w.toNat) o.ty.bits (2 ^ o.w.toNat * 2048 / o.ty.bits) (rule o s)

/-- R186: active elements follow the rule; the others keep their values and set no flag. -/
def MaskedRow (row : EOp → Instr) (rule : EOp → State → Nat → Nat → Flags → Prop) : Prop :=
  GroupRow row fun o s i r f =>
    if activeAt s o.k o.w o.ty.bits i then rule o s i r f else r = vElem s o.d o.ty.bits i ∧ f = 0

/-- The integer that a code of an integer type stands for (R118). -/
def laneInt (t : ElemType) (x : Nat) : Int :=
  if t.isSigned then (BitVec.ofNat t.bits x).toInt else (BitVec.ofNat t.bits x).toNat

/-- R126: an integer result wraps, or with sat is clamped with the SAT flag. -/
def IntDelivered (t : ElemType) (sat : Bool) (v : Int) (r : Nat) (f : Flags) : Prop :=
  if sat then
    laneInt t r = max (intMin t) (min v (intMax t)) ∧ r < 2 ^ t.bits
    ∧ f = (if intMin t ≤ v ∧ v ≤ intMax t then 0 else 0x20)
  else (r : Int) = v % ((2 ^ t.bits : Nat) : Int) ∧ f = 0

/-- A VINT row that delivers an exact integer of its lanes. -/
def IntRow (row : EOp → Instr) (f : EOp → State → Int → Int → Int) : Prop :=
  MaskedRow row fun o s i r fl => IntDelivered o.ty o.sat
    (f o s (laneInt o.ty (vElem s o.a o.ty.bits i)) (laneInt o.ty (vElem s o.b o.ty.bits i))) r fl

/-- A row whose code follows from the codes of its lanes, with no flag. -/
def CodeRow (row : EOp → Instr) (f : EOp → (x y r : Nat) → Prop) : Prop :=
  MaskedRow row fun o s i r fl =>
    f o (vElem s o.a o.ty.bits i) (vElem s o.b o.ty.bits i) r ∧ r < 2 ^ o.ty.bits ∧ fl = 0

/-- The amount of a shift (R189). -/
def shiftBy (o : EOp) (y : Nat) : Nat := (if o.alt then o.imm.toNat % 64 else y) % o.ty.bits

/-- The rounding of element i of an instruction: its mode, its sat bit, and for stochastic rounding the random bits of the
launch's seed, the task, the instruction count and the element (R122 to R124, R188). -/
def roundingOf (o : EOp) (s : State) (i : Nat) : RoundCtl :=
  ⟨o.rm, o.sat, if o.rm = .rsr then rndBits s.launch.seed s.launch.task (s.isn % 2 ^ 52) 0 i else 0⟩

/-- A float row: the exact value of the lanes of a, b and c, rounded once (R188, R190). -/
def FloatRow (row : EOp → Instr) (exact : FVal → FVal → FVal → Exact × Flags) : Prop :=
  MaskedRow row fun o s i r fl =>
    let lane (x : Reg) := unpackFloat o.ty (vElem s x o.ty.bits i)
    let v := exact (lane o.a) (lane o.b) (lane o.c)
    (r, fl) = ((deliver o.ty (roundingOf o s i) v.1).1, v.2 ||| (deliver o.ty (roundingOf o s i) v.1).2)

/-- An exact sum, product or fused value before its rounding. -/
def exactly (x : FVal × Flags) : Exact × Flags := (x.1.toExact, x.2)

/-- R190: minimum and maximum: a NaN operand gives Canon; otherwise the lesser or the greater operand, −0 below +0. -/
def FloatMinMax (t : ElemType) (x y r : Nat) (isMax : Bool) : Prop :=
  let a := unpackFloat t x
  let b := unpackFloat t y
  if a = .nan ∨ b = .nan then r = canonNaN t
  else (r = x ∨ r = y) ∧ (isMax = true → fLess (unpackFloat t r) a = false ∧ fLess (unpackFloat t r) b = false)
    ∧ (isMax = false → fLess a (unpackFloat t r) = false ∧ fLess b (unpackFloat t r) = false)

/-- One mask register has a new value; k0 keeps its ones (R140). -/
def MaskWritten (s u : State) (d : Reg) (rule : Nat → Bool → Prop) : Prop :=
  u = { s with kregs := u.kregs } ∧ (∀ m : Nat, m ≠ d.toNat → u.kregs[m]? = s.kregs[m]?)
  ∧ ∀ k, u.kregs[d.toNat]? = some k → ∀ j < 256, rule j (k.getLsbD j)

/-- Bit j of a mask operand: k0 reads all ones (R140). -/
def maskBit (s : State) (r : Reg) (j : Nat) : Bool :=
  decide (r = 0) || (s.kregs.getD r.toNat 0).getLsbD j

/-- A row that writes a mask register. -/
def MaskRow (row : EOp → Instr) (rule : EOp → State → Nat → Bool → Prop) : Prop :=
  ∀ (o : EOp) (s : State), QueueReady s .c (row o) → Completes (row o) s fun t => ∃ u,
    EngineResult s t u .c (row o) ∧ MaskWritten s u o.d (rule o s) ∧ 0 < o.d.toNat ∧ o.d.toNat < 16

/-- R142, R191: the truth of a comparison of two lanes by value. -/
def CompareHolds (t : ElemType) (cond : Nat) (x y : Nat) : Prop :=
  if t.isInt then
    match cond with
    | 0 => laneInt t x = laneInt t y | 1 => laneInt t x ≠ laneInt t y | 2 => laneInt t x < laneInt t y
    | 3 => laneInt t x ≤ laneInt t y | 4 => laneInt t x > laneInt t y | 5 => laneInt t x ≥ laneInt t y
    | _ => False
  else
    match fCmp (unpackFloat t x) (unpackFloat t y) with
    | none => cond = 1 ∨ cond = 6
    | some d => (cond = 0 ∧ d = 0) ∨ (cond = 1 ∧ d ≠ 0) ∨ (cond = 2 ∧ d < 0) ∨ (cond = 3 ∧ d ≤ 0) ∨ (cond = 4 ∧ d > 0)
        ∨ (cond = 5 ∧ d ≥ 0)

/-- A value-returning C instruction: the value stands in a new entry of the return queue, and no register changes (R51). -/
def ReturnRow (row : EOp → Instr) (rule : EOp → State → Word → Prop) : Prop :=
  ∀ (o : EOp) (s : State), QueueReady s .c (row o) → s.ret.length < 32 → (∀ e ∈ s.ret, e.id ≠ s.nextRet) →
    Completes (row o) s fun t => ∃ v, rule o s v ∧ EngineResult s t
      { s with ret := s.ret ++ [⟨s.nextRet, false, some (.scalar v), none, none⟩], nextRet := s.nextRet + 1 } .c (row o)

/-- Element j of the sequence a followed by b. -/
def pairElem (o : EOp) (s : State) (j : Nat) : Nat :=
  let n := 2 ^ o.w.toNat * 2048 / o.ty.bits
  if j < n then vElem s o.a o.ty.bits j else vElem s o.b o.ty.bits (j - n)

/-- The active elements among the first n, in ascending order. -/
def activeList (o : EOp) (s : State) (n : Nat) : List Nat :=
  (List.range n).filter fun i => activeAt s o.k o.w o.ty.bits i

/-- A row that moves whole elements and sets no flag. -/
def MoveRow (row : EOp → Instr) (val : EOp → State → Nat → Nat) : Prop :=
  MaskedRow row fun o s i r fl => r = val o s i ∧ fl = 0

/-- A reduction: element 0 takes the result over the active elements, every other element zero (R194). -/
def ReduceRow (row : EOp → Instr) (rule : EOp → State → List Nat → Nat → Flags → Prop) : Prop :=
  GroupRow row fun o s i r fl =>
    if i = 0 then rule o s ((activeList o s (2 ^ o.w.toNat * 2048 / o.ty.bits)).map (vElem s o.a o.ty.bits)) r fl
    else r = 0 ∧ fl = 0

/-- R132, R194: a sum of lanes: for integers that wrap, the sum itself; otherwise the canonical tree, each Combine rounded or
clamped. -/
def LaneSum (o : EOp) (s : State) (i : Nat) (xs : List Nat) (r : Nat) (fl : Flags) : Prop :=
  if o.ty.isInt = true ∧ o.sat = false then
    (r : Int) = (xs.map (laneInt o.ty)).sum % ((2 ^ o.ty.bits : Nat) : Int) ∧ fl = 0
  else (r, fl) = laneSum o (roundingOf o s i) xs

/-- R194: the reductions in registers. -/
def VectorReductions : Prop :=
  ReduceRow .vrsum (fun o s xs r fl => LaneSum o s 0 xs r fl)
  ∧ ReduceRow .vrmax (fun o _ xs r fl => fl = 0 ∧ (o.ty.isInt = true →
      (∀ x ∈ xs, laneInt o.ty x ≤ laneInt o.ty r) ∧ ((∃ x ∈ xs, laneInt o.ty x = laneInt o.ty r) ∨ laneInt o.ty r = intMin o.ty))
    ∧ (o.ty.isInt = false → r = xs.foldl (fltMinMax o.ty true) (infCode (fmtOf o.ty) true)))
  ∧ ReduceRow .vrmin (fun o _ xs r fl => fl = 0 ∧ (o.ty.isInt = true →
      (∀ x ∈ xs, laneInt o.ty r ≤ laneInt o.ty x) ∧ ((∃ x ∈ xs, laneInt o.ty x = laneInt o.ty r) ∨ laneInt o.ty r = intMax o.ty))
    ∧ (o.ty.isInt = false → r = xs.foldl (fltMinMax o.ty false) (infCode (fmtOf o.ty) false)))
  ∧ ReduceRow .vrand (fun o _ xs r fl => fl = 0 ∧ ∀ j < o.ty.bits, r.testBit j = decide (∀ x ∈ xs, x.testBit j = true))
  ∧ ReduceRow .vror (fun o _ xs r fl => fl = 0 ∧ ∀ j < o.ty.bits, r.testBit j = decide (∃ x ∈ xs, x.testBit j = true))
  ∧ MaskedRow .vpsum (fun o s i r fl =>
      LaneSum o s i ((activeList o s (if o.alt then i + 1 else i)).map (vElem s o.a o.ty.bits)) r fl)

/-- The values of block g of a quantisation, an inactive element counting as zero (R196). -/
def blockIn (o : EOp) (s : State) (g : Nat) : List FVal :=
  (List.range 32).map fun j => if activeAt s o.k o.w o.src.bits (32 * g + j)
    then unpackFloat o.src (vElem s o.a o.src.bits (32 * g + j)) else .fin false 0 0

/-- Block g quantised: its codes, its side word and its flags (R127, R196). -/
def blockOf (o : EOp) (s : State) (g : Nat) : List Nat × Nat × Flags :=
  quantBlock o.ty o.rm o.sat o.alt ((List.range 32).map fun j => (roundingOf o s (32 * g + j)).rnd) (blockIn o s g)

/-- R195 to R200: conversion, quantisation into blocks of 32 with their side words, expansion of blocks and codebooks, and the
dense bit fields of VPACK and VUNPK. -/
def ConversionsAndBlocks : Prop :=
  MaskedRow .vcvt (fun o s i r fl => (r, fl) = convert o.ty o.src (roundingOf o s i) (vElem s o.a o.src.bits i))
  ∧ MaskedRow .vdqnt (fun o s i r fl =>
      (r, fl) = blockElem o.src o.ty o.alt (vElem s o.c 16 (i / 32)) (vElem s o.a o.src.bits i))
  ∧ MaskedRow .vcbx (fun o s i r fl => (r, fl) = convert o.ty .bf16 (roundingOf o s i)
      (vElem s o.c 16 (2 ^ o.src.bits * (i / 128) + vElem s o.a o.src.bits i)))
  ∧ MaskedRow .vunpk (fun o s i r fl => fl = 0 ∧ r < 2 ^ o.ty.bits ∧
      (o.src.isSigned = true → (r : Int)
        = laneInt o.src (vElem s o.a o.src.bits i) % ((2 ^ o.ty.bits : Nat) : Int))
      ∧ (o.src.isSigned = false → r = vElem s o.a o.src.bits i))
  ∧ (∀ (o : EOp) (s : State), QueueReady s .c (.vpack o) → Completes (.vpack o) s fun t => ∃ u,
      EngineResult s t u .c (.vpack o) ∧ GroupWritten s u o.d ((2 ^ o.w.toNat * 2048 / o.src.bits * o.ty.bits + 2047) / 2048)
        o.ty.bits (2 ^ o.w.toNat * 2048 / o.src.bits) (fun i r fl =>
          if activeAt s o.k o.w o.src.bits i then
            let v := laneInt o.src (vElem s o.a o.src.bits i)
            let lo : Int := if o.ty.isSigned then -((2 ^ (o.ty.bits - 1) : Nat) : Int) else 0
            let hi : Int := lo + ((2 ^ o.ty.bits : Nat) : Int) - 1
            (r : Int) = (if o.sat then max lo (min v hi) else v) % ((2 ^ o.ty.bits : Nat) : Int)
            ∧ fl = (if o.sat = true ∧ (v < lo ∨ hi < v) then 0x20 else 0)
          else r = vElem s o.d o.ty.bits i ∧ fl = 0))
  ∧ (∀ (o : EOp) (s : State), QueueReady s .c (.vqnt o) → Completes (.vqnt o) s fun t => ∃ u,
      EngineResult s t u .c (.vqnt o) ∧ u = { s with vregs := u.vregs, fpPend := u.fpPend }
      ∧ (∀ g < 2 ^ o.w.toNat * 2048 / o.src.bits / 32,
        vElem u o.c 16 g = (blockOf o s g).2.1
        ∧ (o.c.toNat < o.d.toNat ∨ o.d.toNat + 8 ≤ o.c.toNat →
            ∀ j < 32, vElem u o.d o.ty.bits (32 * g + j) = (blockOf o s g).1.getD j 0)
        ∧ (FVal.nan ∈ blockIn o s g → vElem u o.c 16 g = 255 * 4 ∧ ∀ j < 32, (blockOf o s g).1.getD j 0 = 0))
      ∧ ∀ b < 6, u.fpPend.getLsbD b = true ↔ s.fpPend.getLsbD b = true
          ∨ ∃ g < 2 ^ o.w.toNat * 2048 / o.src.bits / 32, (blockOf o s g).2.2.getLsbD b = true)

/-- Entry i of what a VDRAIN takes: the oldest entries of the path, 64 of them, or with alt all when there are fewer. -/
def drainTaken (o : EOp) (s : State) : List SitOut :=
  let mine := s.sitout.filter fun e => e.path = o.imm.toNat % 16
  if 64 ≤ mine.length then mine.take 64 else if o.alt then mine else []

/-- The instruction is issued behind what its queue works on, or where its tokens are missing: its registers are declared, the queue
has not halted, and it has room (R14, R29, R48, R187). -/
def IssuesBehind (s : State) (q : Queue) (i : Instr) : Prop :=
  namesOk s.launch.header i = true ∧ (s.queue q).halt = none
  ∧ ((s.queue q).entries ≠ [] ∨ ((tokensOf i).wp = true ∧ s.fifo (prevQ q) q = 0)) ∧ (s.queue q).entries.length < 32

/-- What the issue of an instruction into a queue that works on leaves (R15, R29): the entry stands behind what is there, with the
scalars as they are now, and nothing of its effect has happened. -/
def JustIssued (s t : State) (q : Queue) (i : Instr) : Prop :=
  t.pc = s.pc + 8 ∧ t.isn = s.isn + 1 ∧ t.vregs = s.vregs ∧ t.kregs = s.kregs ∧ t.fpPend = s.fpPend ∧ t.memory = s.memory
  ∧ t.reel = s.reel
  ∧ ∃ e, (t.queue q).entries = (s.queue q).entries ++ [e] ∧ e.instr = i ∧ e.stage = .pop ∧ e.pc = s.pc ∧ e.isn = s.isn
    ∧ ∀ r : Reg, e.regs[r.toNat]'r.isLt = s.getReg r

/-- R26, R207: the address of element i of an L or S memory word issued outside a table: from s[a] and imm12 (for scratchpad in
16 B, with the rank form of imm[11]), or with `gather` from s[a] by the signed 32-bit elements of b; elements of a contiguous global
word beyond the 64-bit space do not wrap. -/
def vecAddr (o : MOp) (s : State) (scr gather : Bool) (i : Nat) : Nat :=
  let ix : Int := if gather then (BitVec.ofNat 32 (vElem s o.b 32 i)).toInt else i
  if scr then
    let flat := ((s.getReg o.a).toNat + o.imm.toNat % 512 * 16) % 2 ^ 32
    let base := if gather then (s.getReg o.a).toNat % 2 ^ 32
      else if o.imm.getLsbD 11 then
        flat / 2 ^ 24 * 2 ^ 24 + 2 ^ 23 + flat / 2 ^ 22 % 2 * 2 ^ 22 + o.imm.toNat / 512 % 4 * 2 ^ 20 + flat % 2 ^ 20
      else flat
    (((base : Int) + ix * (o.ty.bits / 8 : Nat)) % ((2 ^ 32 : Nat) : Int)).toNat
  else
    let base := if gather then s.getReg o.a else s.getReg o.a + o.imm.signExtend 64
    (((base.toNat : Int) + ix * (o.ty.bits / 8 : Nat)) % ((2 ^ (if gather then 64 else 65) : Nat) : Int)).toNat

/-- Element i of a memory word's data is active (R186). -/
def wordActive (o : MOp) (s : State) (i : Nat) : Prop :=
  i < 2 ^ o.w.toNat * 2048 / o.ty.bits ∧ activeAt s o.k o.w o.ty.bits i = true

/-- Every active element is aligned and passes its checks; its bytes stand from `at i`, in scratchpad or in local memory. -/
def ElemsAt (o : MOp) (s : State) (scr gather : Bool) (k : Access) (at_ : Nat → Nat) : Prop :=
  ∀ i, wordActive o s i →
    vecAddr o s scr gather i % (o.ty.bits / 8) = 0
    ∧ if scr then ScratchOk s (vecAddr o s scr gather i) (o.ty.bits / 8) (at_ i)
      else at_ i + o.ty.bits / 8 ≤ 2 ^ 48 ∧ ∀ plain,
        s.locsOf k false plain (bytesAt (vecAddr o s scr gather i) (o.ty.bits / 8)) = .ok (bytesAt (at_ i) (o.ty.bits / 8))

/-- Reads of the active elements are answered at once. -/
def ElemsRead (o : MOp) (s : State) (gather : Bool) (at_ : Nat → Nat) : Prop :=
  ∀ i, wordActive o s i → ReadsAtOnce s (bytesAt (vecAddr o s false gather i) (o.ty.bits / 8)) (bytesAt (at_ i) (o.ty.bits / 8))
    ∧ s.fillPending (bytesAt (vecAddr o s false gather i) (o.ty.bits / 8)) = false
    ∧ s.atomicInFlight (bytesAt (at_ i) (o.ty.bits / 8)) = false

/-- A load has written the active elements of its group by a rule of the element; the others keep their values (R186, R208). Only a
`plain` load uses the L1. -/
def VecLoaded (s t : State) (i : Instr) (o : MOp) (plain : Bool) (free : Nat) (rule : Nat → Nat → Prop) : Prop :=
  ∃ v x u, MemNoted s v ∧ (if plain then Touched v x else x = v) ∧ GroupWritten { x with free := x.free + free } u o.d (2 ^ o.w.toNat) o.ty.bits
      (2 ^ o.w.toNat * 2048 / o.ty.bits) (fun n r f => f = 0 ∧
        if activeAt s o.k o.w o.ty.bits n then rule n r else r = vElem s o.d o.ty.bits n)
    ∧ EngineResult s t u .l i

/-- R100, R186, R207, R208: the vector loads: from local memory each byte is the task's own pending write or else the snapshot's;
from scratchpad it is the byte that stands there. -/
def VectorLoads : Prop :=
  (∀ row ∈ [(Instr.vld, false), (.vgath, true)], ∀ (o : MOp) (s : State) (at_ : Nat → Nat), QueueReady s .l (row.1 o) →
    o.space = .global → ElemsAt o s false row.2 .load at_ → ElemsRead o s row.2 at_ →
    Completes (row.1 o) s fun t => VecLoaded s t (row.1 o) o true 0 fun i r =>
      r = bytesToNat ((bytesAt (at_ i) (o.ty.bits / 8)).map fun l =>
        (Overlay.get? s.memory.own l).getD (Mem.read s.memory.snap l)))
  ∧ (∀ row ∈ [(Instr.vlds, false), (.vgath, true)], ∀ (o : MOp) (s : State) (at_ : Nat → Nat), QueueReady s .l (row.1 o) →
    (row.2 = true → o.space = .scratch) → ElemsAt o s true row.2 .load at_ →
    Completes (row.1 o) s fun t => VecLoaded s t (row.1 o) o false 0 fun i r =>
      r = wordAt s.memory.scratch (at_ i) (o.ty.bits / 8))

/-- R95, R208: the read-only load delivers bytes of the task's own writes before its ROINV, or of a version of the location since
the launch or the ROINV; which version is open (log entry 5). -/
def ReadOnlyLoads : Prop :=
  ∀ (o : MOp) (s : State) (at_ : Nat → Nat), QueueReady s .l (.vldro o) → ElemsAt o s false false .load at_ →
    ElemsRead o s false at_ →
    Completes (.vldro o) s fun t => VecLoaded s t (.vldro o) o false 1 fun i r =>
      ∃ bs : List Byte, r = bytesToNat bs ∧ bs.length = o.ty.bits / 8 ∧ ∀ j < o.ty.bits / 8,
        match Overlay.get? s.memory.roOwn (at_ i + j) with
        | some b => bs.getD j 0 = b
        | none => bs.getD j 0 = Mem.read s.memory.roBase (at_ i + j) ∨ bs.getD j 0 = Mem.read s.memory.snap (at_ i + j)
            ∨ bs.getD j 0 = Mem.read s.memory.home (at_ i + j)

/-- A place after a word's active elements were stored in ascending order: a byte that no later element covers holds its
element's, and a byte that none covers is as before. -/
def ElemsStored {α : Type} (o : MOp) (s : State) (at_ : Nat → Nat) (before after : Nat → α) (put : Byte → α) : Prop :=
  (∀ i, wordActive o s i → ∀ j < o.ty.bits / 8,
    (∀ i', wordActive o s i' → i < i' → at_ i + j ∉ bytesAt (at_ i') (o.ty.bits / 8)) →
    after (at_ i + j) = put (BitVec.ofNat 8 (vElem s o.d o.ty.bits i / 2 ^ (8 * j))))
  ∧ ∀ l, (∀ i, wordActive o s i → l ∉ bytesAt (at_ i) (o.ty.bits / 8)) → after l = before l

/-- R161, R211, R212: the new value of one element of VRDM or VATOM; `fn` is R161's number of the 64-bit form, with 0 add, 5
minimum and 6 maximum for every type. -/
def vecRule (t : ElemType) (fn : Nat) (w : Nat) (x v new : BitVec w) : Prop :=
  if t = .f32 ∧ fn ≠ 9 then
    floatAtomRule (if fn = 0 then 13 else if fn = 5 then 14 else 15) (x.setWidth 32) (v.setWidth 32) (new.setWidth 32)
  else atomRule (if t.isSigned then fn else if fn = 5 then 7 else if fn = 6 then 8 else fn) w x v 0 new

/-- The active elements have been combined with the values at their places, each by its own atomic; nothing else of the place
differs. -/
def ElemsCombined (o : MOp) (s : State) (at_ : Nat → Nat) (fn : Nat) (m m' : Mem) : Prop :=
  (∀ i, wordActive o s i → ∃ x new : BitVec o.ty.bits, x.toNat = wordAt m (at_ i) (o.ty.bits / 8)
    ∧ new.toNat = wordAt m' (at_ i) (o.ty.bits / 8)
    ∧ vecRule o.ty fn o.ty.bits x (BitVec.ofNat o.ty.bits (vElem s o.d o.ty.bits i)) new)
  ∧ ∀ l, (∀ i, wordActive o s i → l ∉ bytesAt (at_ i) (o.ty.bits / 8)) → Mem.read m' l = Mem.read m l

/-- What a vector reduction or atomic at memory may touch beside its locations (R51, R81, R82, R94, R166). -/
def CombineKept (s u : State) : Prop :=
  ∃ v w x, MemNoted s v
    ∧ Installed { v with revocable := u.revocable, seen := u.seen, ret := u.ret, nextRet := u.nextRet } w ∧ OwnWritten w x
    ∧ u = { x with memory := { x.memory with scratch := u.memory.scratch, scrPoison := u.memory.scrPoison } }

/-- The active elements can be combined one by one: each passes its checks, its place is its own, nothing there is poisoned, and
the launch is not DET where the place is global. -/
def CombineOk (o : MOp) (s : State) (at_ : Nat → Nat) : Prop :=
  s.memory.wf = true ∧ s.memory.vatom = none ∧ ElemsAt o s (o.space = .scratch) false .atomic at_
  ∧ s.launch.det = false
  ∧ (∀ i j, wordActive o s i → wordActive o s j → i ≠ j → at_ i + o.ty.bits / 8 ≤ at_ j ∨ at_ j + o.ty.bits / 8 ≤ at_ i)
  ∧ (o.space ≠ .scratch → ∀ i, wordActive o s i →
      ReadsAtOnce s (bytesAt (vecAddr o s false false i) (o.ty.bits / 8)) (bytesAt (at_ i) (o.ty.bits / 8)))

/-- The values of a list of registers as elements, the first register lowest (R141). -/
def listElem (rs : List VReg) (bits i : Nat) : Nat :=
  ((List.range bits).map fun j =>
    if (rs.getD ((bits * i + j) / 2048) 0).getLsbD ((bits * i + j) % 2048) then 2 ^ j else 0).sum

/-- R211, R212, outside DET launches: VRDM without its tree and VATOM update the place of every active element; VATOM's old values
are one new entry of the return queue, inactive elements zero. -/
def VectorAtomics : Prop :=
  (∀ (o : MOp) (s : State) (at_ : Nat → Nat), QueueReady s .s (.vrdm o) → o.b.getLsbD 5 = false → CombineOk o s at_ →
    Completes (.vrdm o) s fun t => ∃ u, EngineResult s t u .s (.vrdm o) ∧ CombineKept s u
      ∧ u.ret = s.ret ∧ u.nextRet = s.nextRet
      ∧ let fn := [0, 5, 6, 2, 3, 4].getD (o.b.toNat % 8) 0
        if o.space = .scratch then u.memory.home = s.memory.home
          ∧ ElemsCombined o s at_ fn s.memory.scratch u.memory.scratch
        else u.memory.scratch = s.memory.scratch ∧ ElemsCombined o s at_ fn s.memory.home u.memory.home)
  ∧ (∀ (o : MOp) (s : State) (at_ : Nat → Nat), QueueReady s .s (.vatom o) → s.ret.length < 32 →
      (∀ e ∈ s.ret, e.id ≠ s.nextRet) → CombineOk o s at_ →
    Completes (.vatom o) s fun t => ∃ u, EngineResult s t u .s (.vatom o) ∧ CombineKept s u
      ∧ u.nextRet = s.nextRet + 1
      ∧ (∃ rs, u.ret = s.ret ++ [⟨s.nextRet, false, some (.vector rs), none, none⟩] ∧ rs.length = 2 ^ o.w.toNat
          ∧ ∀ i < 2 ^ o.w.toNat * 2048 / o.ty.bits, listElem rs o.ty.bits i = (if activeAt s o.k o.w o.ty.bits i
              then wordAt (if o.space = .scratch then s.memory.scratch else s.memory.home) (at_ i) (o.ty.bits / 8) else 0))
      ∧ let fn := [0, 1, 2, 3, 4, 5, 6, 9].getD o.b.toNat 0
        if o.space = .scratch then u.memory.home = s.memory.home
          ∧ ElemsCombined o s at_ fn s.memory.scratch u.memory.scratch
        else u.memory.scratch = s.memory.scratch ∧ ElemsCombined o s at_ fn s.memory.home u.memory.home)

/-- R132, R211: with b[5] VRDM combines its active elements by the canonical tree, and one atomic puts the result to the place at
the word's own address. -/
def TreeReductionAtMemory : Prop :=
  ∀ (o : MOp) (s : State) (scr : Bool) (l v : Nat), QueueReady s .s (.vrdm o) → o.b.getLsbD 5 = true →
    scr = decide (o.space = .scratch) → s.memory.wf = true → vecAddr o s scr false 0 % (o.ty.bits / 8) = 0 →
    (scr = true → ScratchOk s (vecAddr o s true false 0) (o.ty.bits / 8) l) →
    (scr = false → s.launch.det = false ∧ l + o.ty.bits / 8 ≤ 2 ^ 48
      ∧ (∀ plain, s.locsOf .atomic false plain (bytesAt (vecAddr o s false false 0) (o.ty.bits / 8))
          = .ok (bytesAt l (o.ty.bits / 8)))
      ∧ ReadsAtOnce s (bytesAt (vecAddr o s false false 0) (o.ty.bits / 8)) (bytesAt l (o.ty.bits / 8))) →
    canonTree (treeCombine (vrdmFn o) o) 16 (((List.range (2 ^ o.w.toNat * 2048 / o.ty.bits)).filter fun i =>
      activeAt s o.k o.w o.ty.bits i).map (vElem s o.d o.ty.bits)) = some v →
    Completes (.vrdm o) s fun t => ∃ u, EngineResult s t u .s (.vrdm o) ∧ CombineKept s u
      ∧ u.ret = s.ret ∧ u.nextRet = s.nextRet
      ∧ (if scr then u.memory.home = s.memory.home else u.memory.scratch = s.memory.scratch)
      ∧ let m := if scr then s.memory.scratch else s.memory.home
        let m' := if scr then u.memory.scratch else u.memory.home
        (∃ x new : BitVec o.ty.bits, x.toNat = wordAt m l (o.ty.bits / 8) ∧ new.toNat = wordAt m' l (o.ty.bits / 8)
          ∧ vecRule o.ty ([0, 5, 6, 2, 3, 4].getD (o.b.toNat % 8) 0) o.ty.bits x (BitVec.ofNat o.ty.bits v) new)
        ∧ ∀ a, a ∉ bytesAt l (o.ty.bits / 8) → Mem.read m' a = Mem.read m a

/-- TagIssue (R73): the tag counts one operation more, and the first one clears its RDY and ERR. -/
def TagIssued (s u : State) (tag : Nat) : Prop :=
  (∀ n : Nat, u.tags.out[n]? = if n = tag then s.tags.out[n]?.map (· + 1) else s.tags.out[n]?)
  ∧ ∀ n < 64, u.tags.rdy.getLsbD n = (s.tags.rdy.getLsbD n && !(decide (n = tag) && decide (s.tags.out[n]? = some 0)))
    ∧ u.tags.err.getLsbD n = (s.tags.err.getLsbD n && !(decide (n = tag) && decide (s.tags.out[n]? = some 0)))

/-- R323 to R325: a vector access whose elements are not aligned does nothing and halts its queue at its entry, with MISALIGN and
the lowest active address; the sequencer goes on. -/
def VectorFaultsHaltTheQueue : Prop :=
  ∀ row ∈ [(Instr.vld, Queue.l, false), (.vlds, .l, true), (.vst, .s, false), (.vsts, .s, true)], ∀ (o : MOp) (s : State) (i : Nat),
    QueueReady s row.2.1 (row.1 o) → s.status ≠ .killed → wordActive o s i → (∀ j, wordActive o s j → i ≤ j) →
    vecAddr o s row.2.2 false 0 % (o.ty.bits / 8) ≠ 0 →
    vecAddr o s row.2.2 false 0 + 2 ^ o.w.toNat * 256 ≤ 2 ^ 32 →
    Completes (row.1 o) s fun t =>
      (∃ e : Entry, (t.queue row.2.1).entries = [e] ∧ e.instr = row.1 o ∧ e.pc = s.pc)
      ∧ (t.queue row.2.1).halt
        = some ⟨⟨.misalign, 0, BitVec.ofNat 64 (vecAddr o s row.2.2 false i)⟩, 0, s.trap.tl, s.queues.halts, none⟩
      ∧ (t.queue row.2.1).qfpc = s.pc
      ∧ t = { s with
          queues := t.queues, memory := { s.memory with failed := [] }, pc := s.pc + 8, isn := s.isn + 1
          wait := none, waitClk := 0 }

/-- R229: the shape that a shape word names: rows, bytes of a row and stride; zero names the default tile. -/
def TileShapeOf (w : Word) (rows bytes : Nat) (stride : Int) : Prop :=
  if w = 0 then rows = 16 ∧ bytes = 128 ∧ stride = 128
  else rows = w.toNat % 4096 ∧ bytes = 16 * (w.toNat / 4096 % 4096) ∧ stride = (w.extractLsb' 32 32).toInt
    ∧ 0 < rows ∧ 0 < bytes ∧ w.toNat / 2 ^ 24 % 256 = 0 ∧ rows * bytes ≤ 32768

/-- R230: the virtual address of byte p of a dense tile in global space. -/
def tileVa (o : MOp) (s : State) (bytes : Nat) (stride : Int) (p : Nat) : Nat :=
  ((((s.getReg o.a).toNat : Int) + (p / bytes : Nat) * stride) % ((2 ^ 64 : Nat) : Int)).toNat + p % bytes

/-- A tile in global space passes its checks (R112, R113, R229 to R231): its rows and its scratchpad address are multiples of 16,
its lines are 256 at most, and its pages are of one mode that is not 5; byte p stands at location `at p` of this device and
at `key + p` of the scratchpad. -/
def TileAt (o : MOp) (s : State) (k : Access) (rows bytes : Nat) (stride : Int) (key : Nat) (at_ : Nat → Nat) : Prop :=
  TileShapeOf (s.getReg (o.imm.extractLsb' 6 6)) rows bytes stride ∧ o.space = .global
  ∧ (s.getReg o.d).toNat % 16 = 0 ∧ ScratchOk s ((s.getReg o.d).toNat % 2 ^ 32) (rows * bytes) key
  ∧ (∀ r < rows, tileVa o s bytes stride (r * bytes) % 16 = 0)
  ∧ ((List.range (rows * bytes)).map fun p => tileVa o s bytes stride p / 128).eraseDups.length ≤ 256
  ∧ ∃ mode, mode ≠ 5 ∧ ∀ p < rows * bytes, tileVa o s bytes stride p < 2 ^ 52 ∧ at_ p < 2 ^ 48
      ∧ (∀ plain, s.locOf k false plain (tileVa o s bytes stride p) = .ok (at_ p))
      ∧ ∃ leaf size, s.leafOf (tileVa o s bytes stride p / 65536 * 65536) = .ok (leaf, size) ∧ Leaf.mode leaf = mode

/-- The reads of a tile are answered at once. -/
def TileReads (o : MOp) (s : State) (rows bytes : Nat) (stride : Int) (at_ : Nat → Nat) : Prop :=
  let vas := (List.range (rows * bytes)).map (tileVa o s bytes stride)
  let locs := (List.range (rows * bytes)).map at_
  ReadsAtOnce s vas locs ∧ (o.ord = .plain → s.fillPending vas = false ∧ s.atomicInFlight locs = false)

/-- A place after a dense tile was stored in ascending order. -/
def TileStored {α : Type} (s : State) (n key : Nat) (at_ : Nat → Nat) (before after : Nat → α) (put : Byte → α) : Prop :=
  (∀ p < n, (∀ p', p < p' → p' < n → at_ p' ≠ at_ p) → after (at_ p) = put (Mem.read s.memory.scratch (key + p)))
  ∧ ∀ l, (∀ p < n, at_ p ≠ l) → after l = before l

/-- R91, R230, R231: tile loads and stores in global space: TLD brings the bytes of its rows, by plain or by immediate reads, to
one run of scratchpad; TST stages them, or stores them at their homes with `.i` and in tail mode. -/
def TileLoadsAndStores : Prop :=
  (∀ (o : MOp) (s : State) (rows bytes key : Nat) (stride : Int) (at_ : Nat → Nat), QueueReady s .l (.tld o) →
    TileAt o s .load rows bytes stride key at_ → TileReads o s rows bytes stride at_ → Mem.wf s.memory.scratch = true →
    Completes (.tld o) s fun t => ∃ v x u, MemNoted s v ∧ EngineResult s t u .l (.tld o)
      ∧ (if o.ord = .imm then x = { v with revocable := false, seen := x.seen } else Touched v x)
      ∧ u = { x with memory := { x.memory with scratch := u.memory.scratch, scrPoison := u.memory.scrPoison } }
      ∧ (∀ p < rows * bytes, Mem.read u.memory.scratch (key + p) = (if o.ord = .imm then Mem.read s.memory.home (at_ p)
          else (Overlay.get? s.memory.own (at_ p)).getD (Mem.read s.memory.snap (at_ p))))
      ∧ ∀ l, l < key ∨ key + rows * bytes ≤ l → Mem.read u.memory.scratch l = Mem.read s.memory.scratch l)
  ∧ (∀ (o : MOp) (s : State) (rows bytes key : Nat) (stride : Int) (at_ : Nat → Nat), QueueReady s .s (.tst o) →
    TileAt o s .store rows bytes stride key at_ → s.memory.wf = true →
    (o.ord = .plain → s.launch.header.tailm = false → (∀ locs, locs.length ≤ rows * bytes → s.stagingFull locs = false) →
      Completes (.tst o) s fun t => ∃ v u, MemNoted s v ∧ EngineResult s t u .s (.tst o)
        ∧ OwnWritten { v with memory := { v.memory with staging := u.memory.staging } } u
        ∧ TileStored s (rows * bytes) key at_ (Overlay.get? s.memory.staging) (Overlay.get? u.memory.staging) some
        ∧ TileStored s (rows * bytes) key at_ (Overlay.get? s.memory.own) (Overlay.get? u.memory.own) some)
    ∧ (o.ord = .imm ∨ s.launch.header.tailm = true → StacksReady s ((List.range (rows * bytes)).map at_) →
      Completes (.tst o) s fun t => ∃ v w u, MemNoted s v ∧ EngineResult s t u .s (.tst o)
        ∧ Installed { v with revocable := false, seen := u.seen } w ∧ OwnWritten w u
        ∧ TileStored s (rows * bytes) key at_ (Mem.read s.memory.home) (Mem.read u.memory.home) id
        ∧ TileStored s (rows * bytes) key at_ (Overlay.get? s.memory.own) (Overlay.get? u.memory.own) some))

/-- R161, R232: TACC adds every 32-bit element of its scratchpad tile to the element at its place at the homes, integers modulo
2^32, f32 with one rounding; the places are distinct and the launch is not DET. -/
def TileAdditions : Prop :=
  ∀ (o : MOp) (s : State) (rows bytes key : Nat) (stride : Int) (at_ : Nat → Nat), QueueReady s .s (.tacc o) →
    TileAt o s .store rows bytes stride key at_ → TileReads o s rows bytes stride at_ → s.memory.wf = true →
    s.launch.det = false → (∀ p < rows * bytes, ∀ q < rows * bytes, at_ p = at_ q → p = q) →
    (∀ p < rows * bytes, at_ p = at_ (4 * (p / 4)) + p % 4) →
    Completes (.tacc o) s fun t => ∃ v w u, MemNoted s v ∧ EngineResult s t u .s (.tacc o)
      ∧ Installed { v with revocable := false, seen := u.seen } w ∧ OwnWritten w u
      ∧ (∀ e, 4 * e < rows * bytes → ∃ x new : BitVec 32, x.toNat = wordAt s.memory.home (at_ (4 * e)) 4
          ∧ new.toNat = wordAt u.memory.home (at_ (4 * e)) 4
          ∧ vecRule o.ty 0 32 x (BitVec.ofNat 32 (wordAt s.memory.scratch (key + 4 * e) 4)) new)
      ∧ ∀ l, (∀ p < rows * bytes, at_ p ≠ l) → Mem.read u.memory.home l = Mem.read s.memory.home l

/-- R229 to R231: an illegal shape word of a tile instruction traps UNDEF 10 at issue, and a misaligned scratchpad address halts
the queue. -/
def TileFaults : Prop :=
  ∀ row ∈ [(Instr.tld, Queue.l), (.tst, .s), (.tacc, .s)], ∀ (o : MOp) (s : State),
    ((∀ rows bytes stride, ¬ TileShapeOf (s.getReg (o.imm.extractLsb' 6 6)) rows bytes stride) → CanTrap s →
      namesOk s.launch.header (row.1 o) = true → Traps (row.1 o) s .undef 10 0)
    ∧ (∀ rows bytes stride, QueueReady s row.2 (row.1 o) → s.status ≠ .killed →
      TileShapeOf (s.getReg (o.imm.extractLsb' 6 6)) rows bytes stride → (s.getReg o.d).toNat % 16 ≠ 0 →
      Completes (row.1 o) s fun t => (t.queue row.2).halt
          = some ⟨⟨.misalign, 0, BitVec.ofNat 64 ((s.getReg o.d).toNat % 2 ^ 32)⟩, 0, s.trap.tl, s.queues.halts, none⟩
        ∧ (t.queue row.2).qfpc = s.pc
        ∧ t = { s with
            queues := t.queues, memory := { s.memory with failed := [] }, pc := s.pc + 8, isn := s.isn + 1
            wait := none, waitClk := 0 })

/-- A map that splits no dimension, with no halo and no padding (R88). -/
def Unsplit (t : TensorMap) : Prop :=
  t.desc.layout = 0 ∧ ∀ d < t.desc.ndim, t.desc.map.dims[d]? = some ⟨7, 7, 0, 0, 0, 0⟩

/-- The core holds its cluster's lease (R216). -/
def LeaseHeld (s : State) : Prop := s.matrix.holder = some (BitVec.ofNat 2 s.core.toNat)

/-- R220, R131: `n` rows or columns of `sz` bytes at a stride from a scratchpad address, or, zero-suppressed, cut from the expanded
stream. -/
def OperandAt (s : State) (a n sz st : Nat) (zs : Bool) (bs : List Byte) : Prop :=
  if zs then ∃ all s', expandLines s (((n - 1) * st + sz + 127) / 128) a = .ok all s'
    ∧ bs = (List.range n).flatMap fun i => (all.drop (i * st)).take sz
  else bs.length = n * sz ∧ ∀ i < n, ∃ key, ScratchOk s ((a + i * st) % 2 ^ 32) sz key
    ∧ ∀ j < sz, bs.getD (i * sz + j) 0 = Mem.read s.memory.scratch (key + j)

/-- The oldest word of the format queue is the instruction's own (R177, R215). -/
def FormatNext (s : State) (f : FmtEntry) (rest : List FmtEntry) : Prop :=
  s.fmt = f :: rest ∧ (∀ x ∈ s.fmt, x.matched = false) ∧ ∀ x ∈ rest, x.id ≠ f.id

/-- R217: one tile command counts, and the LEASE-th ends the lease. -/
def TileCounted (s u : State) : Prop :=
  u.matrix.used = s.matrix.used + 1
  ∧ u.matrix.holder = (if s.launch.header.lease ≤ s.matrix.used + 1 then none else s.matrix.holder)

/-- R216, R217, R219: MLEASE ends where the core holds the lease, and MREL gives it back; neither does anything else. -/
def LeaseAndRelease : Prop :=
  (∀ (o : EOp) (s : State), QueueReady s .c (.mlease o) → s.launch.header.lease ≠ 0 → LeaseHeld s →
    Completes (.mlease o) s fun t => EngineResult s t s .c (.mlease o))
  ∧ (∀ (o : EOp) (s : State), QueueReady s .c (.mrel o) →
    Completes (.mrel o) s fun t => EngineResult s t
      { s with matrix := { s.matrix with
          holder := if s.matrix.holder = some (BitVec.ofNat 2 s.core.toNat) then none else s.matrix.holder } } .c (.mrel o))
  ∧ (∀ row ∈ [Instr.mlease, .mldb, .mma], ∀ (o : EOp) (s : State), CanTrap s → namesOk s.launch.header (row o) = true →
    s.launch.header.lease = 0 → Traps (row o) s .undef 8 0)
  ∧ (∀ row ∈ [Instr.mldb, .mma], ∀ (o : EOp) (s : State), CanTrap s → namesOk s.launch.header (row o) = true →
    s.launch.header.lease ≠ 0 → s.queues.c.entries = [] → s.queues.c.table = none → (∀ f ∈ s.fmt, f.matched = true) →
    Traps (row o) s .fmtunder 0 0)

/-- R215, R220, R221: MLDB takes its format word, fills the named weight buffer with 256 columns, which records what it was loaded
with and belongs to this core, and counts one tile command. -/
def WeightLoads : Prop :=
  ∀ (o : EOp) (s : State) (f : FmtEntry) (rest : List FmtEntry) (cols : List Byte) (k st : Nat), QueueReady s .c (.mldb o) →
    s.launch.header.lease ≠ 0 → LeaseHeld s → FormatNext s f rest → badForLoad (FormatWord.ofBits f.word) = false →
    let w := FormatWord.ofBits f.word
    let a := (s.getReg o.a).toNat % 2 ^ 32
    a % 4 = 0 → (s.getReg o.b).toNat = k + st * 2 ^ 16 → k < 2 ^ 9 → st < 2 ^ 16 →
    depthOk w.btype w.bsc (blockSize w) k = true → strideOk st (lineBytes w.btype w.bsc (blockSize w) k) w.bzs = true →
    OperandAt s a 256 (lineBytes w.btype w.bsc (blockSize w) k) st w.bzs cols →
    Completes (.mldb o) s fun t => ∃ u, EngineResult s t u .c (.mldb o) ∧ TileCounted s u
      ∧ u = { s with fmt := rest, matrix := { s.matrix with
          used := u.matrix.used, holder := u.matrix.holder, bufs := u.matrix.bufs } }
      ∧ ∀ n : Nat, u.matrix.bufs[n]? = if n = (if o.alt then 1 else 0)
          then some ⟨some (BitVec.ofNat 2 s.core.toNat), a, k, st, f.word, cols⟩ else s.matrix.bufs[n]?

/-- R134: one element of an accumulator after a product of depth k: for the integer class the sum of products is added modulo
2^32; otherwise the blocks' exact sums, scaled and added one after the other with a rounding each. -/
def ProductRule (f b : FormatWord) (k sza szb i n : Nat) (rows cols : List Byte) (x new : Nat) : Prop :=
  if matClass f.atype = some .int then
    (new : Int) = (x + ((List.range k).map fun j => laneInt f.atype (((rows.drop (i * sza)).take sza).getD j 0).toNat
      * laneInt b.btype (((cols.drop (n * szb)).take szb).getD j 0).toNat).sum) % ((2 ^ 32 : Nat) : Int)
  else new = accFloat (rowBlocks f.atype f.asc f.spec (blockSize f) k ((rows.drop (i * sza)).take sza))
    (rowBlocks b.btype b.bsc b.spec (blockSize f) k ((cols.drop (n * szb)).take szb)) (productScale f b) x

/-- R134, R215, R222: MMA adds the product of M rows and the 256 columns of its weight buffer to the accumulator in the core's own
scratchpad, and counts one tile command; no other byte of the scratchpad differs. -/
def MatrixProducts : Prop :=
  ∀ (o : EOp) (s : State) (f : FmtEntry) (rest : List FmtEntry) (buf : WeightBuf) (rows : List Byte) (m st key : Nat),
    QueueReady s .c (.mma o) → s.launch.header.lease ≠ 0 → LeaseHeld s → FormatNext s f rest →
    s.matrix.bufs[if o.alt then 1 else 0]? = some buf → buf.owner = some (BitVec.ofNat 2 s.core.toNat) →
    let w := FormatWord.ofBits f.word
    let b := FormatWord.ofBits buf.word
    let d := (s.getReg o.d).toNat % 2 ^ 32
    let a := (s.getReg o.a).toNat % 2 ^ 32
    let sza := lineBytes w.atype w.asc (blockSize w) buf.k
    badForProduct w (some b) = false → matClass w.atype = matClass b.btype → w.b16 = b.b16 → w.spec = b.spec →
    d % 64 = 0 → d / 2 ^ 23 % 2 = 0 → 1 ≤ m → m ≤ 256 → a % 4 = 0 → st < 2 ^ 16 →
    (s.getReg o.b).toNat = m + st * 2 ^ 16 → depthOk w.atype w.asc (blockSize w) buf.k = true →
    strideOk st sza w.azs = true → (∀ r ∈ s.matrix.invalid, d + 1024 * m ≤ r.1 ∨ r.1 + r.2 ≤ d) →
    OperandAt s a m sza st w.azs rows → ScratchOk s d (1024 * m) key → Mem.wf s.memory.scratch = true →
    Completes (.mma o) s fun t => ∃ u, EngineResult s t u .c (.mma o) ∧ TileCounted s u
      ∧ u = { s with
          fmt := rest, matrix := { s.matrix with used := u.matrix.used, holder := u.matrix.holder }
          memory := { s.memory with scratch := u.memory.scratch, scrPoison := u.memory.scrPoison } }
      ∧ (∀ i < m, ∀ n < 256, ProductRule w b buf.k sza (lineBytes b.btype b.bsc (blockSize w) buf.k) i n rows buf.cols
          (wordAt s.memory.scratch (key + 1024 * i + 4 * n) 4) (wordAt u.memory.scratch (key + 1024 * i + 4 * n) 4))
      ∧ ∀ l, l < key ∨ key + 1024 * m ≤ l → Mem.read u.memory.scratch l = Mem.read s.memory.scratch l

/-- R223, R224: MZERO clears its accumulator and forgets every invalid range that lies wholly within it. -/
def AccumulatorsAreCleared : Prop :=
  ∀ (o : EOp) (s : State) (m key : Nat), QueueReady s .c (.mzero o) →
    let d := (s.getReg o.d).toNat % 2 ^ 32
    d % 64 = 0 → d / 2 ^ 23 % 2 = 0 → 1 ≤ m → m ≤ 256 → (s.getReg o.b).toNat % 2 ^ 16 = m → (s.getReg o.b).toNat < 2 ^ 32 →
    ScratchOk s d (1024 * m) key → Mem.wf s.memory.scratch = true →
    Completes (.mzero o) s fun t => ∃ u, EngineResult s t u .c (.mzero o)
      ∧ u = { s with
          matrix := { s.matrix with invalid := u.matrix.invalid }
          memory := { s.memory with scratch := u.memory.scratch, scrPoison := u.memory.scrPoison } }
      ∧ (∀ r, r ∈ u.matrix.invalid ↔ r ∈ s.matrix.invalid ∧ (r.1 < d ∨ d + 1024 * m < r.1 + r.2))
      ∧ (∀ i < 1024 * m, Mem.read u.memory.scratch (key + i) = 0)
      ∧ ∀ l, l < key ∨ key + 1024 * m ≤ l → Mem.read u.memory.scratch l = Mem.read s.memory.scratch l

/-- R237: the bytes of a record: its header word, its payload, and zeros to a multiple of 4. -/
def RecordIs (kind slot w codec : Nat) (payload bs : List Byte) : Prop :=
  ∃ pad, pad < 4 ∧ (payload.length + pad) % 4 = 0
    ∧ bs = natToBytes 4 (kind + slot * 16 + w * 256 + codec * 1024 + payload.length * 4096) ++ payload ++ List.replicate pad 0

/-- R237: the bytes of a checkpoint record: the pc after the instruction, the mask without s0, the label, the segment, and the
masked registers in ascending order. -/
def CheckpointIs (s : State) (mask : Word) (label seg : Nat) (bs : List Byte) : Prop :=
  RecordIs 2 0 0 0 (natToBytes 8 (s.pc + 8).toNat ++ natToBytes 8 (mask.toNat / 2 * 2) ++ natToBytes 2 label
    ++ natToBytes 2 seg ++ [0, 0, 0, 0]
    ++ ((List.range 64).filter fun i => i ≠ 0 ∧ mask.getLsbD i).flatMap fun i =>
        natToBytes 8 (s.getReg (BitVec.ofNat 6 i)).toNat) bs

/-- R237, R238: a record that the current frame has room for stands last in it; `upd` is what else of the Reel differs. -/
def Recorded (s u : State) (bs : List Byte) (upd : ReelState → ReelState) : Prop :=
  u = { s with reel := upd { s.reel with
    frame := s.reel.frame ++ bs, nrec := s.reel.nrec + 1, pos := s.reel.start + 16 + (s.reel.frame ++ bs).length } }

/-- The current frame has room for so many bytes more (R236, R238). -/
def FrameRoom (s : State) (n : Nat) : Prop :=
  s.reel.start + 16 + s.reel.frame.length + n ≤ s.reel.frameEnd s.reel.start

/-- R234, R235: RLOPEN opens a closed Reel for recording on a tape of TAPE / 2^shift bytes, whose first record is a checkpoint
with label and segment 0; the first frame has room for it. -/
def ReelOpens : Prop :=
  ∀ (o : EOp) (s : State) (bs : List Byte) (q : Nat), QueueReady s .c (.rlopen o) → s.reel.mode = .closed →
    s.launch.header.tape ≠ 0 → q = s.launch.header.tape / 2 ^ (o.imm.toNat / 4 % 16) →
    (s.getReg o.a).toNat % 4096 = 0 → (o.imm.toNat % 4 = 0 → s.getReg o.b ≠ 0 ∧ (s.getReg o.b).toNat % 4096 = 0) →
    (∀ x, ((s.getReg o.a).toNat ≤ x ∧ x < (s.getReg o.a).toNat + q)
        ∨ (o.imm.toNat % 4 = 0 ∧ (s.getReg o.b).toNat ≤ x ∧ x < (s.getReg o.b).toNat + q) →
      (∃ l, s.locOf .store true true x = .ok l)
      ∧ ∃ leaf size, s.leafOf x = .ok (leaf, size) ∧ Leaf.pk leaf = false ∧ (Leaf.mode leaf = 0 ∨ Leaf.mode leaf = 4)) →
    CheckpointIs s (s.getReg (o.imm.extractLsb' 6 6)) 0 0 bs → 16 + bs.length ≤ min q 16384 →
    Completes (.rlopen o) s fun t => EngineResult s t
      { s with reel := { ReelState.reset with
          mode := .recording, pol := o.imm.setWidth 2, quota := q, tape := (s.getReg o.a).toNat, frame := bs
          spillVa := (s.getReg o.b).toNat, nrec := 1, pos := 16 + bs.length } } .c (.rlopen o)

/-- R234, R237: while recording, with room in the frame, RLREC appends the value of its group (once
RECOMP drops values, an empty record), RLBR the runs of its mask and RLMARK
a checkpoint with its label that begins the next segment; while playing they do nothing. -/
def ReelRecords : Prop :=
  (∀ (o : EOp) (s : State) (v bs : List Byte), QueueReady s .c (.rlrec o) → s.reel.mode = .recording →
    v.length = 256 * 2 ^ o.w.toNat → (∀ i < v.length, (v.getD i 0).toNat = vElem s o.a 8 i) →
    bs = valRecord (o.imm.toNat % 16) o.w.toNat v s.reel.lastVals → FrameRoom s bs.length →
    (s.reel.pol = 1 → s.reel.drop = false
      ∧ s.reel.start + 16 + s.reel.frame.length + bs.length ≤ 15 * s.reel.quota / 16) →
    ((∀ x ∈ s.reel.lastVals, x.1 ≠ o.imm.toNat % 16) → RecordIs 0 (o.imm.toNat % 16) o.w.toNat 0 v bs)
    ∧ Completes (.rlrec o) s fun t => ∃ u, EngineResult s t u .c (.rlrec o)
      ∧ Recorded s u bs fun r => { r with
          lastVals := (o.imm.toNat % 16, o.w.toNat, v) :: r.lastVals.filter fun x => x.1 ≠ o.imm.toNat % 16 })
  ∧ (∀ (o : EOp) (s : State) (bs : List Byte), QueueReady s .c (.rlrec o) → s.reel.mode = .recording → s.reel.pol = 1 →
    s.reel.drop = true → RecordIs 0 (o.imm.toNat % 16) o.w.toNat 3 [] bs → FrameRoom s bs.length →
    Completes (.rlrec o) s fun t => ∃ u, EngineResult s t u .c (.rlrec o) ∧ Recorded s u bs id)
  ∧ (∀ (o : EOp) (s : State), QueueReady s .c (.rlbr o) → s.reel.mode = .recording →
    FrameRoom s (maskRecord (s.kreg o.a.toNat)).length →
    Completes (.rlbr o) s fun t => ∃ u, EngineResult s t u .c (.rlbr o) ∧ Recorded s u (maskRecord (s.kreg o.a.toNat)) id)
  ∧ (∀ (o : EOp) (s : State) (bs : List Byte), QueueReady s .c (.rlmark o) → s.reel.mode = .recording →
    CheckpointIs s (s.getReg o.a) o.imm.toNat ((s.reel.seg + 1) % 65536) bs → FrameRoom s bs.length →
    Completes (.rlmark o) s fun t => ∃ u, EngineResult s t u .c (.rlmark o)
      ∧ Recorded s u bs fun r => { r with seg := (s.reel.seg + 1) % 65536 })
  ∧ (∀ row ∈ [Instr.rlrec, .rlbr, .rlmark], ∀ (o : EOp) (s : State), QueueReady s .c (row o) → s.reel.mode = .playing →
    Completes (row o) s fun t => EngineResult s t s .c (row o))

/-- R235, R236, R238: a record that the frame has no room for closes the frame, whose bytes go to their homes, and opens the next;
RLSEAL writes the last frame and seals the tape; RLCLOSE closes the Reel in any state. -/
def ReelFrames : Prop :=
  (∀ (o : EOp) (s : State) (locs : List Nat), QueueReady s .c (.rlbr o) → s.reel.mode = .recording →
    let b := maskRecord (s.kreg o.a.toNat)
    let next := s.reel.frameEnd s.reel.start
    let closed := s.reel.closed false
    ¬ FrameRoom s b.length → s.reel.hasFrame next = true → next + 16 + b.length ≤ s.reel.frameEnd next →
    s.memory.wf = true → s.locsOf .store false false (bytesAt (s.reel.vaOf s.reel.start) closed.length) = .ok locs →
    locs.Nodup → (∀ l ∈ locs, l < 2 ^ 48) → StacksReady s locs →
    Completes (.rlbr o) s fun t => ∃ u, EngineResult s t u .c (.rlbr o)
      ∧ WroteBytes (Mem.read s.memory.home) (Mem.read u.memory.home) locs closed
      ∧ ∃ x, Installed { s with revocable := false } x ∧ u = { x with
          reel := { s.reel with
            back := s.reel.vaOf s.reel.start, start := next, seg0 := s.reel.seg, nrec := 1, frame := b, lastVals := []
            pos := next + 16 + b.length, spill := s.reel.spill || decide (s.reel.quota ≤ next) } })
  ∧ (∀ (o : EOp) (s : State) (locs : List Nat), QueueReady s .c (.rlseal o) → s.reel.mode = .recording →
    s.memory.wf = true →
    s.locsOf .store false false (bytesAt (s.reel.vaOf s.reel.start) (s.reel.closed true).length) = .ok locs → locs.Nodup →
    (∀ l ∈ locs, l < 2 ^ 48) → StacksReady s locs →
    Completes (.rlseal o) s fun t => ∃ u, EngineResult s t u .c (.rlseal o)
      ∧ WroteBytes (Mem.read s.memory.home) (Mem.read u.memory.home) locs (s.reel.closed true)
      ∧ ∃ x, Installed { s with revocable := false } x ∧ u = { x with reel := { s.reel with mode := .sealed } })
  ∧ (∀ (o : EOp) (s : State), QueueReady s .c (.rlclose o) →
    Completes (.rlclose o) s fun t => EngineResult s t { s with reel := ReelState.reset } .c (.rlclose o))

/-- R234, R239: RLREV starts playback behind the last record of the sealed tape, in the segment of its last checkpoint; then each
serve takes the record before the cursor, in reverse: RLPOP a value, RLBRP a mask, RLREV a checkpoint that leads to the segment
before; RLCHK takes the segment's masks forwards. -/
def ReelPlaysInReverse : Prop :=
  (∀ (o : EOp) (s : State) (rs : List ReelRecord) (i : Nat), QueueReady s .c (.rlrev o) → s.reel.mode = .sealed → o.imm = 0 →
    readTape s s.reel (2 * s.reel.quota / 16384 + 4) 0 0 (some 0) ([], none) = (rs, none) →
    (rs[i]?).map (·.kind) = some 2 → (∀ j, i < j → (rs[j]?).map (·.kind) ≠ some 2) →
    Completes (.rlrev o) s fun t => EngineResult s t
      { s with reel := { s.reel with
          mode := .playing, records := rs, broken := none, cursor := rs.length, opening := some i, forward := i + 1 } }
      .c (.rlrev o))
  ∧ (∀ (o : EOp) (s : State) (x : ReelRecord) (i : Nat), QueueReady s .c (.rlrev o) → s.reel.mode = .playing →
    s.reel.nextAt = i + 1 → s.reel.records[i]? = some x → x.kind = 2 → x.label = o.imm.toNat → s.reel.opening = some i →
    ∀ j, j < i → (s.reel.records[j]?).map (·.kind) = some 2 → (∀ k, j < k → k < i → (s.reel.records[k]?).map (·.kind) ≠ some 2) →
    Completes (.rlrev o) s fun t => EngineResult s t
      { s with reel := { s.reel with cursor := i, opening := some j, forward := j + 1, seg := s.reel.seg - 1 } }
      .c (.rlrev o))
  ∧ (∀ (o : EOp) (s : State) (x : ReelRecord) (i : Nat), QueueReady s .c (.rlpop o) → s.reel.mode = .playing →
    s.reel.dropped = false → s.reel.cursor = i + 1 → s.reel.records[i]? = some x → x.kind = 0 → x.slot = o.imm.toNat % 16 →
    x.w = o.w.toNat →
    Completes (.rlpop o) s fun t => ∃ u, EngineResult s t u .c (.rlpop o)
      ∧ GroupWritten { s with reel := { s.reel with cursor := i } } u o.d (2 ^ o.w.toNat) 8 (256 * 2 ^ o.w.toNat)
          (fun j r f => f = 0 ∧ r = (x.value.getD j 0).toNat))
  ∧ (∀ (o : EOp) (s : State) (x : ReelRecord) (i : Nat), QueueReady s .c (.rlbrp o) → s.reel.mode = .playing →
    s.reel.nextAt = i + 1 → s.reel.records[i]? = some x → x.kind = 1 →
    Completes (.rlbrp o) s fun t => ∃ u, EngineResult s t u .c (.rlbrp o)
      ∧ MaskWritten { s with reel := { s.reel with cursor := i } } u o.d
          (fun j r => r = (x.value.getD (j / 8) 0).getLsbD (j % 8)))
  ∧ (∀ (o : EOp) (s : State) (x : ReelRecord) (i : Nat), QueueReady s .c (.rlchk o) → s.reel.mode = .playing →
    s.reel.forwardMask = some (i, x) → bytesToNat x.value = (s.kreg o.a.toNat).toNat →
    Completes (.rlchk o) s fun t => EngineResult s t { s with reel := { s.reel with forward := i + 1 } } .c (.rlchk o))

/-- R240: a serve that finds another record, another slot, width, label or mask, no record, or values that were dropped, writes no
register and moves no cursor: it sets REELST.DIV and halts the C queue with REELDIV, which also ends the core's lease (R217). -/
def ReelDiverges : Prop :=
  ∀ row ∈ [(Instr.rlpop, 0), (.rlbrp, 1), (.rlrev, 2), (.rlchk, 3)], ∀ (o : EOp) (s : State), QueueReady s .c (row.1 o) →
    s.status ≠ .killed → s.reel.mode = .playing → s.reel.broken = none →
    (row.2 = 0 → s.reel.dropped = true ∨ ∀ x, s.reel.next = some x →
      x.kind ≠ 0 ∨ x.slot ≠ o.imm.toNat % 16 ∨ x.w ≠ o.w.toNat) →
    (row.2 = 1 → ∀ x, s.reel.next = some x → x.kind ≠ 1) →
    (row.2 = 2 → ∀ x, s.reel.next = some x → x.kind ≠ 2 ∨ x.label ≠ o.imm.toNat) →
    (row.2 = 3 → ∀ i x, s.reel.forwardMask = some (i, x) → bytesToNat x.value ≠ (s.kreg o.a.toNat).toNat) →
    Completes (row.1 o) s fun t =>
      (t.queue .c).halt = some ⟨⟨.reeldiv, 0, 0⟩, 0, s.trap.tl, s.queues.halts, none⟩ ∧ (t.queue .c).qfpc = s.pc
      ∧ t = { s with
          queues := t.queues, reel := { s.reel with dv := true }, memory := { s.memory with failed := [] }
          matrix := { s.matrix with
            holder := if s.matrix.holder = some (BitVec.ofNat 2 s.core.toNat) then none else s.matrix.holder }
          pc := s.pc + 8, isn := s.isn + 1, wait := none, waitClk := 0 }

/-- R233, R240: RLSTAT puts the selected word to a new entry of the return queue: REELST, or while playing the values, pc and label of
the segment's checkpoint, and 0 in any other state. -/
def ReelStatus : Prop :=
  ∀ (o : EOp) (s : State), QueueReady s .c (.rlstat o) → s.ret.length < 32 → (∀ e ∈ s.ret, e.id ≠ s.nextRet) →
    Completes (.rlstat o) s fun t => ∃ v : Word, EngineResult s t
        { s with ret := s.ret ++ [⟨s.nextRet, false, some (.scalar v), none, none⟩], nextRet := s.nextRet + 1 } .c (.rlstat o)
      ∧ (o.imm = 0 → v.extractLsb' 0 2 = BitVec.ofNat 2 s.reel.mode.code ∧ v.extractLsb' 2 2 = s.reel.pol
          ∧ v.getLsbD 4 = (if s.reel.mode = .playing then s.reel.dropped else s.reel.drop) ∧ v.getLsbD 5 = s.reel.dv
          ∧ v.getLsbD 6 = s.reel.spill ∧ v.extractLsb' 16 16 = BitVec.ofNat 16 s.reel.seg
          ∧ v.extractLsb' 32 32 = BitVec.ofNat 32 s.reel.pos
          ∧ (s.reel.mode ≠ .playing ∨ s.reel.next = none → v.extractLsb' 8 4 = 15)
          ∧ (∀ x, s.reel.mode = .playing → s.reel.next = some x → v.extractLsb' 8 4 = BitVec.ofNat 4 x.kind))
      ∧ (o.imm ≠ 0 → s.reel.mode ≠ .playing → v = 0)
      ∧ (∀ i c, o.imm ≠ 0 → s.reel.mode = .playing → s.reel.opening = some i → s.reel.records[i]? = some c →
          v = if o.imm = 0x40 then c.pc else if o.imm = 0x41 then BitVec.ofNat 64 c.label else c.scalar o.imm.toNat)

/-- An instruction of the sequencer of two words has ended; `u` has its effect. -/
def Issued (s t u : State) : Prop := t = { u with pc := s.pc + 8, isn := s.isn + 1, wait := none, waitClk := 0 }

/-- R243, R245, R246: the command that a copy of template `t` gives with these operands passes its issue checks: its tag, its
multicast group, its descriptor where the far side is a tensor, and its box in scratchpad; and the channel, the stream queue
and its tag have room. -/
def CopyOk (s : State) (n : Nat) (t : Template) (sa sb sc : Word) (tag : BitVec 6) (c : CopyCmd) : Prop :=
  tag.toNat < s.launch.header.ntag ∧ s.launch.tables.templates[n]? = some t ∧ sc.toNat < 2 ^ 16
  ∧ (t.mc = true → (s.channel.table.entries.getD t.mcg 0).getLsbD 0 = true ∧ sb.getLsbD 23 = false
      ∧ s.channel.table.quiesced.getLsbD t.mcg = false)
  ∧ c = { id := s.channel.nextId, tpl := t, sa := sa, sb := sb, n3 := if sc = 0 then t.n[3] else sc.toNat, es := c.es, tag := tag,
          isn := s.isn, mcast := if t.mc then s.channel.table.entries.getD t.mcg 0 else 0, helper := false, term := false
          started := false, moved := 0, ended := false, fault := none, left := 0, ws := [] }
  ∧ (t.far ≠ 2 → c.es = 1)
  ∧ (t.far = 2 → ∃ d, s.memory.descs.find? (fun x => x.id = t.fbase.toNat % 4096) = some d
      ∧ (Desc.ofBytes d.bytes).valid = true ∧ (Desc.ofBytes d.bytes).code ≤ 12 ∧ c.es = (Desc.ofBytes d.bytes).dtype.bits / 8
      ∧ ((Desc.ofBytes d.bytes).ndim ≤ 3 → c.n3 = 1)
      ∧ ∀ k < 3, (Desc.ofBytes d.bytes).ndim ≤ k → t.n.toList.getD k 1 = 1)
  ∧ (∀ r ∈ copyRows c, ∃ key, ScratchOk s (copyScr c r) (copyRowBytes c) key)
  ∧ (copiesHeld s).length < 32 ∧ (t.fgr = true → s.grid.queue.length < 16) ∧ (s.tags.out[tag.toNat]'tag.isLt) < 255

/-- The copy is the channel's, or with a graph the stream queue's (R245, R251). -/
def CopyStarted (s u : State) (c : CopyCmd) : Prop :=
  TagIssued s u c.tag.toNat
  ∧ u = { s with
      tags := u.tags
      channel := { s.channel with
        nextId := s.channel.nextId + 1, cmds := if c.tpl.fgr then s.channel.cmds else s.channel.cmds ++ [c] }
      grid := { s.grid with queue := if c.tpl.fgr
        then s.grid.queue ++ [⟨c.tpl.graph, .routed c, c.tag, c.isn, c.term⟩] else s.grid.queue } }

/-- The helper goes on at an address, or stops there after HSTOP (R253). -/
def Helper.went (h : Helper) (pc : Word) : Helper :=
  if h.stopping then { h with pc := pc, running := false, stopping := false, counters := [], issued := [] } else { h with pc := pc }

/-- R253, R254, R326: HSEQ starts the idle helper at its address with its offsets; HSTOP stops it; both report a fault of it as
QFAULT with queue 3. -/
def HelperControl : Prop :=
  (∀ (o : AOp) (s : State), s.regsOk [o.a, o.b, o.c] = true → s.helper.fault = none → s.helper.running = false →
    (s.getReg o.a).toNat % 4 = 0 →
    Completes (.hseq o) s fun t => Issued s t { s with
      helper := ⟨true, false, s.getReg o.a, #v[s.getReg o.b, s.getReg o.c, 0, 0], [], [], none⟩ })
  ∧ (∀ s : State, s.helper.fault = none → (s.helper.running = false ∨ helperWaits s = false) →
    Completes .hstop s fun t => Issued s t { s with
      helper := { s.helper with running := false, stopping := false, counters := [], issued := [] } })
  ∧ (∀ (i : Instr) (s : State) (f : Trap), CanTrap s → s.helper.fault = some f →
    i = .hstop ∨ (∃ o : AOp, i = .hseq o ∧ s.regsOk [o.a, o.b, o.c] = true) →
    Completes i s fun t => TookTrap { s with
        helper := { s.helper with running := false, stopping := false, counters := [], issued := [], fault := none } }
      t 0x20 s.pc f.va (BitVec.ofNat 22 (f.cause.code.toNat + f.detail % 16 * 0x100 + 0x3000)) s.keptWait)

/-- The helper runs its words: the task is in focus, and no pre-emption has halted or saved it (R110, R276). -/
def HelperLive (s : State) : Prop :=
  s.helper.running = true ∧ s.status ≠ .none ∧ s.status ≠ .halted ∧ s.status ≠ .saved

/-- R254: the words of a running helper program. -/
def HelperWords : Prop :=
  (∀ (tpl : BitVec 5) (tag : BitVec 6) (oe : Bool) (reg : BitVec 2) (s : State) (t : Template) (c : CopyCmd),
    HelperLive s → CopyOk s tpl.toNat t (if oe then s.helper.offs[reg.toNat]'reg.isLt else 0) 0 0 tag c →
    Completes (.hcpy tpl tag oe reg) s fun x => ∃ u : State, CopyStarted s u { c with helper := true }
      ∧ x = { u with helper :=
          Helper.went { s.helper with issued := s.helper.issued ++ [c.id] } (s.helper.pc + 4) })
  ∧ (∀ (tag : BitVec 6) (s : State), HelperLive s → tag.toNat < s.launch.header.ntag →
    Completes (.hwtag tag) s fun x => x = if s.tags.rdy.getLsbD tag.toNat
      then { s with helper := s.helper.went (s.helper.pc + 4) } else s)
  ∧ (∀ (reg : BitVec 2) (inc : BitVec 26) (s : State), HelperLive s →
    Completes (.hadd reg inc) s fun x => ∃ offs, x = { s with
        helper := Helper.went { s.helper with offs := offs } (s.helper.pc + 4) }
      ∧ ∀ n : Nat, offs[n]? = if n = reg.toNat then s.helper.offs[n]?.map (· + inc.signExtend 64) else s.helper.offs[n]?)
  ∧ (∀ (back : BitVec 8) (cnt : BitVec 20) (s : State), HelperLive s → back ≠ 0 →
    let others := s.helper.counters.filter fun c => c.1 ≠ s.helper.pc.toNat
    let round (n : Nat) (x : State) : Prop := x = { s with
      helper := if 0 < n then Helper.went { s.helper with counters := (s.helper.pc.toNat, n - 1) :: others }
          (s.helper.pc - BitVec.ofNat 64 (4 * back.toNat))
        else Helper.went { s.helper with counters := others } (s.helper.pc + 4) }
    ((∀ c ∈ s.helper.counters, c.1 ≠ s.helper.pc.toNat) → cnt ≠ 0 → s.helper.counters.length < 4 →
      Completes (.hloop back cnt) s (round (cnt.toNat - 1)))
    ∧ ∀ n, s.helper.counters.find? (fun c => c.1 = s.helper.pc.toNat) = some (s.helper.pc.toNat, n) →
      Completes (.hloop back cnt) s (round n))
  ∧ (∀ (off : BitVec 18) (val : Byte) (s : State) (key : Nat), HelperLive s → helperCopiesDone s = true →
    ScratchOk s (4 * off.toNat) 4 key → Mem.wf s.memory.scratch = true →
    Completes (.hflag off val) s fun x => ∃ u : State, x = { u with helper := Helper.went { s.helper with issued := [] } (s.helper.pc + 4) }
      ∧ u = { s with memory := { s.memory with scratch := u.memory.scratch, scrPoison := u.memory.scrPoison } }
      ∧ wordAt u.memory.scratch key 4 = val.toNat
      ∧ ∀ l, l < key ∨ key + 4 ≤ l → Mem.read u.memory.scratch l = Mem.read s.memory.scratch l)
  ∧ (∀ s : State, HelperLive s → Completes .hend s fun x => x = { s with
      helper := { s.helper with running := false, stopping := false, counters := [], issued := [] } })

/-- Bytes at a virtual address are local, can be read at once, and stand so at their homes. -/
def HomeBytes (s : State) (va n : Nat) (bs : List Byte) : Prop :=
  ∃ locs, s.locsOf .load false false (bytesAt va n) = .ok locs ∧ ReadsAtOnce s (bytesAt va n) locs
    ∧ bs = locs.map (Mem.read s.memory.home)

/-- R264: a group descriptor of N ranks stands at a virtual address. -/
def DescriptorAt (s : State) (va : Nat) (d : Descriptor) : Prop :=
  ∃ head ranks, HomeBytes s va 64 head ∧ 1 ≤ bytesToNat ((head.drop 8).take 4) ∧ bytesToNat ((head.drop 8).take 4) ≤ 16384
    ∧ va + 64 < 2 ^ 64
    ∧ (∀ s' ∈ [s, s.note (bytesAt va 64)], HomeBytes s' (va + 64) (4 * bytesToNat ((head.drop 8).take 4)) ranks)
    ∧ d = descriptorOf head ranks

/-- R265, R330: the checks of a group instruction that names a barrier are passed. -/
def GroupOk (s : State) (bar : BitVec 9) : Prop :=
  bar.toNat < s.launch.header.nbar ∧ (domWord s 3).toNat % 2 ^ 24 = 0 ∧ s.launch.group ≠ 0 ∧ s.launch.det = false

/-- R108, R259: a location lies in what CRUN commits: the buffers that the slots name with a size, or everything where a present slot
has none. -/
def InCommit (s : State) (slots : List Word) (l : Nat) : Bool :=
  (slots.any fun w => w ≠ 0 ∧ w.toNat / 2 ^ 52 = 0) || State.inSpans (slotSpans s slots) l

/-- The operands of a CRUN that starts an instance (R259). -/
def CrunOk (o : AOp) (s : State) : Prop :=
  s.regsOk ((List.range 8).map fun i => o.a + BitVec.ofNat 6 i) = true ∧ o.imm.toNat % 512 < s.launch.header.nbar
  ∧ o.id.toNat < s.launch.header.ncp ∧ s.launch.det = false ∧ (∀ i < 8, (s.getReg (o.a + BitVec.ofNat 6 i)).toNat % 4 = 0)
  ∧ s.coll.live.length < 4 ∧ s.stagingWaits = false

/-- R108, R259, R264, R265: CRUN first commits what is staged in the slots, and starts an instance of its program with its slots and
its barrier, which the task does not wait for; a level 4 program of a group whose version does not name this device fails its
arrival. -/
def CollectiveStart : Prop :=
  (∀ (o : AOp) (s : State), CrunOk o s → s.memory.wf = true →
    (∀ c ∈ s.memory.staging, c.1 < 2 ^ 48 ∧ s.stackFailed c.1 = false) →
    (s.launch.group = 0 ∨ s.launch.header.ndom ≠ 4 ∨ ∃ d, s.group.cached = some d ∧ s.fabric.devid ∈ d.ranks) →
    let slots := (List.range 8).map fun i => s.getReg (o.a + BitVec.ofNat 6 i)
    Completes (.crun o) s fun t => ∃ u v w, Installed s v
      ∧ (∀ l, Mem.read v.memory.home l = if InCommit s slots l then
          (Overlay.get? s.memory.staging l).getD (Mem.read s.memory.home l) else Mem.read s.memory.home l)
      ∧ w = { v with memory := { v.memory with staging := s.memory.staging.filter fun c => !InCommit s slots c.1 } }
      ∧ NoResult u t (s.pc + 8)
      ∧ ∃ n vs, u = { w with
          group := { s.group with cached := groupDesc w }
          coll := { s.coll with
            counts := (o.id.toNat, n + 1) :: s.coll.counts.filter fun c => c.1 ≠ o.id.toNat
            live := s.coll.live ++ [{ id := o.id.toNat + 64 * n, prog := o.id.toNat, at_ := 0, bar := o.imm.setWidth 9
                                      slots := vs, offs := Vector.replicate 8 0, c := Vector.replicate 4 0, peerT := none
                                      peerF := none, rank := s.rankAt s.launch.header.ndom
                                      n := s.membAt s.launch.header.ndom, loops := [], pend := [], sent := [], got := []
                                      ws := [], after := s.memory.nextReq }] } }
        ∧ vs.toList = slots ∧ n = ((s.coll.counts.find? fun c => c.1 = o.id.toNat).map (·.2)).getD 0)
  ∧ (∀ (o : AOp) (s : State) (d : Descriptor), CrunOk o s → s.launch.group ≠ 0 → s.launch.header.ndom = 4 →
    s.group.cached = some d → s.fabric.devid ∉ d.ranks →
    let n : BitVec 9 := o.imm.setWidth 9
    Completes (.crun o) s fun t => t.pc = s.pc + 8 ∧ (∀ x ∈ t.coll.live, x ∈ s.coll.live)
      ∧ ArrivedAt { s.bars[n.toNat]'n.isLt with
          failed := (s.bars[n.toNat]'n.isLt).failed ++ [((s.bars[n.toNat]'n.isLt).gen + 1, { cause := .groupver })] }
        (t.bars[n.toNat]'n.isLt))

/-- R266, R267: RSHD of a tensor whose checks pass joins the reshards in progress with its barrier, from the first piece where RS
was clear, under a number that every device gives it; a second one of a tensor in progress traps TENSOR. RSHQ writes the plan's bytes
at their homes, and traps MISALIGN at an address off 64 bytes. -/
def ReshardStart : Prop :=
  (∀ (o : AOp) (s s1 s2 : State) (t : Resharding × Desc), s.regOk o.a = true → o.imm.toNat % 512 < s.launch.header.nbar →
    s.launch.det = false → (∀ r ∈ s.reshards, r.tensor ≠ (s.getReg o.a).toNat % 4096) →
    readResharding s ((s.getReg o.a).toNat % 4096) = .ok t s1 →
    startReshard s1 ((s.getReg o.a).toNat % 4096) (o.imm.setWidth 9) t.1 t.2 = .ok () s2 →
    Completes (.rshd o) s fun x => NoResult s2 x (s2.pc + 8) ∧ s2.pc = s.pc
      ∧ ∃ todo, x.reshards = s.reshards ++ [{
            tensor := (s.getReg o.a).toNat % 4096, bar := o.imm.setWidth 9, todo := todo, ws := [], sent := [], since := s.device.time
            id := reshardId ((s.getReg o.a).toNat % 4096)
              (((s.coll.counts.find? fun c => c.1 = 64 + (s.getReg o.a).toNat % 4096).map (·.2)).getD 0) }]
        ∧ (t.2.rs = false → todo = List.range (pieceCount s.launch.mesh t.1 s.launch.rank4)))
  ∧ (∀ (o : AOp) (s : State), CanTrap s → s.regOk o.a = true → o.imm.toNat % 512 < s.launch.header.nbar →
    s.launch.det = false → (∃ r ∈ s.reshards, r.tensor = (s.getReg o.a).toNat % 4096) → Traps (.rshd o) s .tensor 0 0)
  ∧ (∀ (o : AOp) (s s1 : State) (t : Resharding × Desc) (locs : List Nat), s.regsOk [o.a, o.b] = true →
    (s.getReg o.b).toNat % 64 = 0 → s.memory.wf = true → readResharding s ((s.getReg o.a).toNat % 4096) = .ok t s1 →
    let plan := planBytes s.launch.mesh t.1 s.launch.rank4
    s1.locsOf .store false false ((List.range plan.length).map fun i => ((s.getReg o.b).toNat + i) % 2 ^ 64) = .ok locs →
    locs.Nodup → (∀ l ∈ locs, l < 2 ^ 48) → StacksReady s1 locs → s1.memory.reqs = [] → s.wait = none →
    Completes (.rshq o) s fun x => WroteBytes (Mem.read s.memory.home) (Mem.read x.memory.home) locs plan
      ∧ x.pc = s.pc + 8 ∧ ∀ r : Reg, x.getReg r = s.getReg r)
  ∧ (∀ (o : AOp) (s : State), CanTrap s → s.regsOk [o.a, o.b] = true → (s.getReg o.b).toNat % 64 ≠ 0 →
    Traps (.rshq o) s .misalign 0 (s.getReg o.b))

/-- The instance that the event of a collective word names. -/
def InstanceAt (s : State) (x : Instance) : Prop :=
  x ∈ s.coll.live ∧ x.id = s.input.index ∧ ∀ y ∈ s.coll.live, y.id = x.id → y = x

/-- The live instances with this one replaced. -/
def withLive (s : State) (x : Instance) : Collectives :=
  { s.coll with live := s.coll.live.map fun y => if y.id = x.id then x else y }

/-- R108, R109: what a completion leaves for the task that waits for it: what was written, and the buffers named. -/
def doneWrites (s : State) (c : Completion) (ws : List (Nat × Byte)) (spans : List (Nat × Nat)) :
    List (Completion × List (Nat × Byte) × List (Nat × Nat)) :=
  s.memory.engDone ++ if ws = [] ∧ spans = [] then [] else [(c, ws, spans)]

/-- R259, R260: the L units of a slot from its offset: their address and bytes; with len 0, all that the slot has left. -/
def SlotPart (x : Instance) (slot : BitVec 3) (l va : Nat) : Prop :=
  let w := (x.slots[slot.toNat]'slot.isLt).toNat
  let off := x.offs[slot.toNat]'slot.isLt
  w ≠ 0 ∧ (w / 2 ^ 52 = 0 ∨ off + l ≤ w / 2 ^ 52 * 16) ∧ va = w % 2 ^ 52 + 256 * off ∧ va + 256 * l < 2 ^ 64

/-- The units that a transfer word moves: its own count, or for 0 the rest of its first slot. -/
def WordUnits (x : Instance) (slot : BitVec 3) (len : BitVec 16) (l : Nat) : Prop :=
  let w := (x.slots[slot.toNat]'slot.isLt).toNat
  let off := x.offs[slot.toNat]'slot.isLt
  if len ≠ 0 then l = len.toNat else w / 2 ^ 52 ≠ 0 ∧ off ≤ w / 2 ^ 52 * 16 ∧ l = w / 2 ^ 52 * 16 - off

/-- R260, R261, R279, R288: a transfer word whose data can move at once: it reads its own region, takes what its peer has sent,
reduces the two element by element, writes its region at the homes, and hands the bytes to the peer that it sends to: within the
device, or in parts as requests to another one, which the transfer waits for. -/
def TransferRow (i : Instr) (sa sb : Option (BitVec 3)) (rop : Option (Rop × ElemType)) (sends recvs : Bool)
    (len : BitVec 16) : Prop :=
  ∀ (s : State) (x : Instance) (l va vb p f : Nat) (a data : List Byte) (locs : List Nat), InstanceAt s x →
    x.pend = [] → s.memory.wf = true → (∀ r ∈ s.memory.reqs, r.owner = .pub → x.after ≤ r.id) →
    (s.launch.header.ndom = 4 → s.launch.group ≠ 0 → s.group.cached ≠ none) →
    WordUnits x ((sa.or sb).getD 0) len l →
    (∀ k, sa = some k → SlotPart x k l va ∧ HomeBytes s va (256 * l) a) → (sa = none → a = []) →
    (∀ k, sb = some k → SlotPart x k l vb ∧ locs.Nodup ∧ (∀ y ∈ locs, y < 2 ^ 48) ∧ StacksReady s locs
      ∧ ∀ s' ∈ [s, s.note (bytesAt va (256 * l))], s'.locsOf .store false false (bytesAt vb (256 * l)) = .ok locs) →
    (sb = none → locs = []) → (sends = true → x.peerT = some p) → (recvs = true → x.peerF = some f) →
    (recvs = true → arrived s x.id (some (f, pairCount x.got f)) = some data ∧ data.length = 256 * l) →
    let off : Nat := match sa.or sb with | some k => 256 * x.offs[k.toNat]'k.isLt | none => 0
    let far : Bool := sends && p != x.rank && rankDevice s p != s.fabric.devid.toNat
    Completes i s fun t => ∃ (out : List Byte) (sent : CollData),
      out = (match rop with
        | some (r, ty) => (combineBytes r ty a data).1
        | none => if recvs then data else a)
      ∧ sent = ⟨x.id, x.rank, p, pairCount x.sent p, x.at_, off, out.length, out⟩
      ∧ WroteBytes (Mem.read s.memory.home) (Mem.read t.memory.home) locs (if sb.isSome then out else [])
      ∧ (∃ x', (∀ y ∈ t.coll.live, y.id = x.id → y = x') ∧ x' ∈ t.coll.live
          ∧ x' = { x with
              at_ := x.at_ + 1, sent := x'.sent, got := x'.got, ws := x.ws ++ locs.zip (if sb.isSome then out else [])
              pend := x'.pend }
          ∧ x'.pend.length = (if far then 1 else 0)
          ∧ pairCount x'.sent p = pairCount x.sent p + (if sends then 1 else 0)
          ∧ pairCount x'.got f = pairCount x.got f + (if recvs then 1 else 0))
      ∧ (far = true → ∀ part ∈ dataParts sent, ∃ r ∈ t.memory.reqs,
          r.op = .data part ∧ r.owner = .coll x.id ∧ regionOf r.loc = peerRegion (rankDevice s p) ∧ r.sent = false)
      ∧ (sends = true → p = x.rank → ∀ part ∈ dataParts sent, part ∈ t.coll.inbox)
      ∧ t.coll.outbox = s.coll.outbox ++ (if sends ∧ p ≠ x.rank ∧ far = false then [sent] else [])
      ∧ t.fabric.inv = (s.fabric.inv || match rop with | some (r, ty) => (combineBytes r ty a data).2 | none => false)
      ∧ t.regs = s.regs ∧ t.pc = s.pc ∧ t.isn = s.isn ∧ t.memory.scratch = s.memory.scratch
      ∧ t.memory.snap = s.memory.snap ∧ t.memory.own = s.memory.own ∧ t.memory.staging = s.memory.staging ∧ t.bars = s.bars

/-- The queue of the event works: it is not halted, and the task is placed and neither saved nor gone; one that resumes waits for the
array first, where it needs it (R47, R225). -/
def QueueLive (s : State) (q : Queue) : Prop :=
  s.input.queue = q ∧ s.status ≠ .none ∧ s.status ≠ .saved ∧ s.status ≠ .retired ∧ s.status ≠ .leaseWait
  ∧ (q = .c → s.matrix.reload = false) ∧ (s.queue q).halt = none

/-- The queue of the event works and runs no table, and this entry is its oldest (R48). -/
def AtWork (s : State) (q : Queue) (e : Entry) (rest : List Entry) : Prop :=
  QueueLive s q ∧ (s.queue q).table = none ∧ (s.queue q).entries = e :: rest

/-- Nothing but the queues differs, and among them neither the other two, nor the selection, nor the order of halts. -/
def OneQueue (s t : State) (q : Queue) : Prop :=
  t = { s with queues := t.queues } ∧ (∀ p, p ≠ q → t.queue p = s.queue p) ∧ t.queues.qsel = s.queues.qsel
  ∧ t.queues.halts = s.queues.halts

/-- The tokens that an instruction waits for are present in the FIFOs of its queue (R48). -/
def TokensHere (s : State) (q : Queue) (i : Instr) : Prop :=
  ((tokensOf i).wp = true → 0 < s.fifo (prevQ q) q) ∧ ((tokensOf i).wn = true → 0 < s.fifo (nextQ q) q)

/-- They have been taken, and no other one (R48). -/
def TokensTaken (s t : State) (q : Queue) (i : Instr) : Prop :=
  ∀ a b, t.fifo a b
    = s.fifo a b - if b = q ∧ ((a = prevQ q ∧ (tokensOf i).wp = true) ∨ (a = nextQ q ∧ (tokensOf i).wn = true)) then 1 else 0

/-- The oldest matched format word has left the format queue, where an entry takes one (R215). -/
def FormatTaken (fmt fmt' : List FmtEntry) (word : Option (BitVec 128)) : Prop :=
  (word = none → fmt' = fmt)
  ∧ ∀ f, word.isSome = true → fmt.find? (·.matched) = some f → fmt' = fmt.filter fun x => x.id ≠ f.id

/-- R48, R52, R215: an entry whose tokens are present takes them and its format word and goes to its run stage; a TBLRUN starts its
table. -/
def TokenPopTakesTokens : Prop :=
  ∀ (s : State) (q : Queue) (e : Entry) (rest : List Entry), AtWork s q e rest → e.stage = .pop → e.micro = none →
    TokensHere s q e.instr →
    ((∀ a len cnt off p, e.instr ≠ .tblrun a len cnt off p) → Completes .tokenPop s fun t =>
      OneQueue { s with fmt := t.fmt } t q
      ∧ t.queue q = { s.queue q with entries := { e with stage := .run } :: rest }
      ∧ TokensTaken s t q e.instr ∧ FormatTaken s.fmt t.fmt e.fmt)
    ∧ (∀ a len cnt off p, e.instr = .tblrun a len cnt off p →
        (if a = 0 then cnt.toNat + 1 else (e.reg a).toNat % 2 ^ 32) ≠ 0 →
        Completes .tokenPop s fun t => OneQueue s t q ∧ (∀ a b, t.fifo a b = s.fifo a b)
          ∧ t.queue q = { s.queue q with
              entries := { e with stage := .run } :: rest, stall := 0
              table := some ⟨8 * off.toNat, len.toNat + 1,
                if a = 0 then cnt.toNat + 1 else (e.reg a).toNat % 2 ^ 32, 0, 0, false, none⟩ })

/-- An entry has left its queue with its pushes made; `u` has its effect (R48). -/
def LeftQueue (s t u : State) (q : Queue) (rest : List Entry) (sp sn : Bool) : Prop :=
  OneQueue { u with caller := t.caller } t q ∧ t.caller = { u.caller with pulses := t.caller.pulses }
  ∧ t.queue q = { s.queue q with entries := rest, stall := 0 }
  ∧ ∀ a b, t.fifo a b
      = s.fifo a b + if a = q ∧ ((b = nextQ q ∧ sn = true) ∨ (b = prevQ q ∧ sp = true)) then 1 else 0

/-- R48, R49, R51: an entry in its run stage whose body ends has its effect, makes its pushes and leaves; one that has only pushes left
makes them. -/
def EntriesFinish : Prop :=
  ∀ (s : State) (q : Queue) (e : Entry) (rest : List Entry), AtWork s q e rest →
    (∀ (p : Queue) (body : Body) (u : State), e.stage = .run → bodyOf e.instr = some (p, body) → body e s = .ok () u →
      u.queues = s.queues →
      ((tokensOf e.instr).sn = true → s.fifo q (nextQ q) < 15) → ((tokensOf e.instr).sp = true → s.fifo q (prevQ q) < 15) →
      (Completes .entryFinish s fun t => LeftQueue s t u q rest (tokensOf e.instr).sp (tokensOf e.instr).sn)
      ∧ (e.slot.isSome = true → Completes .returnValueArrive s fun t =>
          LeftQueue s t u q rest (tokensOf e.instr).sp (tokensOf e.instr).sn))
    ∧ (∀ sp sn, e.stage = .push sp sn → (sn = true → s.fifo q (nextQ q) < 15) → (sp = true → s.fifo q (prevQ q) < 15) →
        Completes .entryFinish s fun t => LeftQueue s t s q rest sp sn)

/-- A table runs a micro-order, which the queue's oldest entry stands for. -/
def AtMicro (s : State) (q : Queue) (e m : Entry) (rest : List Entry) (tb : TableRun) : Prop :=
  QueueLive s q ∧ (s.queue q).table = some tb ∧ tb.cur = some m ∧ (s.queue q).entries = e :: rest ∧ m.micro.isSome = true

/-- The checks of a micro-order that starts are passed, and it binds what `r`, `f` and `u` say (R152). -/
def MicroBinds (v : State) (i : Instr) (f : Option (BitVec 128)) (u : State) : Prop :=
  namesOk v.launch.header i = true ∧ (microSpec i v).bound = none ∧ (microSpec i v).use = none ∧ (microSpec i v).wait = none
  ∧ ∃ r, (microSpec i v).bindAt v = (r, f, u) ∧ u.queues = v.queues

/-- The micro-order of `v` has bound its format word or its tag and runs (R152, R215). -/
def MicroRuns (v u t : State) (q : Queue) (m : Entry) (tb : TableRun) (f : Option (BitVec 128)) : Prop :=
  OneQueue { u with fmt := t.fmt } t q ∧ FormatTaken u.fmt t.fmt f ∧ (∀ a b, t.fifo a b = v.fifo a b)
  ∧ t.queue q = { v.queue q with table := some { tb with cur := some { m with fmt := f, stage := .run } } }

/-- R52, R124, R152: between two micro-orders, the next 8 bytes of the table become an entry with the registers of now; with its tokens it
starts: it is checked, binds its format word or its tag, and runs. One that has its tokens and could not start, starts again. -/
def MicroOrdersStart : Prop :=
  (∀ (s : State) (q : Queue) (e : Entry) (rest : List Entry) (tb : TableRun) (bs : List Byte) (i : Instr), QueueLive s q →
    (s.queue q).table = some tb → tb.cur = none → (s.queue q).entries = e :: rest →
    s.readScr (tb.base + 8 * tb.step) 8 = .ok bs s →
    decodeWords (bytesToNat (bs.take 4)) (bytesToNat (bs.drop 4)) = .ok i → (bodyOf i).map (·.1) = some q →
    (match i with | .vext _ | .kpopc _ | .vatom _ | .rlstat _ | .aget _ | .tblbase .. => False | _ => True) →
    Completes .microOrderStart s fun t => OneQueue s t q ∧ (∀ a b, t.fifo a b = s.fifo a b)
      ∧ ∃ m : Entry, t.queue q = { s.queue q with table := some { tb with cur := some m } }
        ∧ m = { e with
            instr := i, regs := s.regFile, slot := none, fmt := none, stage := .pop
            micro := some ⟨tb.step, tb.iter, (tb.iter * tb.len + tb.step + 1) % 2 ^ 32⟩ })
  ∧ (∀ (s v u : State) (q : Queue) (e m : Entry) (rest : List Entry) (tb : TableRun) (f : Option (BitVec 128)),
    AtMicro s q e m rest tb → m.stage = .pop → (∀ a len cnt off p, m.instr ≠ .tblrun a len cnt off p) →
    TokensHere s q m.instr → OneQueue s v q → TokensTaken s v q m.instr →
    v.queue q = { s.queue q with table := some { tb with cur := some { m with stage := .start } } } →
    MicroBinds v m.instr f u → Completes .tokenPop s fun t => MicroRuns v u t q m tb f)
  ∧ (∀ (s u : State) (q : Queue) (e m : Entry) (rest : List Entry) (tb : TableRun) (f : Option (BitVec 128)),
    AtMicro s q e m rest tb → m.stage = .start → MicroBinds s m.instr f u →
    Completes .entryFinish s fun t => MicroRuns s u t q m tb f)

/-- R328: an entry that has waited 2^20 clk for a token halts its queue with TOKSTARVE, whose detail names the tokens that are missing. -/
def StarvedQueuesHalt : Prop :=
  ∀ (s : State) (q : Queue) (e : Entry) (rest : List Entry) (wp wn : Bool), AtWork s q e rest → e.stage = .pop →
    e.micro = none → s.status ≠ .killed → 2 ^ 20 ≤ (s.queue q).stall →
    (wp = true ↔ (tokensOf e.instr).wp = true ∧ s.fifo (prevQ q) q = 0) →
    (wn = true ↔ (tokensOf e.instr).wn = true ∧ s.fifo (nextQ q) q = 0) → (wp = true ∨ wn = true) →
    Completes .tokstarve s fun t =>
      (∃ h, h = (⟨⟨.tokstarve, (if wp then 1 else 0) + (if wn then 2 else 0), 0⟩, 0, e.tl, s.queues.halts, none⟩ : Halt)
        ∧ t.queue q = { s.queue q with halt := some h, qfpc := e.pc, stall := 0 })
      ∧ (∀ p, p ≠ q → t.queue p = s.queue p) ∧ (∀ a b, t.fifo a b = s.fifo a b) ∧ t.regs = s.regs ∧ t.pc = s.pc
      ∧ t.memory = { s.memory with failed := [] }

/-- R325, R326: SKIP discards the halted entry, gives its reserved return-queue entry zero, and makes its pushes; FLUSH discards every
entry of the queue; either ends the halt. -/
def HaltsAreCleared : Prop :=
  ∀ (s : State) (q : Queue) (h : Halt), s.queues.qsel.toNat = (match q with | .l => 0 | .c => 1 | .s => 2) →
    (s.queue q).halt = some h →
    (∀ (e : Entry) (rest : List Entry), (s.queue q).table = none → (s.queue q).entries = e :: rest →
      ((tokensOf e.instr).sn = true → s.fifo q (nextQ q) < 15) → ((tokensOf e.instr).sp = true → s.fifo q (prevQ q) < 15) →
      Completes .qfltSkip s fun t => t.queue q = { s.queue q with entries := rest, halt := none, stall := 0 }
        ∧ (∀ p, p ≠ q → t.queue p = s.queue p)
        ∧ (∀ a b, t.fifo a b = s.fifo a b + if a = q ∧ ((b = nextQ q ∧ (tokensOf e.instr).sn = true)
            ∨ (b = prevQ q ∧ (tokensOf e.instr).sp = true)) then 1 else 0)
        ∧ t.ret = (match e.instr, e.slot with
            | .aget _, _ => s.ret
            | _, none => s.ret
            | _, some id => s.ret.map fun x => if x.id = id then { x with value := some (.scalar 0) } else x)
        ∧ t.regs = s.regs ∧ t.pc = s.pc ∧ t.memory = { s.memory with vatom := t.memory.vatom })
    ∧ (Completes .qfltFlush s fun t =>
        t.queue q = { s.queue q with entries := [], table := none, halt := none, stall := 0 }
        ∧ (∀ p, p ≠ q → t.queue p = s.queue p) ∧ (∀ a b, t.fifo a b = s.fifo a b) ∧ t.regs = s.regs ∧ t.pc = s.pc
        ∧ t.memory = { s.memory with vatom := t.memory.vatom })

/-- R322, R324, R328: the only halted queue, when the trap level admits it, is reported as a trap at the instruction that would issue
next; R329: so is a wait of 2^32 clk. -/
def HaltsAndWatchdogTrap : Prop :=
  (∀ (s : State) (q : Queue) (h : Halt), s.status = .running → (s.queue q).halt = some h → h.reported = none →
    (∀ p, p ≠ q → (s.queue p).halt = none) → s.trap.tl.val ≤ h.tl.val → CanTrap s →
    Completes .qfaultReport s fun t => ∃ u,
      TookTrap s u (if h.trap.cause = .tokstarve then Cause.tokstarve.code else Cause.qfault.code) s.pc h.trap.va
        (stsOf h.trap (match q with | .l => 0 | .c => 1 | .s => 2) h.entryNo) s.keptWait
      ∧ t = { u with queues := t.queues } ∧ (∀ p, p ≠ q → t.queue p = s.queue p)
      ∧ (∀ a b, t.fifo a b = s.fifo a b)
      ∧ t.queue q = { s.queue q with halt := some { h with reported := some u.trap.tl } })
  ∧ (∀ s : State, s.status = .running → 2 ^ 32 < s.waitClk → CanTrap s → Completes .watchdog s fun t =>
      TookTrap s t Cause.watchdog.code s.pc 0 (stsOf ⟨.watchdog, s.waitKind, 0⟩ 3 0) s.keptWait)

/-- R216: the array is free, and the slot of this moment gives it to rank r: the slot is r's own, or open, and then no rank after the
last holder and before r, in turn, has its MLEASE waiting. -/
def InTurn (s : State) (r : BitVec 2) : Prop :=
  s.matrix.holder = none ∧ ∃ x : BitVec 3, s.matrix.slots.toList[s.clk / 256 % 16]? = some x
    ∧ (x.getLsbD 2 = false → x.extractLsb' 0 2 = r)
    ∧ (x.getLsbD 2 = true → ∀ j < (r - s.matrix.last - 1).toNat, s.matrix.last + 1 + BitVec.ofNat 2 j ∉ s.matrix.asking)

/-- The array as the grant to rank r leaves it (R216). -/
def granted (m : MatrixState) (r : BitVec 2) : MatrixState :=
  { m with holder := some r, last := r, used := 0, asking := m.asking.filter (· ≠ r) }

/-- R110, R216, R225: the array goes to the core in its turn, when no core holds it: a task that has resumed and has no buffer to load
runs again, with a new snapshot; the MLEASE of the C queue leaves. -/
def LeasesAreGranted : Prop :=
  ∀ s : State, InTurn s (coreRank s) →
    (s.status = .leaseWait → s.matrix.reload = true → (∀ n < 2, (weightBuf s n).owner ≠ some (coreRank s)) →
      Completes .leaseGrant s fun t =>
        Opened { s with status := .running, matrix := { granted s.matrix (coreRank s) with reload := false } } t true)
    ∧ (∀ (o : EOp) (e : Entry) (rest : List Entry), AtWork { s with input := { s.input with queue := .c } } .c e rest →
      e.instr = .mlease o → e.stage = .run →
      (o.tok.sn = true → s.fifo .c .s < 15) → (o.tok.sp = true → s.fifo .c .l < 15) →
      Completes .leaseGrant s fun t => LeftQueue s t { s with matrix := granted s.matrix (coreRank s) } .c rest
        o.tok.sp o.tok.sn)

/-- R181: at a slot boundary the writes that have come due take effect, the last of a slot standing, and leave. -/
def SlotsChangeAtTheBoundary : Prop :=
  ∀ s : State, Completes .slotBoundary s fun t =>
    t = { s with matrix := { s.matrix with slots := t.matrix.slots, pending := t.matrix.pending } }
    ∧ t.matrix.pending = (s.matrix.pending.filter fun w => ¬ w.period ≤ s.clk / 256)
    ∧ ∀ n : Fin 16, t.matrix.slots[n] =
        match (s.matrix.pending.filter fun w => w.period ≤ s.clk / 256 ∧ w.slot.toNat = n.val).getLast? with
        | some w => w.value
        | none => s.matrix.slots[n]

/-- TagDone (R73): the tag counts one operation less; the last one sets its RDY, and an error sets its ERR. -/
def TagFinished (s u : State) (n : BitVec 6) (err : Bool) : Prop :=
  u = { s with tags := u.tags, caller := { s.caller with pulses := u.caller.pulses } }
  ∧ u.tags.out = s.tags.out.set n.toNat (s.tags.out[n.toNat]'n.isLt - 1) n.isLt
  ∧ (∀ i < 64, u.tags.rdy.getLsbD i
      = (s.tags.rdy.getLsbD i || decide (i = n.toNat ∧ s.tags.out[n.toNat]'n.isLt ≤ 1)))
  ∧ (∀ i < 64, u.tags.err.getLsbD i = (s.tags.err.getLsbD i || (err && decide (i = n.toNat))))

/-- R70, R71, R311, R355: a load-block whose units have all been answered is closed when its fill ends, or gone where it was stale, and
its tag completes once, with an error where a byte of it is uncorrectable by then or was given up. -/
def BlockFillsEnd : Prop :=
  ∀ (s : State) (b : Block) (bad : Bool), b ∈ s.memory.blocks → b.id = s.input.index → b.open_ = true →
    (∀ x ∈ s.memory.blocks, x.id = b.id → x = b) → s.stackWaits b.locs = false →
    (∀ r ∈ s.memory.reqs, r.op = .read false → ∀ l ∈ b.locs, r.loc / 128 ≠ peerOf l / 128) →
    (bad = true ↔ ∃ l ∈ b.locs, ∃ i < 128, s.poisoned (l / 128 * 128 + i) = true
      ∨ s.stackFailed (l / 128 * 128 + i) = true ∨ ∃ f ∈ s.memory.failed, f.1 = peerOf (l / 128 * 128 + i) / 64 * 64) →
    Completes .blockFillEnd s fun t =>
      t.memory = { s.memory with blocks := t.memory.blocks, l1 := t.memory.l1, failed := t.memory.failed }
      ∧ t.memory.blocks = (if b.stale then s.memory.blocks.filter (fun x => x.id ≠ b.id)
        else s.memory.blocks.map (fun x => if x.id = b.id then { x with open_ := false } else x))
      ∧ t.memory.l1 = (if b.stale then s.memory.l1.filter (fun x => x ≠ .block b.id) else s.memory.l1)
      ∧ (∀ f ∈ s.memory.failed, f ∉ t.memory.failed → ∃ l ∈ b.locs, f.1 / 128 = peerOf l / 128)
      ∧ (∀ f ∈ t.memory.failed, f ∈ s.memory.failed ∧ ∀ l ∈ b.locs, f.1 / 128 ≠ peerOf l / 128)
      ∧ TagFinished { s with memory := t.memory } t b.tag bad

/-- R166, R167: a sleeping WAITA ends when a line's count has changed, at its deadline, or at a spurious wake-up with a line armed; a
WAITT ends when TIME has reached its deadline. -/
def SleepsEnd : Prop :=
  ∀ (s : State) (w : Nat × Nat) (u : State), s.status = .running → fetchWords s = .ok w u →
    (∀ (d a b : Reg) (cs : List (Option Lane32)) (same : Nat → Bool), decodeWords w.1 w.2 = .ok (.waita d a b) →
      s.regsOk [d, a, a + 1, a + 2, a + 3, b] = true → s.wait = some (.waita cs) → cs.length = 4 →
      (∀ i < 4, same i = true ↔ ∀ c l, cs[i]? = some (some c) → waitaLoc s (s.getReg (a + BitVec.ofNat 6 i)) = .ok l →
        s.lineCount (State.physOf l) = c) →
      (∀ i < 4, same i = false → (∀ j < i, same j = true) →
        Completes .waitaWake s fun t => ScalarResult { s with wake := false } t d (BitVec.ofNat 64 i) (s.pc + 4))
      ∧ ((∀ i < 4, same i = true) → s.getReg b ≠ 0 → (s.getReg b).toNat ≤ s.device.time →
        Completes .waitaWake s fun t => ScalarResult { s with wake := false } t d 4 (s.pc + 4))
      ∧ (∀ i c, (∀ j < 4, same j = true) → s.input.wake = .spurious → cs[i]? = some (some c) →
        (∀ j < i, cs[j]? = some none) → (s.getReg b = 0 ∨ s.device.time < (s.getReg b).toNat) →
        Completes .waitaWake s fun t => ScalarResult { s with wake := false } t d (BitVec.ofNat 64 i) (s.pc + 4)))
    ∧ (∀ a : Reg, decodeWords w.1 w.2 = .ok (.waitt a) → s.regsOk [a] = true → (s.getReg a).toNat ≤ s.device.time →
      Completes .waittExpire s fun t => NoResult s t (s.pc + 4))

/-- One arrival at a barrier that an engine owes; `failed` is the trap that a failed engine leaves with the generation that the arrival
belongs to (R171, R262). -/
def ArrivesWith (s t : State) (bar : BitVec 9) (failed : Option Trap) : Prop :=
  OneBarrier s t bar
  ∧ ArrivedAt { (s.bars[bar.toNat]'bar.isLt) with
      failed := (s.bars[bar.toNat]'bar.isLt).failed ++ failed.toList.map fun t => ((s.bars[bar.toNat]'bar.isLt).gen + 1, t) }
      (t.bars[bar.toNat]'bar.isLt)

/-- The run of the grid after a firing (R249, R370). -/
def RunIs (s t : State) (r : StreamRun) : Prop :=
  t = { s with grid := { s.grid with run := some { closeCells r with idle := 0 } } }

/-- R248, R249: a cell that has an element formed gives it onto its links when they have room; ADD and PASS take the heads of their
links and give their element; SINK writes the element at its place in scratchpad. -/
def CellsFire : Prop :=
  ∀ (s : State) (r : StreamRun) (c : CellRun), s.grid.run = some r → r.ending = none → r.cells[s.input.index]? = some c →
    c.done = false →
    (∀ v rest, c.out = v :: rest → hasRoom r c = true → Completes .cellFire s fun t => RunIs s t
      (pushElem (setCell r s.input.index { c with out := rest, made := c.made + 1 }) c v))
    ∧ (∀ x y as bs, c.out = [] → c.cell.op = 5 → c.cell.primary = false → c.cell.ty.isInt = true →
      c.cell.p0.toNat / 4 % 2 = 0 → c.a = x :: as → c.b = y :: bs → x < 2 ^ (typeA r c).bits → typeA r c = c.cell.ty →
      y < 2 ^ (typeA r c).bits → hasRoom r c = true → Completes .cellFire s fun t => RunIs s t
        (pushElem (setCell r s.input.index { c with taken := c.taken + 1, made := c.made + 1, a := as, b := bs }) c
          ((x + y) % 2 ^ c.cell.ty.bits)))
    ∧ (∀ x as, c.out = [] → c.cell.op = 14 → c.cell.primary = false → c.a = x :: as → hasRoom r c = true →
      Completes .cellFire s fun t => RunIs s t
        (pushElem (setCell r s.input.index { c with taken := c.taken + 1, made := c.made + 1, a := as }) c x))
    ∧ (∀ x as key, c.out = [] → c.cell.op = 16 → c.cell.primary = false → c.a = x :: as → c.cell.p0.toNat % 2 = 1 →
      Mem.wf s.memory.scratch = true → c.cell.p1.toNat + c.made * ((typeA r c).bits / 8) < 2 ^ 32 →
      ScratchOk s (c.cell.p1.toNat + c.made * ((typeA r c).bits / 8)) ((typeA r c).bits / 8) key →
      Completes .cellFire s fun t => ∃ u, RunIs u t
          (setCell r s.input.index { c with taken := c.taken + 1, made := c.made + 1, a := as })
        ∧ u = { s with memory := { s.memory with scratch := u.memory.scratch, scrPoison := u.memory.scrPoison } }
        ∧ WroteBytes (Mem.read s.memory.scratch) (Mem.read u.memory.scratch)
            ((List.range ((typeA r c).bits / 8)).map (key + ·)) (natToBytes ((typeA r c).bits / 8) x))

/-- R251, R252: a transfer of the wanted graph makes it resident when its planes match their checksum and no error is reported; the third
mismatch rolls back, which the waiting FLOAD learns. A stream at the head starts on its resident graph; a soft error drops it. -/
def GraphsAndStreamsStart : Prop :=
  (∀ (s : State) (g : Nat), s.grid.run = none →
    (s.grid.fload = some (g, 0) →
      (planeCrc (graphOf s g).cells = (graphOf s g).crc → s.input.flag = false → Completes .graphLoad s fun t =>
        t = { s with grid := { s.grid with
          fload := none, resident := some (g, (graphOf s g).cells, (graphOf s g).crc), misses := 0, floaded := some false } })
      ∧ (s.input.flag = true → s.grid.misses < 2 → Completes .graphLoad s fun t =>
        t = { s with grid := { s.grid with misses := s.grid.misses + 1 } })
      ∧ (s.input.flag = true → 2 ≤ s.grid.misses → Completes .graphLoad s fun t => Logged { s with grid := { s.grid with
          fload := none, resident := none, misses := 0, floaded := some true } } t 0x23))
    ∧ (∀ x rest, s.grid.fload = none → s.grid.queue = x :: rest → x.graph = g →
      planeCrc (graphOf s g).cells = (graphOf s g).crc → s.input.flag = false → Completes .graphLoad s fun t =>
        t = { s with grid := { s.grid with
          resident := some (g, (graphOf s g).cells, (graphOf s g).crc), misses := 0 } }))
  ∧ (∀ (s : State) (x : Stream) (rest : List Stream), s.grid.run = none → s.grid.fload = none → s.grid.queue = x :: rest →
    (s.input.flag = true → Completes .streamStart s fun t => t = { s with grid := { s.grid with resident := none } })
    ∧ (∀ src len dst, s.input.flag = false → isResident s x.graph = true → x.kind = .fst src len dst →
      Completes .streamStart s fun t => t = { s with grid := { s.grid with
        queue := rest, run := some (closeCells (freshRun x (graphOf s x.graph).cells [])) } }))

/-- R249: a stream ends when its inputs are exhausted and its cells have emitted all, or with an error when nothing could fire for 2^20
clk and no SRC waits on a gate; its tag completes. -/
def StreamsEnd : Prop :=
  ∀ (s : State) (r : StreamRun) (src len dst : Nat), s.grid.run = some r → r.ending = none → r.stream.kind = .fst src len dst →
    (streamOver r = true → Completes .streamEnd s fun t => ∃ u,
      TagFinished { s with grid := { s.grid with run := none } } u r.stream.tag false
      ∧ t = { u with caller := { u.caller with pulses := t.caller.pulses } })
    ∧ (2 ^ 20 ≤ r.idle → (∀ i < r.cells.length, fireCell s r i = none) → gateWaits s r = false → streamOver r = false →
      Completes .streamWatchdog s fun t => ∃ u v,
        Logged { s with grid := { s.grid with run := none } } u 0x22 ∧ TagFinished u v r.stream.tag true
        ∧ t = { v with caller := { v.caller with pulses := t.caller.pulses } })

/-- R257: at one clk every armed term counts the pulses of its sources, singly or as pairs, and at COUNT its action becomes pending
and it is armed again only where its word says so; an unarmed term keeps all. -/
def TermsCount : Prop :=
  ∀ (s : State) (ps : List Pulse), ps = (s.caller.pulses.filter fun q => s.caller.pulses.head?.map (·.clk) = some q.clk) →
    Completes .callerTermFire s fun t =>
      t = { s with caller := ⟨t.caller.terms, s.caller.pulses.filter fun q => ¬ ps.contains q⟩ }
      ∧ ∀ (n : Nat) (x : Term) (a b : Bool) (k : Nat), s.caller.terms[n]? = some x →
        (a = true ↔ Term.ska x.word ≠ 0 ∧ ∃ p ∈ ps, p.kind = Term.ska x.word ∧ p.num = Term.sna x.word) →
        (b = true ↔ Term.skb x.word ≠ 0 ∧ ∃ p ∈ ps, p.kind = Term.skb x.word ∧ p.num = Term.snb x.word) →
        (x.armed = false → t.caller.terms[n]? = some x)
        ∧ (x.armed = true → x.pending = none → Term.comb x.word = false → k = x.cnt + a.toNat + b.toNat →
          t.caller.terms[n]? = some (if k < Term.count x.word then { x with cnt := k }
            else { x with cnt := k - Term.count x.word, pending := some x.word, armed := Term.rearm x.word }))
        ∧ (x.armed = true → x.pending = none → Term.comb x.word = true → x.cnt < Term.count x.word →
          t.caller.terms[n]? = if ((x.fa || a) && (x.fb || b)) = false then some { x with fa := x.fa || a, fb := x.fb || b }
            else if x.cnt + 1 < Term.count x.word then some { x with cnt := x.cnt + 1, fa := false, fb := false }
            else some { x with
              cnt := 0, fa := false, fb := false, pending := some x.word, armed := Term.rearm x.word })

/-- R257: a pending action that can start does so, and its term may become pending again: a copy, a stream, a helper program, one
arrival at a barrier, or a tag's RDY. -/
def CallerActionsStart : Prop :=
  ∀ (s : State) (n : BitVec 5) (x : Term) (w : BitVec 128) (v : State), s.input.index = n.toNat →
    s.caller.terms[n.toNat]? = some x → x.pending = some w →
    v = { s with caller := { s.caller with terms := s.caller.terms.set n.toNat { x with pending := none } n.isLt } } →
    (∀ (t : Template) (c : CopyCmd), Term.tk w = 0 →
      CopyOk s (Term.tn w) t (BitVec.ofNat 64 (Term.arg w)) 0 0 (BitVec.ofNat 6 (Term.tg w)) c →
      Completes .callerActionStart s fun y => CopyStarted v y { c with term := true })
    ∧ (∀ key, Term.tk w = 1 →
      let src := Term.arg w % 2 ^ 20
      let len := Term.arg w / 2 ^ 20 % 2 ^ 20
      let tag := Term.tg w % 64
      tag < s.launch.header.ntag → Term.tn w < s.launch.header.nfg → len % 4 = 0 → (0 < len → ScratchOk s src len key) →
      s.grid.queue.length < 16 → s.tags.out.toList.getD tag 0 < 255 → Completes .callerActionStart s fun y =>
        TagIssued s y tag
        ∧ y = { v with
            tags := y.tags
            grid := { s.grid with queue := s.grid.queue
              ++ [⟨Term.tn w, .fst src len (Term.arg w / 2 ^ 40 % 2 ^ 20), BitVec.ofNat 6 (Term.tg w), s.isn, true⟩] } })
    ∧ (Term.tk w = 2 → Term.arg w % 4 = 0 → s.helper.running = false → s.helper.fault = none →
      Completes .callerActionStart s fun y => y = { v with helper :=
        { running := true, stopping := false, pc := BitVec.ofNat 64 (Term.arg w), offs := #v[0, 0, 0, 0], counters := [],
          issued := [], fault := none } })
    ∧ (Term.tk w = 3 → Completes .callerActionStart s fun y => ArrivesWith v y (BitVec.ofNat 9 (Term.tn w)) none)
    ∧ (4 ≤ Term.tk w → Completes .callerActionStart s fun y =>
      y = { v with tags := { s.tags with rdy := y.tags.rdy }, caller := { v.caller with pulses := y.caller.pulses } }
      ∧ ∀ i < 64, y.tags.rdy.getLsbD i = (s.tags.rdy.getLsbD i || decide (i = Term.tn w % 64)))

/-- What a copy has written is published (R99, R109): its requests have all been answered, or, unless its template names the scope grp
or sys, they are writes that have left. -/
def CopyPublished (s : State) (c : CopyCmd) : Prop :=
  ∀ r ∈ s.memory.reqs, r.owner = .copy c.id → r.sent = true ∧ (∃ bs, r.op = .write bs ∧ bs ≠ [])
    ∧ (c.tpl.scv = true → Scope.ofCode? c.tpl.scope.toNat ≠ some .grp ∧ Scope.ofCode? c.tpl.scope.toNat ≠ some .sys)

/-- R109, R245, R349: one unit of a box moves: an incoming one from its homes to scratchpad, an outgoing one from what the copy forms
of scratchpad to its homes; the last unit ends the copy. A copy that has ended and is published leaves the channel, its writes await
the task that waits for its tag, and the tag completes: after a fault with an error, and a record. -/
def CopiesMoveAndEnd : Prop :=
  ∀ (s : State) (c : CopyCmd), c ∈ s.channel.cmds → c.id = s.input.index → (∀ x ∈ s.channel.cmds, x.id = c.id → x = c) →
    (∀ (far : List FarByte) (v : State), (∀ r ∈ s.memory.reqs, r.owner ≠ .copy c.id) → c.ended = false → c.started = true → s.input.index2 = 1 →
      copyFarBytes s c = .ok far v → v = { s with memory := { v.memory with home := s.memory.home } } → s.memory.wf = true →
      v.memory.scratch = s.memory.scratch →
      (∀ (us : List (List (Nat × FarByte))) (u : List (Nat × FarByte)) (vas keys : List Nat) (bs : List Byte),
        c.tpl.dirIn = true → c.tpl.mc = false → us = ((copyScrBytes c).zip far).splitBy (fun x y => x.2.joins y.2) →
        us[c.moved]? = some u → u.map (·.2) = vas.map .va → keys.length = u.length → keys.Nodup →
        (∀ i < u.length, (s.scrKey (u.getD i (0, .zero)).1).toOption = keys[i]?) →
        (∃ locs, v.locsOf .load true false vas = .ok locs ∧ ReadsAtOnce v vas locs
          ∧ bs = locs.map (Mem.read s.memory.home)) →
        Completes .copyStart s fun t => WroteBytes (Mem.read s.memory.scratch) (Mem.read t.memory.scratch) keys bs
          ∧ t.memory.home = s.memory.home ∧ t.regs = s.regs ∧ t.pc = s.pc ∧ t.tags = s.tags
          ∧ t.channel = { s.channel with cmds := s.channel.cmds.map fun x => if x.id = c.id then
              { c with moved := c.moved + 1, left := c.left - u.length, ended := decide (us.length ≤ c.moved + 1) } else x })
      ∧ (∀ (us : List (List (FarByte × Except Trap Byte))) (u : List (FarByte × Except Trap Byte)) (vas locs : List Nat)
          (bs : List Byte), c.tpl.dirIn = false →
        us = (copyOut v c far).splitBy (fun x y => x.1.joins y.1) → us[c.moved]? = some u →
        u.map (·.1) = vas.map .va → u.map (·.2) = bs.map .ok → v.locsOf .store true false vas = .ok locs →
        (∀ l ∈ locs, l < 2 ^ 48) → StacksReady v locs → locs.Nodup →
        Completes .copyStart s fun t => WroteBytes (Mem.read s.memory.home) (Mem.read t.memory.home) locs bs
          ∧ t.memory.scratch = s.memory.scratch ∧ t.regs = s.regs ∧ t.pc = s.pc ∧ t.tags = s.tags
          ∧ t.channel = { s.channel with cmds := s.channel.cmds.map fun x => if x.id = c.id then
              { c with
                moved := c.moved + 1, left := c.left - u.length, ended := decide (us.length ≤ c.moved + 1)
                ws := c.ws ++ locs.zip bs } else x }))
    ∧ (c.ended = true → CopyPublished s c →
      (c.fault = none → Completes .copyComplete s fun t => TagFinished { s with
          channel := { s.channel with cmds := s.channel.cmds.filter fun x => x.id ≠ c.id }
          memory := { s.memory with engDone := doneWrites s (.tag c.tag.toNat) c.ws [] } } t c.tag false)
      ∧ (∀ f, c.fault = some f → f.cause ≠ .eccunc → Completes .copyComplete s fun t => ∃ u, Logged { s with
          channel := { s.channel with cmds := s.channel.cmds.filter fun x => x.id ≠ c.id } } u 0x21
        ∧ TagFinished { u with memory := { u.memory with engDone := doneWrites s (.tag c.tag.toNat) c.ws [] } } t c.tag true))

/-- A failed engine's data are not sent any more, and these ranks are told so by requests to their devices (R261, R359). -/
def Told (s v : State) (id rank : Nat) (dest : List Nat) (dev : Nat → Nat) : Prop :=
  let stays (q : RemoteReq) : Prop := q ∈ s.memory.reqs ∧ ¬ (isData q.op = true ∧ q.owner = .coll id)
  (∀ q, stays q → q ∈ v.memory.reqs)
  ∧ (∀ r ∈ dest, ∃ q ∈ v.memory.reqs, q.op = .notice id rank r ∧ regionOf q.loc = peerRegion (dev r) ∧ q.sent = false)
  ∧ ∀ q ∈ v.memory.reqs, stays q ∨ ∃ r ∈ dest, q.op = .notice id rank r

/-- An instance ends with a record and a failed arrival at its barrier, and with `tell` the other ranks learn of it (R261, R262). -/
def InstanceFailed (s t : State) (x : Instance) (f : Trap) (tell : Bool) : Prop :=
  let others := if tell then (List.range x.n).filter (· ≠ x.rank) else []
  ∃ v u, v = { s with
      coll := { s.coll with
        live := s.coll.live.filter fun y => y.id ≠ x.id, inbox := s.coll.inbox.filter fun d => d.inst ≠ x.id
        notices := s.coll.notices ++ (others.filter fun r => rankDevice s r = s.fabric.devid.toNat).map fun r => (x.id, r) }
      memory := { s.memory with
        reqs := v.memory.reqs, nextReq := v.memory.nextReq, engDone := doneWrites s (.bar x.bar.toNat) x.ws [] } }
    ∧ Told s v x.id x.rank (others.filter fun r => rankDevice s r ≠ s.fabric.devid.toNat) (rankDevice s)
    ∧ Logged v u 0x26 ∧ ArrivesWith u t x.bar (some f)

/-- R261, R262, R358: an instance that learns of an abort, or whose receive has waited 100 ms for its data, or a send as long for credit,
ends with a record and a failed arrival at its barrier; only the timeout tells the other ranks. -/
def InstancesAbort : Prop :=
  ∀ (s : State) (x : Instance), InstanceAt s x →
    (Completes .abortNotice s fun t => InstanceFailed s t x ⟨.fabric, 2, 0⟩ false)
    ∧ (∀ (tr : Transfer) (f : Nat × Nat), tr ∈ x.pend → tr.asked = none → tr.src = some f → arrived s x.id (some f) = none →
      tr.since + 100000000 ≤ s.device.time →
      Completes .collectiveTimeout s fun t => InstanceFailed s t x ⟨.fabric, 3, 0⟩ true)
    ∧ (∀ q ∈ s.memory.reqs, q.owner = .coll x.id → isData q.op = true → q.sent = false → q.at_ + 100000000 ≤ s.device.time →
      Completes .collectiveTimeout s fun t => InstanceFailed s t x ⟨.fabric, 3, 0⟩ true)

/-- The reshard that runs for a tensor, or under a number. -/
def ReshardAt (s : State) (r : Reshard) : Prop :=
  r ∈ s.reshards ∧ ∀ x ∈ s.reshards, x.tensor = r.tensor ∨ x.id = r.id → x = r

/-- A reshard stops with a record and a failed arrival at its barrier, and with `tell` the other devices learn of it (R266, R359). -/
def ReshardFailed (s t : State) (r : Reshard) (f : Trap) (tell : Bool) : Prop :=
  let m3 := s.launch.m3
  let others := if tell then (otherRanks s).map (· * m3) else []
  ∃ v u, v = { s with
      reshards := s.reshards.filter fun x => x.tensor ≠ r.tensor
      coll := { s.coll with inbox := s.coll.inbox.filter fun d => d.inst ≠ r.id }
      memory := { s.memory with
        reqs := v.memory.reqs, nextReq := v.memory.nextReq, engDone := doneWrites s (.bar r.bar.toNat) r.ws [] } }
    ∧ Told s v r.id (s.launch.rank4 * m3) others (fun g => deviceOfRank s (g / m3))
    ∧ Logged v u 0x27 ∧ ArrivesWith u t r.bar (some f)

/-- R266, R291, R318 to R320, R358, R359: a piece whose data have come lands: its cells take their values, its bit is set at its home and it
is no longer to do; when every device is done, the replacement changes BASE, STRIDE, MAP and RS of the descriptor and gives the
barrier its arrival; a failure, another device's abort and 100 ms without data give a failed one. -/
def ReshardsLandAndEnd : Prop :=
  ∀ (s : State) (r : Reshard), ReshardAt s r →
    (r.tensor = s.input.index → ∀ (tr : Resharding) (d : Desc) (v u : State) (m : Moving) (va l n : Nat) (b : Byte)
        (ws : List (Nat × Byte)), n = s.input.index2 → n ∈ r.todo → readResharding s r.tensor = .ok (tr, d) v →
      m = ⟨r, tr, figures s.launch.mesh tr⟩ → pieceHere v m n = true →
      landCells m n (pieceCells s.launch.mesh tr s.launch.rank4 n) [] v = .ok ws u → u.reshards = s.reshards →
      u.memory.wf = true → va = (tr.prog + n / 8) % 2 ^ 64 → HomeBytes u va 1 [b] →
      (u.note (bytesAt va 1)).locsOf .store false false ((bytesAt va 1).map (· % 2 ^ 64)) = .ok [l] → l < 2 ^ 48 →
      StacksReady u [l] →
      Completes .reshardPieceLand s fun t =>
        WroteBytes (Mem.read u.memory.home) (Mem.read t.memory.home) [l] [b ||| BitVec.ofNat 8 (2 ^ (n % 8))]
        ∧ t.reshards = (s.reshards.map fun x => if x.tensor = r.tensor then
            { r with
              todo := r.todo.filter (· ≠ n), since := t.device.time
              ws := r.ws ++ (ws ++ [(l, b ||| BitVec.ofNat 8 (2 ^ (n % 8)))]) } else x)
        ∧ t.regs = u.regs ∧ t.bars = u.bars ∧ t.memory.scratch = u.memory.scratch)
    ∧ (r.tensor = s.input.index → ∀ (tr : Resharding × Desc) (bs sh : List Byte) (locs : List Nat) (a c : Nat) (s0 s1 s2 : State),
      r.todo = [] → (∀ g ∈ otherRanks s, (arrived s r.id (some (g * s.launch.m3, 1))).isSome = true ∧ (g, 1) ∈ r.sent) →
      readResharding s r.tensor = .ok tr s0 → a = descVa s r.tensor false → c = descVa s r.tensor true →
      HomeBytes s0 a 128 bs → s1 = s0.note (bytesAt a 128) → HomeBytes s1 c 128 sh →
      s2 = s1.note (bytesAt c 128) → s2.locsOf .store false false ((bytesAt a 128).map (· % 2 ^ 64)) = .ok locs →
      (∀ l ∈ locs, l < 2 ^ 48) → locs.Nodup → StacksReady s2 locs → s.memory.wf = true →
      Completes .reshardReplace s fun t => ∃ u new sp,
        ArrivesWith u t r.bar none ∧ u.reshards = (s.reshards.filter fun x => x.tensor ≠ r.tensor)
        ∧ u.memory.descs = (s.memory.descs.filter fun x => x.id ≠ r.tensor) ∧ u.bars = s.bars ∧ u.regs = s.regs
        ∧ u.coll = { s.coll with inbox := s.coll.inbox.filter fun d => d.inst ≠ r.id }
        ∧ u.memory.engDone = s.memory.engDone ++ [(.bar r.bar.toNat, r.ws ++ locs.zip new, sp)]
        ∧ u.memory.scratch = s.memory.scratch ∧ WroteBytes (Mem.read s.memory.home) (Mem.read u.memory.home) locs new
        ∧ (∀ i < 128, new[i]? = if i < 8 ∨ 40 ≤ i then sh[i]? else if i = 10 then bs[i]?.map (· &&& 0xFD) else bs[i]?))
    ∧ (r.tensor = s.input.index → Completes .reshardFail s fun t =>
        ReshardFailed s t r (if s.input.flag then { cause := .groupver } else ⟨.fabric, s.input.index2 % 16, 0⟩) true)
    ∧ (r.id = s.input.index → (∀ x ∈ s.coll.live, x.id ≠ s.input.index) →
      (Completes .abortNotice s fun t => ReshardFailed s t r ⟨.fabric, 2, 0⟩ false)
      ∧ ((∀ g ∈ otherRanks s, (arrived s r.id (some (g * s.launch.m3, 0))).isSome = true) → r.todo ≠ [] →
        r.since + 100000000 ≤ s.device.time →
        Completes .collectiveTimeout s fun t => ReshardFailed s t r ⟨.fabric, 3, 0⟩ true))

/-- An agreement-round message reaches this device, by its own event or in a packet (R285). -/
def RoundEvent (ev : Instr) (own : Instr) (n : Nat) (s : State) : Prop := ev = own ∨ (ev = .groupRound ∧ s.input.index = n ∧ s.input.packet.kind ≠ 8)

/-- The round messages that have left, with one more to each of these devices; none leaves before the device has its number (R301). -/
def Says (s : State) (dest : List (BitVec 14)) (m : BitVec 14 → GroupMsg) : List (BitVec 14 × GroupMsg) :=
  s.group.sent ++ if s.fabric.devset then dest.map fun d => (d, m d) else []

/-- R285: the proposer's round aborts: the other members are told, a lock on the proposal goes, and its waiting GPROPs fail. -/
def RoundAborted (s t : State) (r : Round) : Prop :=
  let told := r.members.filter (· ≠ s.fabric.devid)
  t.group.round = none ∧ t.group.cached = s.group.cached ∧ t.regs = s.regs ∧ t.pc = s.pc ∧ t.sec = s.sec
  ∧ t.group.lock = (if s.group.lock.map (·.2) = some r.hash then none else s.group.lock)
  ∧ t.group.decisions = s.group.decisions ++ (if told = [] then [] else [⟨false, r, [], told⟩])
  ∧ t.group.sent = Says s told (fun _ => .abort r.hash)
  ∧ t.group.waits = (s.group.waits.filter fun w => ¬ (w.1 = .prop ∧ proposalHash w.2.2 = r.hash))
  ∧ (∀ w, (s.group.waits.filter fun w => w.1 = .prop ∧ proposalHash w.2.2 = r.hash) = [w] →
      ArrivedAt { (s.bars[w.2.1.toNat]'w.2.1.isLt) with
        failed := (s.bars[w.2.1.toNat]'w.2.1.isLt).failed ++ [((s.bars[w.2.1.toNat]'w.2.1.isLt).gen + 1, { cause := .groupver })] }
        (t.bars[w.2.1.toNat]'w.2.1.isLt))
  ∧ ((∀ w ∈ s.group.waits, ¬ (w.1 = .prop ∧ proposalHash w.2.2 = r.hash)) → t.bars = s.bars)

/-- R285: a proposal is locked and signed by a member that holds no lock on another, when it is the next version and names distinct
ranks, this device among them, and a leaf is left; else it is refused. -/
def ProposalsAreAnswered : Prop :=
  ∀ (ev : Instr) (s : State) (cur : Descriptor) (ok : Prop), RoundEvent ev .propose 0 s → s.group.cached = some cur →
    ok = ((∀ v h, s.group.lock = some (v, h) → v = cur.ver + 1 → h = s.input.hash) ∧ s.input.desc.ver = cur.ver + 1
      ∧ wellFormedFor s.input.desc s.fabric.devid = true ∧ s.sec.leaf < 2 ^ 20) →
    Completes ev s fun t =>
      (ok → t = { s with
        sec := { s.sec with leaf := s.sec.leaf + 1 }
        group := { s.group with
          lock := some (cur.ver + 1, s.input.hash)
          sent := Says s [BitVec.ofNat 14 s.input.index2] fun _ =>
            .signature s.input.hash (xmssSign s.sec.leaf (natToBytes 32 s.input.hash.toNat)) } })
      ∧ (¬ ok → t = { s with group := { s.group with
          sent := Says s [BitVec.ofNat 14 s.input.index2] fun _ => .refuse s.input.hash } })

/-- R285: a refusal of a member, or GRTO without every signature, aborts the round; a signature of a member that comes in time joins the
round, and the last one decides it: every recipient gets the decision, and the proposer adopts what verifies, or fails. -/
def RoundsAreDecided : Prop :=
  ∀ (s : State) (r : Round) (m : BitVec 14), s.group.round = some r → m = BitVec.ofNat 14 s.input.index2 →
    (∀ ev, RoundEvent ev .refuse 1 s → r.hash = s.input.hash → m ∈ r.members →
      Completes ev s fun t => RoundAborted s t r)
    ∧ (r.deadline ≤ s.device.time → Completes .roundTimeout s fun t => RoundAborted s t r)
    ∧ (∀ ev, RoundEvent ev .signature 2 s → r.deadline < s.device.time → Completes ev s fun t => RoundAborted s t r)
    ∧ (∀ ev, RoundEvent ev .signature 2 s → s.device.time ≤ r.deadline → r.hash = s.input.hash → m ∈ r.members →
      (∀ g ∈ r.sigs, g.1 ≠ m) →
      let sigs := r.sigs ++ [(m, s.input.sig)]
      let told := r.all.filter (· ≠ s.fabric.devid)
      ((∃ x ∈ r.members, ∀ g ∈ sigs, g.1 ≠ x) → Completes ev s fun t =>
        t = { s with group := { s.group with round := some { r with sigs := sigs } } })
      ∧ (∀ cur, s.group.cached = some cur → (∀ x ∈ r.members, ∃ g ∈ sigs, g.1 = x) → Completes ev s fun t =>
        ∃ secret : List Byte, (r.desc.enc = false → secret = []) ∧ t.group.round = none
        ∧ t.group.decisions = s.group.decisions ++ (if told = [] then [] else [⟨true, { r with sigs := sigs }, secret, told⟩])
        ∧ t.group.sent = Says s told (fun d => .adopt r.hash r.desc sigs
            (if r.desc.enc = true ∧ d ∈ r.desc.ranks then mlkemEncapsulate d.toNat secret else []))
        ∧ t.group.cached = (if signedBy s r.desc r.hash sigs then some r.desc else some cur)
        ∧ (signedBy s r.desc r.hash sigs = false →
            t.group.waits = s.group.waits.filter fun w => ¬ (w.1 = .prop ∧ proposalHash w.2.2 = r.hash))
        ∧ t.regs = s.regs ∧ t.pc = s.pc))

/-- R265, R285, R286, R306, R307, R367: a valid adoption of a higher version is acknowledged and installs it, erases the group's old
key, releases its lock and meets the waiting instructions; one that the device has no use for is acknowledged alone, and one that
does not verify changes nothing. An abort is acknowledged and releases the lock. An acknowledgement ends the proposer's duty to its
sender, and a decision goes again to those that still owe one. -/
def DecisionsArrive : Prop :=
  ∀ (s : State) (from_ : BitVec 14) (d : Descriptor) (h : BitVec 256), from_ = BitVec.ofNat 14 s.input.index2 →
    d = s.input.desc → h = s.input.hash →
    (∀ (ev : Instr) (cur : Descriptor) (stale valid : Prop), RoundEvent ev .adopt 3 s → s.group.cached = some cur →
      stale = (h ∈ s.group.released ∨ d.ver.toNat ≤ cur.ver.toNat) →
      valid = (proposalHash d = h ∧ signedBy s d h s.input.sigs = true) →
      Completes ev s fun t =>
        (stale → t = { s with group := { s.group with sent := Says s [from_] fun _ => .ack h } })
        ∧ (¬ stale → ¬ valid → t = s)
        ∧ (¬ stale → valid → d.enc = true → s.fabric.devid ∈ d.ranks → mlkemDecapsulate s.input.bytes = none → t = s)
        ∧ (¬ stale → valid →
            ∀ secret, (if d.enc = true ∧ s.fabric.devid ∈ d.ranks then mlkemDecapsulate s.input.bytes = some secret
              else secret = []) →
            t.group.sent = Says s [from_] (fun _ => .ack h)
            ∧ t.group.cached = some d
            ∧ t.group.lock = (if s.group.lock.map (·.2) = some h then none else s.group.lock)
            ∧ t.group.waits = (s.group.waits.filter fun w => (waitOutcome s.fabric.devid d w).isNone)
            ∧ t.sec.keys = (if d.enc = true ∧ s.fabric.devid ∈ d.ranks
                then (⟨s.launch.group, d.ver, groupKey secret h d.ver⟩
                  :: s.sec.keys.filter fun k => k.group ≠ s.launch.group).take 64
                else s.sec.keys.filter fun k => k.group ≠ s.launch.group)))
    ∧ (∀ ev, RoundEvent ev .abort 4 s → Completes ev s fun t => t.group.sent = Says s [from_] (fun _ => .ack h)
        ∧ t.group.cached = s.group.cached ∧ t.regs = s.regs
        ∧ t.group.lock = (if h ∉ s.group.released ∧ s.group.lock.map (·.2) = some h then none else s.group.lock))
    ∧ (5 ≤ s.input.index → s.input.packet.kind ≠ 8 → Completes .groupRound s fun t => t = { s with group := { s.group with
        decisions := (s.group.decisions.map fun x => if x.round.hash = h
          then { x with unacked := x.unacked.filter (· ≠ from_) } else x).filter fun x => x.unacked ≠ [] } })
    ∧ (Completes .roundDecisionResend s fun t => t = { s with group := { s.group with
        sent := s.group.sent ++ if s.fabric.devset then
          s.group.decisions.flatMap fun x => x.unacked.map fun m => (m, decisionMsg x m) else [] } })

/-- R308, R365, R367: the owner's GRREL releases the held lock with a record; a notice of revocation of this device, signed by a majority
of the version, erases the keys of that group and kills its launches alone, with a record; with fewer signatures nothing happens. -/
def LocksAndRevocation : Prop :=
  (∀ (s : State) (v : Word) (h : BitVec 256), s.owner.owner = masterNo s.input.master → s.owner.hpend = false →
    s.input.value.getLsbD 0 = true → s.group.lock = some (v, h) → Completes .grrel s fun t => Logged { s with
      group := { s.group with lock := none, released := s.group.released ++ [h] } } t 0x36)
  ∧ (∀ s : State, s.input.index2 = s.fabric.devid.toNat → s.fabric.devid ∉ s.input.desc.ranks →
    Completes .revocationNotice s fun t =>
      ((noticeSigners s).length < s.input.desc.ranks.length / 2 + 1 → t = s)
      ∧ (s.input.desc.ranks.length / 2 + 1 ≤ (noticeSigners s).length → t.log.made = s.log.made + 1
        ∧ t.sec.keys = (s.sec.keys.filter fun k => k.group ≠ s.input.value)
        ∧ ∀ e ∈ s.sched.board, ∀ l, e.launch = some l → (∀ x ∈ s.sched.board, x.id = e.id → x = e) →
          if e.state = .issued ∧ l.group = s.input.value ∧ s.input.value ≠ 0 then
            ∃ x ∈ t.sched.board, x.id = e.id ∧ x.status = 6 ∧ x.killed = true
          else e ∈ t.sched.board))

/-- A write of an owner-only register comes from the owner, which has named no successor (R300, R302). -/
def FromOwner (s : State) : Prop := s.owner.owner = masterNo s.input.master ∧ s.owner.hpend = false

/-- The scoreboard has this entry, and no other of its number (R272). -/
def EntryAt (s : State) (e : Score) : Prop := e ∈ s.sched.board ∧ ∀ x ∈ s.sched.board, x.id = e.id → x = e

/-- The scoreboard's entry of this number is now `e`; nothing else differs. -/
def EntryNow (s t : State) (e : Score) : Prop :=
  t = { s with sched := { s.sched with board := s.sched.board.map fun x => if x.id = e.id then e else x } }

/-- A gang of an entry, replaced. -/
def withGang (e : Score) (g : Gang) : Score :=
  { e with gangs := e.gangs.map fun x => if x.first = g.first then g else x }

/-- R268: the owner's doorbell moves SWIDX; an index beyond the ring of an enabled stream sets SERR. -/
def DoorbellsMoveTheIndex : Prop :=
  ∀ (s : State) (c : CmdStream), FromOwner s → s.sched.streams.toList[s.input.index]? = some c →
    Completes .streamDoorbell s fun t =>
      t = { s with sched := { s.sched with streams := t.sched.streams } }
      ∧ ∀ n : Nat, t.sched.streams.toList[n]? = if n = s.input.index then some { c with
            widx := s.input.value.setWidth 32
            serr := c.serr || (c.en && decide (2 ^ c.log2 < (s.input.value.setWidth 32 - c.ridx).toNat)) }
          else s.sched.streams.toList[n]?

/-- The entry of a record in an empty scoreboard (R269, R272). -/
def firstScore (n : Nat) (r : List Byte) : Score :=
  let flags := field r 1 1
  { id := 0, stream := n, kind := field r 0 1, state := .waiting, ord := none
    wait := if flags / 2 % 2 = 1 then some (field r 3 1, BitVec.ofNat 64 (field r 8 8)) else none
    signal := if flags / 4 % 2 = 1 then some (field r 4 1, BitVec.ofNat 64 (field r 16 8)) else none
    level := field r 2 1, joined := none, bytes := r, launch := none, home := [], placed := 0, gangs := [], retired := []
    nerr := 0, status := 0, tend := 0, avail := [], killed := false, misses := 0, moved := false }

/-- R268, R269, R272: the next record of a stream in turn is decoded, and its read index moves; in an empty scoreboard its entry waits for
its fence, or at once a NOP or FSIG is done and raises its fence, an XFER or INVAL issues, and a LAUNCH joins its level. One with ORD
waits for the record of its stream before it alone, while that is not done. A record that R269 does not admit sets SERR. -/
def RecordsAreDecoded : Prop :=
  ∀ row ∈ [(Instr.nopRecord, 0), (.launchRecord, 1), (.xferRecord, 2), (.fsigRecord, 3), (.invalRecord, 4)],
  ∀ (s : State) (c : CmdStream) (pa : Nat) (r : List Byte), nextStream s = some s.input.index →
    s.sched.streams.toList[s.input.index]? = some c → pa = (c.base.toNat + c.ridx.toNat % 2 ^ c.log2 * 64) % 2 ^ 48 →
    pa ∉ s.memory.poison → StacksReady s [pa] → r = Mem.readBytes s.memory.home pa 64 →
    (recordOk c.own r = false → Completes row.1 s fun t =>
      t = { s with sched := { s.sched with streams := t.sched.streams } }
      ∧ ∀ n : Nat, t.sched.streams.toList[n]? = if n = s.input.index then some { c with serr := true }
          else s.sched.streams.toList[n]?)
    ∧ (recordOk c.own r = true → field r 0 1 = row.2 → (c.widx - (c.ridx + 1)).toNat ≤ 2 ^ c.log2 →
      (Completes row.1 s fun t => t.sched.turn = (s.input.index + 1) % 64 ∧ t.regs = s.regs ∧ t.memory.home = s.memory.home
        ∧ ∃ p : Nat → Option Nat, ∀ n : Nat, t.sched.streams.toList[n]? = (s.sched.streams.toList[n]?).map fun x =>
            { x with prev := p n, ridx := if n = s.input.index then c.ridx + 1 else x.ridx })
      ∧ (∀ x, c.prev = some x.id → EntryAt s x → x.state = .issued → field r 1 1 % 2 = 1 → Completes row.1 s fun t =>
          ∃ e ∈ t.sched.board, e.bytes = r ∧ e.stream = s.input.index ∧ e.state = .waiting ∧ e.ord = some x.id)
      ∧ (s.sched.board = [] → c.prev = none →
        let e := firstScore s.input.index r
        ((∃ f v, e.wait = some (f, v) ∧ (fence s f).toNat < v.toNat) → Completes row.1 s fun t =>
          t.sched.board = [e] ∧ t.sched.fences = s.sched.fences)
        ∧ ((∀ f v, e.wait = some (f, v) → v.toNat ≤ (fence s f).toNat) → Completes row.1 s fun t =>
          t.sched.board = (match row.2 with
            | 1 => [{ e with joined := some s.device.time }]
            | 2 | 4 => [{ e with joined := some s.device.time, state := .issued }]
            | _ => [])
          ∧ ∀ f : Nat, fence t f = match row.2, e.signal with
            | 0, some (k, v) | 3, some (k, v) =>
              if f = k ∧ k < 64 ∧ (fence s f).toNat < v.toNat then v else fence s f
            | _, _ => fence s f)))

/-- R269, R272: an entry has left the scoreboard with its signal given; no fence falls. -/
def EntryDone (s t : State) (e : Score) : Prop :=
  (∀ x ∈ t.sched.board, x.id ≠ e.id) ∧ (∀ f, (fence s f).toNat ≤ (fence t f).toNat)
  ∧ ∀ f v, e.signal = some (f, v) → f < 64 → v.toNat ≤ (fence t f).toNat

/-- An access that was translated through an entry of the range of an INVAL is on its way, or held at its homes (R81). -/
def InvalHeld (s : State) (e : Score) : Prop :=
  let va := field e.bytes 32 8
  let n := field e.bytes 40 8
  (s.launch.asn = BitVec.ofNat 16 (field e.bytes 24 2) ∧
    ∃ r ∈ s.memory.reqs, translated r = true ∧ (n = 0 ∨ (va ≤ r.va.toNat ∧ r.va.toNat < va + n * 65536)))
  ∨ ∃ h ∈ s.ordered.held, ∃ x l, s.score h.dom.launch = some x ∧ x.launch = some l ∧ l.asn = BitVec.ofNat 16 (field e.bytes 24 2)

/-- R81, R85, R269, R272, R311, R338: an XFER between existing addresses, whose stacks are ready, is complete when its bytes are
installed; one to the host when the bytes that have left are answered for. An address that does not exist has no effect that the
manual gives. An INVAL is complete when no TLB entry of its range is left, and no access translated through one is outstanding. -/
def XfersAndInvalsComplete : Prop :=
  (∀ (s : State) (e : Score) (src dst : Bool × Nat) (n : Nat) (byte : Nat → Byte), EntryAt s e → e.id = s.input.index →
    e.kind = 2 → e.state = .issued → src = (decide (field e.bytes 24 8 / 2 ^ 63 = 1), field e.bytes 24 8 % 2 ^ 63) →
    dst = (decide (field e.bytes 32 8 / 2 ^ 63 = 1), field e.bytes 32 8 % 2 ^ 63) → n = field e.bytes 40 8 →
    (src.1 = true ∨ physKind s.device.sscfg src.2 = .hbm ∨ physKind s.device.sscfg src.2 = .stacked) →
    (dst.1 = true ∨ physKind s.device.sscfg dst.2 = .hbm ∨ physKind s.device.sscfg dst.2 = .stacked) →
    (src.1 = false → s.stackWaits ((List.range n).map (src.2 + ·)) = false) →
    (dst.1 = false → StacksReady s ((List.range n).map (dst.2 + ·))) →
    (∀ i, byte i = if src.1 then s.input.bytes.getD i 0 else s.homeByte (s.device.viewOf (src.2 + i))) →
    (dst.1 = false → e.moved = false → dst.2 + n ≤ 2 ^ 48 → s.memory.wf = true →
      (∀ i < n, s.device.viewOf (dst.2 + i) = dst.2 + i) →
      Completes .xferDone s fun t => EntryDone s t e ∧ t.regs = s.regs
        ∧ WroteBytes (Mem.read s.memory.home) (Mem.read t.memory.home) ((List.range n).map (dst.2 + ·)) ((List.range n).map byte))
    ∧ (dst.1 = true → e.moved = false → Completes .xferDone s fun t => t.memory.home = s.memory.home ∧ t.regs = s.regs
        ∧ t.sched.board = (s.sched.board.map fun x => if x.id = e.id then { e with moved := true } else x)
        ∧ ∀ i < n, ∃ r ∈ t.memory.reqs, ∃ bs k, r.op = .write bs ∧ r.owner = .xfer e.id ∧ r.loc + k = regionBase hostRegion + dst.2 + i
            ∧ bs[k]? = some (byte i))
    ∧ (dst.1 = true → e.moved = true → (∀ r ∈ s.memory.reqs, r.owner ≠ .xfer e.id) →
        Completes .xferDone s fun t => EntryDone s t e ∧ t.regs = s.regs ∧ t.memory = s.memory))
  ∧ (∀ (s : State) (e : Score) (a : Nat), EntryAt s e → e.id = s.input.index → e.kind = 2 → e.state = .issued →
    field e.bytes 24 8 = a → a < 2 ^ 63 → physKind s.device.sscfg a ≠ .hbm → physKind s.device.sscfg a ≠ .stacked →
    exec .xferDone s = .fault (.reservedAddress a))
  ∧ (∀ (s : State) (e : Score) (gone : TlbEntry → Prop), EntryAt s e → e.id = s.input.index → e.kind = 4 → e.state = .issued →
    (∀ x, gone x ↔ x.asn = BitVec.ofNat 16 (field e.bytes 24 2) ∧ (field e.bytes 40 8 = 0
      ∨ (x.base < field e.bytes 32 8 + field e.bytes 40 8 * 65536 ∧ field e.bytes 32 8 < x.base + x.size))) →
    Completes .invalDone s fun t => t.regs = s.regs
      ∧ t.memory = { s.memory with tlb := t.memory.tlb, tlbClu := t.memory.tlbClu, tlbDie := t.memory.tlbDie }
      ∧ (∀ x, x ∈ t.memory.tlb ↔ x ∈ s.memory.tlb ∧ ¬ gone x)
      ∧ (∀ x, x ∈ t.memory.tlbClu ↔ x ∈ s.memory.tlbClu ∧ ¬ gone x.2)
      ∧ (∀ x, x ∈ t.memory.tlbDie ↔ x ∈ s.memory.tlbDie ∧ ¬ gone x.2)
      ∧ (¬ InvalHeld s e → EntryDone s t e) ∧ (InvalHeld s e → t.sched = s.sched))

/-- R271: the launch fails before any task starts: it leaves the scoreboard, and its completion record has this STATUS. -/
def LaunchFails (s : State) (e : Score) (l : Launch) (status : Nat) : Prop :=
  ∀ locs, e.launch = none → launchLocs s l .store l.crec.toNat 64 = some locs →
    (∀ x ∈ locs, x < 2 ^ 48 ∧ s.stackFailed x = false) → locs.Nodup → s.memory.wf = true →
    Completes .launchIssue s fun t => EntryDone s t e ∧ ∃ bs, WroteBytes (Mem.read s.memory.home) (Mem.read t.memory.home) locs bs
      ∧ bs.take 8 = natToBytes 4 status ++ natToBytes 4 e.nerr

/-- R38, R44, R242, R270, R271, R274: a ready launch whose image, shape and launch block pass their checks is issued with what its tasks
share; it fails with STATUS 1 for its image, 2 for its shape or group, 3 for its arguments or launch block, in that order. It waits while
a memory stack has neither reported ready nor failed (the model's reading, log entry 25). -/
def LaunchesAreIssued : Prop :=
  ∀ (s : State) (e : Score) (l : Launch), s.sched.board = [e] → e.id = s.input.index → e.kind = 1 → e.state = .waiting →
    e.ord = none → (∀ f v, e.wait = some (f, v) → v.toNat ≤ (fence s f).toNat) → l = launchOf s e →
    (stacksSettled s = false → Completes .launchIssue s fun t => t = s)
    ∧ (stacksSettled s = true →
      (l.image.toNat % 4096 ≠ 0 ∨ launchRead s l l.image.toNat 128 = none ∨ imageBytes s l = none → LaunchFails s e l 1)
      ∧ ∀ (hb img : List Byte) (h : Header) (s1 : State), launchRead s l l.image.toNat 128 = some hb →
        imageBytes s l = some img → h = Header.ofBytes hb → l.image.toNat % 4096 = 0 → s1 = copyData s h l img →
        (headerOk hb = false ∨ (l.det = true ∧ h.detok = false) ∨ tablesOk l.det img = false → LaunchFails s e l 1)
        ∧ (headerOk hb = true → (l.det = true → h.detok = true) → tablesOk l.det img = true →
          (shapeOk h l = false ∨ groupOf s1 h l = none → LaunchFails s e l 2)
          ∧ ∀ g size, shapeOk h l = true → groupOf s1 h l = some (g, size) →
            (launchRead s l (field e.bytes 48 8) 64 = none ∨ blockOk s h l = false → LaunchFails s e l 3)
            ∧ ∀ args, launchRead s l (field e.bytes 48 8) 64 = some args → blockOk s h l = true →
              Completes .launchIssue s fun t => t = { s1 with
                channel := s1.channel.forget e.id
                memory := { s1.memory with cached := if s1.memory.cachedBy = e.id then [] else s1.memory.cached }
                sched := { s1.sched with board := [{ e with
                  state := .issued, home := s1.memory.home, avail := availableCores s
                  launch := some { l with
                    check := (hb.drop 120).take 8, header := h, tables := ImageTables.ofBytes img, m1 := (shapeOf h l).1
                    m2 := (shapeOf h l).2.1, m3 := (shapeOf h l).2.2, rank4 := g, gsize := size
                    args := (List.range 8).map fun i => BitVec.ofNat 64 (field args (8 * i) 8) } }] } }))

/-- A cluster of these cores needs a transfer of the launch's image: the record asks for it, or the cluster does not hold it (R274). -/
def NeedsImage (s : State) (e : Score) (l : Launch) (cores : List Nat) : Prop :=
  ∃ c ∈ cores, field e.bytes 1 1 / 16 % 2 = 1
    ∨ ∀ r ∈ s.sched.residents, ¬ (r.cluster = c / 4 ∧ r.image = l.image ∧ r.asn = l.asn ∧ r.check = l.check)

/-- The completion record of a launch at its home (R271). -/
def RecordAt (s t : State) (locs : List Nat) (e : Score) : Prop :=
  WroteBytes (Mem.read s.memory.home) (Mem.read t.memory.home) locs
    (natToBytes 4 e.status ++ natToBytes 4 e.nerr ++ natToBytes 8 e.tend ++ natToBytes 16 0 ++ coreBits e.avail)

/-- A launch's completion record has its place in this device's memory (R270). -/
def RecordPlace (s : State) (l : Launch) (locs : List Nat) : Prop :=
  launchLocs s l .store l.crec.toNat 64 = some locs ∧ (∀ x ∈ locs, x < 2 ^ 48 ∧ s.stackFailed x = false) ∧ locs.Nodup
  ∧ s.memory.wf = true

/-- R56 to R58, R271, R274: the first launch's next gang goes to the cores that the placement gives, with its image resident there; a
transfer that does not match is made again, and the third that fails ends the placement with STATUS 4, and the launch where no
gang of it has been placed. R273: a ready launch that has waited AGEINT rises one level. -/
def GangsArePlaced : Prop :=
  (∀ (s : State) (e : Score) (l : Launch) (cores : List Nat) (img : List Byte), nextLaunch s = some e → EntryAt s e →
    e.id = s.input.index → e.launch = some l → resuming e = false →
    placeNext l e.avail (freeCores s) (e.placed * l.m3) = some cores → imageBytes s l = some img →
    (s.input.flag = false ∨ ¬ NeedsImage s e l cores → (∀ c ∈ cores, transferImage s (c / 4) img ≠ none) →
      Completes .gangPlace s fun t =>
      t.sched.occupied = s.sched.occupied ++ cores.zipIdx.map (fun c => ⟨c.1, e.id, e.placed * l.m3 + c.2, false⟩)
      ∧ t.sched.board = (s.sched.board.map fun x => if x.id = e.id then { e with
          placed := e.placed + 1, misses := 0
          gangs := e.gangs ++ [⟨e.placed * l.m3, cores, s.sched.nextGang, false, [], false, []⟩] } else x)
      ∧ t.sched.nextGang = s.sched.nextGang + 1
      ∧ (∀ c ∈ cores, ∃ r ∈ t.sched.residents, r.cluster = c / 4 ∧ r.image = l.image ∧ r.asn = l.asn ∧ r.check = l.check)
      ∧ t = { s with sched := { s.sched with
          occupied := t.sched.occupied, board := t.sched.board, nextGang := t.sched.nextGang, residents := t.sched.residents } })
    ∧ (s.input.flag = true → NeedsImage s e l cores →
      (e.misses < 2 → Completes .gangPlace s fun t => EntryNow s t { e with misses := e.misses + 1 })
      ∧ (2 ≤ e.misses → 0 < e.placed → Completes .gangPlace s fun t => EntryNow s t { e with misses := 3, status := 4 })
      ∧ (∀ locs, 2 ≤ e.misses → e.placed = 0 → RecordPlace s l locs → Completes .gangPlace s fun t => EntryDone s t e
          ∧ RecordAt s t locs { e with status := 4, tend := s.device.time })))
  ∧ (∀ (s : State) (e : Score) (t0 : Nat), EntryAt s e → e.id = s.input.index → e.kind = 1 → e.placed = 0 → e.level < 30 →
    e.joined = some t0 → s.sched.ageint ≠ 0 → t0 + s.sched.ageint * 1000 ≤ s.device.time →
    Completes .launchAgeing s fun t => EntryNow s t { e with level := e.level + 1, joined := some s.device.time })

/-- R45, R46: a task starts on the free core in focus at its kernel's entry, with its arguments, data and private areas in the registers,
the others zero, no trap level, empty queues and free tags, and its scratchpads as the image says; of the fabric-cached copies it
meets none of another launch (R106, the model's reading, log entry 60). R309, R312: no core of a frozen or too hot device starts one. -/
def TasksStart : Prop :=
  ∀ (s : State) (o : Occupant) (e : Score) (l : Launch) (img : Resident), occupantOf s s.input.index = some o →
    o.started = false →
    s.sched.residents.find? (fun r => r.cluster = s.input.index / 4 ∧ r.image = l.image ∧ r.asn = l.asn ∧ r.check = l.check)
      = some img →
    s.core.toNat = s.input.index → s.status = .none → s.input.index ∉ s.sched.failed → s.sec.frozen = false →
    s.plat.hot = false → EntryAt s e → e.id = o.entry → e.launch = some l →
    (s.launch.entry = o.entry → s.launch.task = o.task → s.ckpt = none) →
    Completes .taskStart s fun t =>
      t.status = .running ∧ t.pc = l.image + BitVec.ofNat 64 ((l.header.table 0).1 + l.header.entry)
      ∧ t.launch.task = o.task ∧ t.launch.header = l.header ∧ t.launch.args = l.args ∧ t.launch.entry = l.entry
      ∧ (∀ r : Reg, t.getReg r = if 1 ≤ r.toNat ∧ r.toNat ≤ 8 then l.args.getD (r.toNat - 1) 0
          else if r = 60 then l.data
          else if r = 61 then BitVec.ofNat 64 (if privSize l = 0 then 0 else privBase l o.task)
          else if r = 62 then BitVec.ofNat 64 ((if privSize l = 0 then 0 else privBase l o.task) + privSize l)
          else 0)
      ∧ t.trap = { s.trap with
          tl := 0, tvec := 0, l1 := ⟨0, 0, 0, 0, none⟩, l2 := ⟨0, 0, 0, 0, none⟩, banks := t.trap.banks, trapen := false }
      ∧ (∀ q, t.queue q = ⟨[], none, none, 0, 0⟩) ∧ (∀ a b, t.fifo a b = 0) ∧ t.tags = ⟨0, 0, Vector.replicate 64 0⟩
      ∧ (∀ i : Nat, i < 512 → t.bars[i]? = some ⟨0, 1, 0, 0, 0, [], []⟩) ∧ t.fpstat = 0 ∧ t.isn = 0 ∧ t.wait = none
      ∧ t.memory.scratch = startScratch l img.bytes ∧ t.memory.staging = [] ∧ t.reel.mode = .closed
      ∧ (s.memory.cachedBy ≠ e.id → t.memory.cached = []) ∧ t.channel.tableOf = some e.id ∧ t.channel.mine = 0
      ∧ t.sched.occupied = s.sched.occupied.map fun x => if x.core = s.input.index then { x with started := true } else x

/-- Every engine write of the task is visible (R63): no collective and no reshard of it runs, and no write of the device is on its way. -/
def WritesDone (s : State) : Prop :=
  s.coll.live = [] ∧ s.reshards = [] ∧ ∀ r ∈ s.memory.reqs, State.reqLocs r = [] ∨ ∃ k, r.owner = .xfer k

/-- R63, R64, R271: a task that has left by EXIT frees its core and counts in its launch once its engines' writes are visible; a TAIL's
tracker loses what has drained, and with nothing left its task is complete; a launch all of whose tasks have ended writes its
completion record and signals. -/
def TasksAndLaunchesEnd : Prop :=
  (∀ (s : State) (e : Score), s.status = .retired → WritesDone s → s.input.index = s.core.toNat → EntryAt s e →
    e.id = s.launch.entry →
    Completes .taskRetire s fun t => t.status = .none
      ∧ t.sched.occupied = (s.sched.occupied.filter fun o => ¬ (o.entry = e.id ∧ o.task = s.launch.task))
      ∧ t.sched.board = (s.sched.board.map fun x => if x.id = e.id then { e with
          retired := e.retired ++ [s.launch.task], tend := max e.tend s.device.time } else x)
      ∧ t.matrix.holder = (if s.matrix.holder = some (coreRank s) then none else s.matrix.holder)
      ∧ t.memory.home = s.memory.home)
  ∧ (∀ s : State, s.status = .retired → ¬ WritesDone s → s.input.index = s.core.toNat → Completes .taskRetire s fun t => t = s)
  ∧ (∀ s : State, s.status ≠ .tailed → Completes .tailTrackerDrain s fun t => t = { s with sched := { s.sched with
      tracker := s.sched.tracker.filter fun x => ¬ (x.core = s.core.toNat ∧ trackedDone s x) } })
  ∧ (∀ (s : State) (e : Score), s.status = .tailed → (∀ x ∈ s.sched.tracker, x.core = s.core.toNat → trackedDone s x = true) →
    WritesDone s → s.memory.uncertain = [] → EntryAt s e → e.id = s.launch.entry →
    Completes .tailTrackerDrain s fun t => t.status = .none
      ∧ (∀ x ∈ t.sched.tracker, x.core ≠ s.core.toNat)
      ∧ t.sched.board = (s.sched.board.map fun x => if x.id = e.id then { e with
          retired := e.retired ++ [s.launch.task], tend := max e.tend s.device.time } else x))
  ∧ (∀ (s : State) (e : Score) (l : Launch) (locs : List Nat), EntryAt s e → e.id = s.input.index → e.state = .issued →
    e.kind = 1 → e.launch = some l → e.retired.length = e.placed * l.m3 →
    (e.placed = l.ntask / l.m3 ∨ e.misses = 3 ∨ e.killed = true) → RecordPlace s l locs →
    Completes .launchComplete s fun t => EntryDone s t e ∧ RecordAt s t locs e)

/-- R110, R225, R273, R276, R277: the gang whose cores the first launch needs becomes a victim; its core in focus halts; its save commits
what is staged, then keeps the context and ends the lease; a gang that has been saved whole frees its cores and is parked at the
head of its level; it goes on where it is placed again, with the registers, the queues and the pc of its save, once it has the
array where its kernel declares a lease (the model's reading, log entry 61). -/
def GangsAreSavedAndResumed : Prop :=
  (∀ (s : State) (e v : Score) (g : Gang), nextLaunch s = some e → victims s e.level = [(v, g)] → EntryAt s v →
    fits e ((List.range 256).filter (freeSoon s).contains) = false →
    fits e ((List.range 256).filter (freeSoon s ++ heldCores s (v, g)).contains) = true →
    Completes .preemptRequest s fun t => EntryNow s t
      (withGang v { g with saving := true, halts := [] }))
  ∧ (∀ (s : State) (e : Score) (g : Gang) (o : Occupant), victimAt s s.input.index = some (e, g, o) → EntryAt s e →
    s.input.index = s.core.toNat →
    (s.status = .running ∨ s.status = .leaseWait → Completes .coreHalt s fun t =>
      EntryNow { s with status := .halted } t (withGang e (haltedAt g o.task s.device.time)))
    ∧ (s.status = .halted → s.channel.cmds = [] → s.grid.queue = [] → s.grid.run = none →
      (s.memory.staging ≠ [] → StagingLocal s → s.memory.wf = true → Completes .contextSave s fun t =>
        Committed s t ∧ t.status = .halted ∧ t.revocable = false ∧ t.regs = s.regs ∧ t.pc = s.pc ∧ t.queues = s.queues)
      ∧ (∀ l, s.memory.staging = [] → (∀ r ∈ s.memory.reqs, ∃ k, r.owner = .coll k ∨ r.owner = .xfer k) → e.killed = false →
        s.memory.uncertain = [] → e.launch = some l → slotOk s l o.task = true → gangOf e o.task = some g → o.entry = e.id →
        Completes .contextSave s fun t => t.status = .saved ∧ t.sched.occupied = s.sched.occupied
          ∧ t.matrix.holder = (if s.matrix.holder = some (coreRank s) then none else s.matrix.holder)
          ∧ t.sched.board = (s.sched.board.map fun x => if x.id = e.id
              then withGang e { g with saved := g.saved ++ [o.task] } else x)
          ∧ ∃ c, t.saved = s.saved ++ [c] ∧ c.pc = s.pc ∧ c.regs = s.regs ∧ c.banks = s.trap.banks ∧ c.vregs = s.vregs
            ∧ c.kregs = s.kregs ∧ c.mregs = s.mregs ∧ c.queues = s.queues ∧ c.tags = s.tags ∧ c.bars = s.bars
            ∧ c.entry = s.launch.entry ∧ c.task = s.launch.task ∧ c.fpstat = s.fpstat ∧ c.ret = s.ret)))
  ∧ (∀ (s : State) (e : Score) (g : Gang), EntryAt s e → e.id = s.input.index → e.gangs = [g] → g.saving = true →
    (∀ o ∈ s.sched.occupied, o.entry = e.id → o.core ∈ g.cores → o.task ∈ g.saved) → g.saved ≠ [] →
    Completes .gangRequeue s fun t => t = { s with sched := { s.sched with
      board := s.sched.board.map fun x => if x.id = e.id
        then withGang e { g with saving := false, parked := true, order := s.sched.nextGang } else x
      occupied := s.sched.occupied.filter fun o => ¬ (o.entry = e.id ∧ o.core ∈ g.cores)
      nextGang := s.sched.nextGang + 1 } })
  ∧ (∀ (s : State) (e : Score) (l : Launch) (g : Gang) (cores : List Nat) (c : SavedContext) (core : Nat),
    nextLaunch s = some e → EntryAt s e → e.id = s.input.index → e.launch = some l → headParked s = some (e, g) →
    s.sec.frozen = false → s.plat.hot = false →
    placeFree (freeCores s) l.m1 l.m2 l.m3 = some cores → s.saved = [c] → c.entry = e.id → c.task ∈ g.saved →
    cores[c.task - g.first]? = some core → g.first ≤ c.task →
    Completes .gangResume s fun t => t.core = BitVec.ofNat 8 core ∧ t.pc = c.pc ∧ t.regs = c.regs ∧ t.trap.banks = c.banks
      ∧ t.trap.tl = c.tl ∧ t.vregs = c.vregs ∧ t.kregs = c.kregs ∧ t.mregs = c.mregs ∧ t.queues = c.queues
      ∧ t.launch = c.launch ∧ t.isn = c.isn ∧ t.wait = c.wait ∧ t.saved = []
      ∧ t.ret = s.ret ∧ t.tags = s.tags ∧ t.bars = s.bars
      ∧ (c.launch.header.lease = 0 → t.status = .running ∧ t.memory.snap = s.memory.home)
      ∧ (c.launch.header.lease ≠ 0 → t.status = .leaseWait ∧ t.matrix.reload = true)
      ∧ t.sched.occupied = s.sched.occupied ++ (cores.zipIdx.filter fun x => g.saved.contains (g.first + x.2)).map
          fun x => ⟨x.1, e.id, g.first + x.2, true⟩)

/-- R361, R363: a save that takes 25 µs is recorded; one that takes 1 ms kills the task, whose launch ends with STATUS 6. -/
def SavesOverrun : Prop :=
  ∀ (s : State) (e : Score) (g : Gang) (o : Occupant), victimAt s s.input.index = some (e, g, o) → EntryAt s e → o.entry = e.id →
    (s.input.index = s.core.toNat → s.status ≠ .running) → (s.input.index = s.core.toNat → s.status ≠ .leaseWait) →
    (∀ since, g.halts = [(o.task, since, 0)] → since + 25000 ≤ s.device.time → Completes .saveOverrun25us s fun t => ∃ u, Logged s u 0x31
      ∧ EntryNow u t (withGang e { g with halts := [(o.task, since, 1)] }))
    ∧ (∀ since, g.halts = [(o.task, since, 1)] → since + 1000000 ≤ s.device.time → Completes .saveOverrun1ms s fun t =>
      t.log.made = s.log.made + 1
      ∧ t.sched.occupied = (s.sched.occupied.filter fun x => ¬ (x.entry = o.entry ∧ x.task = o.task))
      ∧ (∀ x ∈ t.sched.board, x.id = e.id → x.status = 6 ∧ x.retired = e.retired ++ [o.task])
      ∧ (s.input.index = s.core.toNat → s.status = .halted → t.status = .none))

/-- R61, R333, R345, R346, R362: the owner's KILLREQ stops the launch's running task with STATUS 6; a failed core is recorded and removed; its
task is rerun while it is revocable and has passed no PHASE boundary, else it ends in error. -/
def KillsAndFailures : Prop :=
  (∀ (s : State) (e : Score), FromOwner s → EntryAt s e → s.input.value.extractLsb' 0 8 = BitVec.ofNat 8 e.id → e.id < 256 →
    s.input.value.getLsbD 8 = true → e.kind = 1 → e.state = .issued → s.launch.entry = e.id → s.status = .running →
    Completes .launchKill s fun t => t.status = .killed ∧ t.killed = none ∧ t.memory.staging = [] ∧ t.memory.own = []
      ∧ t.memory.home = s.memory.home ∧ (∀ x ∈ t.sched.board, x.id = e.id → x.status = 6 ∧ x.killed = true)
      ∧ t.helper.running = false
      ∧ ∀ q, (t.queue q).halt = none ∧ (t.queue q).entries.length ≤ 1 ∧ ∀ x, t.current q = some x → x.stage = .run)
  ∧ (∀ (s : State) (o : Occupant) (e : Score), occupantOf s s.input.index = some o → s.input.index = s.core.toNat →
    s.launch.entry = o.entry → s.launch.task = o.task →
    s.status = .running ∨ s.status = .leaseWait ∨ s.status = .halted ∨ s.status = .debug ∨ s.status = .killed
      ∨ s.status = .retired → EntryAt s e → e.id = o.entry →
    Completes .coreFail s fun t => t.status = .none ∧ t.sched.failed = s.sched.failed ++ [s.input.index]
      ∧ t.log.made = s.log.made + 1
      ∧ (s.revocable = true → s.phased = false → s.status ≠ .killed → s.status ≠ .retired →
          t.sched.occupied = (s.sched.occupied.map fun x => if x.core = s.input.index then { x with started := false } else x)
          ∧ t.sched.board = s.sched.board)
      ∧ (s.revocable = false ∨ s.status = .killed ∨ s.status = .retired →
          t.sched.occupied = (s.sched.occupied.filter fun x => ¬ (x.entry = o.entry ∧ x.task = o.task))
          ∧ ∀ x ∈ t.sched.board, x.id = e.id → x.retired = e.retired ++ [o.task]
            ∧ (s.status = .killed → x.nerr = e.nerr ∧ x.status = e.status)
            ∧ (s.status ≠ .killed → x.nerr = e.nerr + 1 ∧ x.status = if e.status = 0 then 5 else e.status)))

/-- R175, R315: the debug interface holds a running task and lets it go on, with break enabled or not. -/
def DebugHoldsTheTask : Prop :=
  ∀ s : State,
    (Completes .debugStop s fun t =>
      t = { s with status := if s.status = .running then .debug else s.status, breakOn := s.input.flag })
    ∧ Completes .debugResume s fun t =>
      t = { s with status := if s.status = .debug then .running else s.status, breakOn := s.input.flag }

/-- R279, R284, R287, R309, R357: the packet that arrives passes the checks of its kind and is this one, opened: for this device, which is not
frozen, intact, of the group's version, and in the clear outside an ENC group or as a round message, else opened with the version's
key. -/
def Admitted (s : State) (kind : Byte) (p : Packet) : Prop :=
  let q := s.input.packet
  s.sec.frozen = false ∧ q.bad = false ∧ q.kind = kind ∧ kind.toNat ≤ 8 ∧ q.dst = s.fabric.devid
  ∧ (kind ≠ 8 → ∀ d, s.group.cached = some d → q.gv = d.ver.setWidth 16)
  ∧ ((q.enc = false ∧ (kind = 8 ∨ ∀ d, s.group.cached = some d → d.enc = false) ∧ p = q)
    ∨ (q.enc = true ∧ ∃ k b, keyFor s q.gv = some k
        ∧ gcmOpen k (packetNonce q) (packetHead q) q.payload q.tag = some b ∧ p = { q with payload := b }))

/-- Only the deduplication window of one source differs; nothing that it counted as performed is new to it (R283). -/
def OneWindow (s u : State) (src : BitVec 14) : Prop :=
  u = { s with fabric := { s.fabric with windows := u.fabric.windows } }
  ∧ (∀ x, x ≠ src → windowOf u x = windowOf s x)
  ∧ ∀ k, (windowOf s src).place k = .done → (windowOf u src).place k = .done

/-- The window of one source now counts this number as performed (R283). -/
def Marked (s u : State) (src : BitVec 14) (n : Nat) : Prop := OneWindow s u src ∧ (windowOf u src).place n = .done

/-- A packet of 8 fields that answers another one, with the same number and address (R279). -/
def AnswerTo (p a : Packet) (kind : Byte) (aux : Word) (payload : List Byte) : Prop :=
  a.dst = p.src ∧ a.kind = kind ∧ a.seq = p.seq ∧ a.addr = p.addr ∧ a.aux = aux ∧ a.payload = payload ∧ a.enc = false
  ∧ a.ackreq = false

/-- R278 to R281: a packet of a die, of a group without encryption, leaves by the port with the least load among those with a route, the
lowest of several, as it has room: with this device as source and the group's version, as intact flits in sequence whose data are its
bytes, the last flit filled with zeros, which stay in the retry buffer. -/
def PacketsLeave : Prop :=
  ∀ (s : State) (p q : Packet) (die n : Nat), s.fabric.devset = true → (∀ d, s.group.cached = some d → d.enc = false) →
    n ∈ egressPorts s p.dst.toNat die →
    (∀ m ∈ egressPorts s p.dst.toNat die, portLoad s n < portLoad s m ∨ (portLoad s n = portLoad s m ∧ n ≤ m)) → n < 36 →
    q = { p with src := s.fabric.devid, gv := groupGv s } → (port s n).queue = [] →
    (port s n).retry.length + ((packetBytes q).length + 247) / 248 ≤ 512 →
    let t := sendPacket s p die
    t.fabric.out = s.fabric.out ++ [q]
    ∧ (∀ m, m ≠ n → port t m = port s m)
    ∧ ∃ fs : List Flit, (port t n).retry = (port s n).retry ++ fs.map (fun f => (f, q))
      ∧ (port t n).line = (port s n).line ++ fs ∧ (port t n).queue = []
      ∧ fs.length = ((packetBytes q).length + 247) / 248 ∧ (∀ f ∈ fs, flitIntact f = true ∧ f.nak = false)
      ∧ (∀ i : Nat, i < fs.length → fs[i]?.map (·.fseq) = some ((port s n).fseq + BitVec.ofNat 12 i)
        ∧ fs[i]?.map (·.fkind) = some (if i = 0 then 1 else 2))
      ∧ (fs.flatMap (·.data)).take (packetBytes q).length = packetBytes q

/-- The locations of bytes at an address of this device, all of its memory and with their stacks ready (R74, R85, R311). -/
def TargetAt (s : State) (a n : Nat) (locs : List Nat) : Prop :=
  locs = (bytesAt a n).map s.device.viewOf ∧ (∀ x ∈ bytesAt a n, addrOk s x = true) ∧ StacksReady s locs

/-- R74, R85, R100, R107, R282, R283, R337: a read is answered with its unit, as it stands, or for a plain read as it stood when the snapshot
opened; a write or an atomic is performed at its home once and answered, again only with the answer when it comes again, and not at
all beyond the window; an address that does not exist has no effect that the manual gives. -/
def OthersRequestsAreServed : Prop :=
  (∀ (s : State) (p : Packet) (a : Nat) (locs : List Nat), Admitted s 0 p → isPart p = false → a = p.addr.toNat / 64 * 64 →
    (TargetAt s a 64 locs → Completes .remoteRead s fun t => ∃ u x, OneWindow s u p.src
      ∧ t = sendPacket u x (homeDie p.addr.toNat)
      ∧ AnswerTo p x 1 (if ∃ l ∈ locs, s.poisoned l = true then 1 else 0)
          (locs.map (homeRead s.device.pkfmt (if p.aux = 0 then s.memory.home else s.homeAt (p.aux.toNat - 1)))))
    ∧ ((∃ x ∈ bytesAt a 64, addrOk s x = false) → ∃ x, exec .remoteRead s = .fault (.reservedAddress x)))
  ∧ (∀ (s : State) (p : Packet) (a : Nat) (locs : List Nat), Admitted s 2 p → isPart p = false → a = p.addr.toNat →
    ((windowOf s p.src).place p.seq.toNat = .fresh → TargetAt s a p.payload.length locs →
      Completes .remoteWrite s fun t => ∃ u v x, u = s.install (locs.zip p.payload) ∧ Marked u v p.src p.seq.toNat
        ∧ t = sendPacket v x (homeDie a) ∧ AnswerTo p x 5 0 [] ∧ Installed s u
        ∧ (s.memory.wf = true → (∀ l ∈ locs, isPacked l = false ∧ l < 2 ^ 48) → locs.Nodup →
          WroteBytes (Mem.read s.memory.home) (Mem.read u.memory.home) locs p.payload))
    ∧ ((windowOf s p.src).place p.seq.toNat = .done → Completes .remoteWrite s fun t => ∃ x,
        t = sendPacket s x (homeDie a) ∧ AnswerTo p x 5 0 [])
    ∧ ((windowOf s p.src).place p.seq.toNat = .far → Completes .remoteWrite s fun t => t = s))
  ∧ (∀ (s : State) (p : Packet) (a : Nat) (op : AtomicOp) (locs : List Nat), Admitted s 3 p → isPart p = false →
    a = p.addr.toNat → op = packetAtomic p →
    ((windowOf s p.src).place p.seq.toNat = .fresh → TargetAt s a op.bytes locs →
      ((∀ l ∈ locs, s.poisoned l = false) → let r := op.apply (locs.map s.homeByte)
        Completes .remoteAtomic s fun t => ∃ u v x, u = s.install (locs.zip r.1) ∧ Marked u v p.src p.seq.toNat
          ∧ t = sendPacket v x (homeDie a) ∧ AnswerTo p x 4 0 (natToBytes 8 r.2.toNat) ∧ Installed s u
          ∧ (s.memory.wf = true → (∀ l ∈ locs, isPacked l = false ∧ l < 2 ^ 48) → locs.Nodup →
            WroteBytes (Mem.read s.memory.home) (Mem.read u.memory.home) locs r.1))
      ∧ ((∃ l ∈ locs, s.poisoned l = true) → Completes .remoteAtomic s fun t => ∃ v x, Marked s v p.src p.seq.toNat
          ∧ t = sendPacket v x (homeDie a) ∧ AnswerTo p x 4 1 (natToBytes 8 0)))
    ∧ (∀ o, (windowOf s p.src).place p.seq.toNat = .done →
      (windowOf s p.src).olds.find? (fun o => o.1 = p.seq.toNat) = some o → Completes .remoteAtomic s fun t => ∃ x,
        t = sendPacket s x (homeDie a) ∧ AnswerTo p x 4 (if o.2.1 = true then 1 else 0) o.2.2)
    ∧ ((windowOf s p.src).place p.seq.toNat = .far → Completes .remoteAtomic s fun t => t = s))

/-- The own request that an answer names (R282). -/
def AnswersRequest (s : State) (p : Packet) (r : RemoteReq) : Prop :=
  s.memory.reqs.find? (fun x => x.sent ∧ regionOf x.loc = peerRegion p.src.toNat ∧ x.seq ≤ p.seq.toNat
    ∧ p.seq.toNat < x.seq + reqSeqs x) = some r

/-- The state without a request. -/
def withoutReq (s : State) (r : RemoteReq) : State :=
  { s with memory := { s.memory with reqs := s.memory.reqs.filter fun x => x.id ≠ r.id } }

/-- R80, R94, R101, R282, R283, R339, R355, R357: an answer ends its request: the unit of a read reaches the access or the snapshot that waits
for it, an old value its return-queue entry, poison the consumer; what an atomic has left is the task's own value, and its answer is
acknowledged; the acknowledgement of a stale version gives a write up, and that of an answer lets this home forget it. -/
def AnswersArrive : Prop :=
  (∀ (s : State) (p : Packet) (r : RemoteReq) (imm : Bool), Admitted s 1 p → AnswersRequest s p r → r.op = .read imm →
    (p.aux.getLsbD 0 = true → Completes .readResponse s fun t => t = { withoutReq s r with memory := { (withoutReq s r).memory with
        failed := s.memory.failed ++ [(r.loc / 64 * 64, ⟨.eccunc, 7, r.va⟩)] } })
    ∧ (p.aux.getLsbD 0 = false → imm = true → s.memory.wf = true → Completes .readResponse s fun t =>
        t = { withoutReq s r with memory := { (withoutReq s r).memory with peerImm := t.memory.peerImm } }
        ∧ ∀ l, Overlay.get? t.memory.peerImm l = if r.loc ≤ l ∧ l < r.loc + p.payload.length
            then p.payload[l - r.loc]? else Overlay.get? s.memory.peerImm l))
  ∧ (∀ (s : State) (p : Packet) (r : RemoteReq) (op : AtomicOp) (id : Nat), Admitted s 4 p → AnswersRequest s p r →
    r.op = .atomic op true → r.slot = some id → p.aux.getLsbD 0 = false → s.memory.vatom = none →
    Completes .atomicResponse s fun t => ∃ u x, OwnWritten (withoutReq s r) u
      ∧ t = sendPacket { u with ret := (s.ret.map fun e => if e.id = id
          then { e with value := some (.scalar (BitVec.ofNat 64 (bytesToNat p.payload))) } else e) } x
      ∧ AnswerTo p x 5 2 []
      ∧ (s.memory.wf = true → ∀ l, l ∉ bytesAt r.loc op.bytes → Overlay.get? u.memory.own l = Overlay.get? s.memory.own l)
      ∧ ∀ l b, Overlay.get? s.memory.own l = some b → s.memory.wf = true → Overlay.get? u.memory.own l = some b)
  ∧ (∀ (s : State) (p : Packet) (r : RemoteReq) (bs : List Byte), Admitted s 5 p → p.aux.getLsbD 1 = false →
    AnswersRequest s p r → r.op = .write bs → r.owner = .task →
    (p.aux.getLsbD 0 = false → Completes .acknowledgement s fun t => t = withoutReq s r)
    ∧ (p.aux.getLsbD 0 = true → Completes .acknowledgement s fun t =>
        t = { withoutReq s r with memory := { (withoutReq s r).memory with
          uncertain := s.memory.uncertain ++ [⟨.fabric, 4, r.va⟩] } }))
  ∧ (∀ (s : State) (p : Packet), Admitted s 5 p → p.aux.getLsbD 1 = true → Completes .acknowledgement s fun t =>
    OneWindow s t p.src ∧ (windowOf t p.src).olds = (windowOf s p.src).olds.filter fun o => o.1 ≠ p.seq.toNat)
  ∧ (∀ (s : State) (r : RemoteReq), r ∈ s.memory.reqs → r.id = s.input.index → regionOf r.loc = hostRegion →
    (∀ x ∈ s.memory.reqs, x.id = r.id → x = r) →
    (∀ bs, r.op = .write bs → Completes .cxlMemResponse s fun t => t = withoutReq s r)
    ∧ (r.op = .read true → s.input.flag = false → s.input.bytes.length = 64 → s.memory.wf = true →
        Completes .cxlMemResponse s fun t =>
        t = { withoutReq s r with memory := { (withoutReq s r).memory with peerImm := t.memory.peerImm } }
        ∧ ∀ l, Overlay.get? t.memory.peerImm l = if r.loc ≤ l ∧ l < r.loc + 64
            then s.input.bytes[l - r.loc]? else Overlay.get? s.memory.peerImm l))

/-- R279, R282, R354, R355: after 20 µs an unanswered request is sent again with its numbers, at most 8 times in all; 100 µs after the last
it is given up, which a read's consumer and the task's publication meet as FABRIC. -/
def RequestsAreRepeated : Prop :=
  ∀ (s : State) (r : RemoteReq), r ∈ s.memory.reqs → r.id = s.input.index → r.sent = true → regionOf r.loc ≠ hostRegion →
    (∀ x ∈ s.memory.reqs, x.id = r.id → x = r) →
    (r.sends < 8 → r.at_ + 20000 ≤ s.device.time → Completes .requestResend s fun t => ∃ (u : State) (ps : List Packet),
      u = { s with memory := { s.memory with reqs := s.memory.reqs.map fun y => if y.id = r.id
          then { r with sends := r.sends + 1, at_ := s.device.time } else y } }
      ∧ t = ps.foldl (fun s x => sendPacket s x) u
      ∧ (∀ i x, ps[i]? = some x → x.dst = BitVec.ofNat 14 (regionOf r.loc - 1) ∧ x.seq = BitVec.ofNat 48 (r.seq + i))
      ∧ (∀ imm, r.op = .read imm → ∃ x, ps = [x] ∧ x.kind = 0 ∧ x.payload = [] ∧ x.addr = BitVec.ofNat 64 (addrOf r.loc)
        ∧ (imm = true → x.aux = 0))
      ∧ (∀ bs, r.op = .write bs → ∃ x, ps = [x] ∧ x.kind = 2 ∧ x.payload = bs ∧ x.addr = BitVec.ofNat 64 (addrOf r.loc)
        ∧ x.ackreq = true)
      ∧ (∀ op old, r.op = .atomic op old → ∃ x, ps = [x] ∧ x.kind = 3 ∧ x.addr = BitVec.ofNat 64 (addrOf r.loc)
        ∧ x.ackreq = true)
      ∧ (∀ d, r.op = .data d → ∃ x, ps = [x] ∧ x.kind = 6 ∧ x.payload = d.bytes ∧ x.ackreq = true))
    ∧ (8 ≤ r.sends → r.at_ + 100000 ≤ s.device.time →
      (∀ imm, r.op = .read imm → Completes .requestGiveUp s fun t =>
        t = { withoutReq s r with memory := { (withoutReq s r).memory with
          failed := s.memory.failed ++ [(r.loc / 64 * 64, ⟨.fabric, 3, r.va⟩)] } })
      ∧ (∀ bs, r.op = .write bs → r.owner = .task → Completes .requestGiveUp s fun t =>
        t = { withoutReq s r with memory := { (withoutReq s r).memory with
          uncertain := s.memory.uncertain ++ [⟨.fabric, 1, r.va⟩] } }))

/-- R261, R279, R283, R285, R300, R357, R359: data of a collective are taken once, those for an instance that has not begun its receive are
kept, and acknowledged; a control packet stops the instance or reshard that it names with a failed arrival, or reads a register of the
window; a round message that is whole in one packet acts. -/
def CollectivePacketsArrive : Prop :=
  (∀ (s : State) (p : Packet) (d : CollData), Admitted s 6 p → p.src ≠ s.fabric.devid → d = packetData s p →
    ((windowOf s p.src).place p.seq.toNat = .fresh → Completes .collectiveData s fun t => ∃ w x,
      w.own = s.fabric.devid ∧ w.src = p.src ∧ w.place p.seq.toNat = .done
      ∧ (∀ k, (windowOf s p.src).place k = .done → w.place k = .done)
      ∧ t = sendPacket (setWindow (takeData s d) w) x ∧ AnswerTo p x 5 0 []
      ∧ (isReshardId d.inst = false → d.dest = s.rankAt s.launch.header.ndom → (∀ y ∈ s.coll.live, y.id ≠ d.inst) →
        takeData s d = { s with coll := { s.coll with inbox := s.coll.inbox ++ [d] } }))
    ∧ ((windowOf s p.src).place p.seq.toNat = .done → Completes .collectiveData s fun t => ∃ x, t = sendPacket s x
      ∧ AnswerTo p x 5 0 [])
    ∧ ((windowOf s p.src).place p.seq.toNat = .far → Completes .collectiveData s fun t => t = s))
  ∧ (∀ (s : State) (p : Packet) (f : Trap), Admitted s 7 p →
    f = (if p.aux.getLsbD 63 then { cause := .groupver } else ⟨.fabric, 2, 0⟩) →
    (∀ x, p.addr.toNat < 0x800000000000 → InstanceAt s x → x.id = p.addr.toNat % 2 ^ 23 →
      (p.aux.getLsbD 63 = true ∨ (packetData s p).dest = s.rankAt s.launch.header.ndom) →
      Completes .collectiveControl s fun t => InstanceFailed s t x f false)
    ∧ (∀ r, p.addr.toNat < 0x800000000000 → ReshardAt s r → r.id = p.addr.toNat % 2 ^ 23 → isReshardId r.id = true →
      (∀ y ∈ s.coll.live, y.id ≠ r.id) → Completes .collectiveControl s fun t => ReshardFailed s t r f false)
    ∧ (0x800000000000 ≤ p.addr.toNat → p.payload = [] → Completes .collectiveControl s fun t => ∃ x, t = sendPacket s x
        ∧ AnswerTo p x 7 0 (natToBytes 8 (readReg s (p.addr.toNat - 0x800000000000)).toNat)))
  ∧ (∀ (s : State) (p : Packet), Admitted s 8 p → p.addr = 0 → p.aux.toNat = p.payload.length → 0 < p.payload.length →
    p.payload.length ≤ 4096 → s.fabric.frags = [] → Completes .groupRound s fun t =>
      t = takeMessage { s with input := msgInput { s.input with index2 := p.src.toNat } p.payload })

/-- The port is now this one, and nothing else differs. -/
def PortNow (s t : State) (n : Nat) (x : Port) : Prop :=
  t = { s with fabric := { s.fabric with ports := s.fabric.ports.setIfInBounds n x } }

/-- The flit without data that a port sends: FACK, and whether it is a NAK (R280). -/
def idleFlit (fack : BitVec 12) (nak : Bool) : Flit := sealFlit ⟨0, fack, nak, 0, List.replicate 248 0, 0⟩

/-- What a port holds after an intact FACK: the flits after the one that it names (R280). -/
def Acked (x : Port) (fack : BitVec 12) (time : Nat) (rest : List (Flit × Packet)) (at_ : Nat) : Prop :=
  (∃ pre f, x.retry = pre ++ f :: rest ∧ f.1.fseq = fack ∧ (∀ g ∈ pre, g.1.fseq ≠ fack) ∧ at_ = time)
  ∨ ((∀ g ∈ x.retry, g.1.fseq ≠ fack) ∧ rest = x.retry ∧ at_ = x.progress)

/-- R280, R281, R352: an intact flit in sequence is taken and acknowledged, its part joins the packet, its free slots count; any other one is
answered by one NAK; an acknowledgement empties the retry buffer, a NAK has it sent again; the 16th NAK of one FACK, a stall of 10 µs
and a request retrain the port, after which replay goes on; the third failure within a second takes it down, with a record. -/
def PortsKeepTheirSequence : Prop :=
  ∀ (s : State) (n : Nat) (x : Port) (f : Flit), n = s.input.index → s.fabric.ports.toList[n]? = some x → x.up = true →
    f = s.input.flit → x.queue = [] →
    (x.retry = [] → flitIntact f = true → f.nak = false → f.fseq = x.expected →
      (f.fkind = 3 → Completes .flitReceive s fun t => PortNow s t n { x with
        expected := x.expected + 1, nakSent := false, slots := field f.data 0 2, line := x.line ++ [idleFlit x.expected false] })
      ∧ (∀ bs, f.fkind = 1 ∨ f.fkind = 2 → bs = (if f.fkind = 1 then f.data else x.inbuf ++ f.data) →
        (bs.length < packetLength bs → Completes .flitReceive s fun t => PortNow s t n { x with
          expected := x.expected + 1, nakSent := false, inbuf := bs, line := x.line ++ [idleFlit x.expected false] })
        ∧ (packetLength bs ≤ bs.length → Completes .flitReceive s fun t => PortNow (deliverPacket s (packetFrom bs)) t n { x with
          expected := x.expected + 1, nakSent := false, inbuf := [], line := x.line ++ [idleFlit x.expected false] })))
    ∧ (flitIntact f = false ∨ (x.retry = [] ∧ f.nak = false ∧ f.fkind ≠ 0 ∧ f.fseq ≠ x.expected) →
      Completes .flitReceive s fun t => PortNow s t n (if x.nakSent then x else
        { x with nakSent := true, line := x.line ++ [idleFlit (x.expected - 1) true] }))
    ∧ (∀ rest at_, Acked x f.fack s.device.time rest at_ →
      (flitIntact f = true → f.nak = false → f.fkind = 0 → Completes .flitReceive s fun t =>
        PortNow s t n { x with retry := rest, progress := at_ })
      ∧ (x.nakFor ≠ f.fack ∨ x.naks < 15 → Completes .nak s fun t => PortNow s t n { x with
        retry := rest, progress := at_, nakFor := f.fack, naks := (if x.nakFor = f.fack then x.naks + 1 else 1)
        line := x.line ++ rest.map (·.1) })
      ∧ (x.nakFor = f.fack → x.naks = 15 → s.input.flag = false → Completes .nak s fun t => PortNow s t n { x with
        retry := rest, progress := s.device.time, naks := 0, line := x.line ++ rest.map (·.1) }))
    ∧ (x.retry ≠ [] → x.progress + 10000 ≤ s.device.time → s.input.flag = false → Completes .fackStallTimeout s fun t =>
      PortNow s t n { x with naks := 0, progress := s.device.time, line := x.line ++ x.retry.map (·.1) })
    ∧ (s.input.flag = false → Completes .portRetrain s fun t => PortNow s t n { x with
      naks := 0, progress := s.device.time, line := x.line ++ x.retry.map (·.1) })
    ∧ (s.input.flag = true → x.retry = [] → (x.retrains.filter fun y => s.device.time < y + 1000000000).length = 2 →
      Completes .portRetrain s fun t => (port t n).up = false ∧ t.log.made = s.log.made + 1
        ∧ (n < 36 → t.plat.ready.getLsbD (20 + n) = false ∧ t.plat.error.getLsbD (20 + n) = true)
        ∧ ∀ m, m ≠ n → port t m = port s m)

/-- R353, R354: a packet held for 10 µs of which nothing has gone out is discarded; a hole of a window that has stood for 200 µs counts as
performed up to the next number that has been. -/
def HeldPacketsAndHoles : Prop :=
  (∀ (s : State) (n : Nat) (x : Port) (begun : List Chunk) (p : Packet) (since : Nat), n = s.input.index →
    s.fabric.ports.toList[n]? = some x → x.queue = begun ++ packetChunks p since → (∀ c ∈ begun, c.first = false) →
    Completes .packetHoldDiscard s fun t => PortNow s t n { x with
      queue := begun ++ if since + 10000 ≤ s.device.time then [] else packetChunks p since })
  ∧ (∀ (s : State) (w : Window) (low : Nat), w = windowOf s (BitVec.ofNat 14 s.input.index) → low ∈ w.bits →
    (∀ b ∈ w.bits, low ≤ b) → w.high < low → w.since + 200000 ≤ s.device.time → Completes .dedupHoleTimeout s fun t =>
      OneWindow s t (BitVec.ofNat 14 s.input.index)
      ∧ (∀ k, k ≤ low → (windowOf t (BitVec.ofNat 14 s.input.index)).place k = .done)
      ∧ (∀ b ∈ w.bits, (windowOf t (BitVec.ofNat 14 s.input.index)).place b = .done))

/-- R295 to R297: an end marker joins the markers once; the first sequenced access whose turn has come is performed as one event and its old
value delivered; of a closed interval's batched accesses none is left that could be performed. -/
def OrderedAccessesPerform : Prop :=
  (∀ s : State, Completes .endMarker s fun t =>
    t = { s with ordered := { s.ordered with markers := t.ordered.markers } }
    ∧ ∀ m, m ∈ t.ordered.markers ↔ m ∈ s.ordered.markers
      ∨ m = (⟨s.launch.entry, s.input.index2 / s.launch.m3 * s.launch.m3, s.launch.m3⟩, s.input.index, s.input.index2))
  ∧ (∀ (s : State) (h : Held) (l : Nat) (op : AtomicOp) (id : Nat), s.ordered.held.find? (seqReady s) = some h →
    h.ops = [(l, op)] → h.slot = some id → h.vec = false → s.poisoned l = false → l + 8 ≤ 2 ^ 48 → s.memory.wf = true →
    StacksReady s (bytesAt l op.bytes) →
    let r := op.apply ((bytesAt l (if op.w32 then 4 else 8)).map (Mem.read s.memory.home))
    Completes .sequencedPerform s fun t =>
      t.ordered = { s.ordered with held := s.ordered.held.erase h }
      ∧ WroteBytes (Mem.read s.memory.home) (Mem.read t.memory.home) (bytesAt l (if op.w32 then 4 else 8)) r.1
      ∧ t.ret = (s.ret.map fun e => if e.id = id then { e with value := some (.scalar r.2) } else e)
      ∧ t.regs = s.regs ∧ t.memory.scratch = s.memory.scratch)
  ∧ (∀ (s : State) (h : Held) (l : Nat) (op : AtomicOp), s.ordered.held = [h] → batchReady s h = true → h.ops = [(l, op)] →
    h.slot = none → h.vec = false → s.poisoned l = false → l + 8 ≤ 2 ^ 48 → s.memory.wf = true →
    StacksReady s (bytesAt l op.bytes) →
    Completes .batchedPerform s fun t => t.ordered = { s.ordered with held := [] } ∧ t.regs = s.regs
      ∧ WroteBytes (Mem.read s.memory.home) (Mem.read t.memory.home) (bytesAt l (if op.w32 then 4 else 8))
          (op.apply ((bytesAt l (if op.w32 then 4 else 8)).map (Mem.read s.memory.home))).1)

/-- R302, R303: with no owner a claim joins the election and opens its window of 1 ms, and a claim of priority 0 withdraws; the named
successor's claim in time takes the device over; any other claim on an owned device is refused. The election goes to the
highest priority, on a tie to the lowest port; a claim after the window finds it decided. -/
def OwnersAreElected : Prop :=
  (∀ (s : State) (p : BitVec 2) (prio : Byte), p = masterNo s.input.master → prio = s.input.value.setWidth 8 →
    (s.owner.elect = true → s.owner.closes ≤ s.device.time → ∃ u, exec .electionClose s = .next u ∧ exec .ownclaim s = exec .ownclaim u)
    ∧ ((s.owner.elect = true → s.device.time < s.owner.closes) → Completes .ownclaim s fun t =>
      t = { s with owner := t.owner }
      ∧ (s.owner.owner = 3 → prio ≠ 0 → t.owner = { s.owner with
          elect := true, claims := (s.owner.claims.filter fun c => c.1 ≠ p) ++ [(p, prio)]
          closes := if s.owner.elect then s.owner.closes else s.device.time + 1000000 })
      ∧ (s.owner.owner = 3 → prio = 0 → t.owner = { s.owner with claims := s.owner.claims.filter fun c => c.1 ≠ p })
      ∧ (s.owner.owner ≠ 3 → prio = 0 → t.owner = s.owner)
      ∧ (s.owner.owner ≠ 3 → prio ≠ 0 → t.owner =
          if s.owner.hpend = true ∧ p = s.owner.succ ∧ s.device.time ≤ s.owner.expires
          then { s.owner with owner := s.owner.succ, hpend := false, claims := [] } else { s.owner with refused := true })))
  ∧ (∀ s : State, s.owner.elect = true → s.owner.closes ≤ s.device.time → Completes .electionClose s fun t =>
      t = { s with owner := { s.owner with owner := t.owner.owner, elect := false, claims := [] } }
      ∧ (s.owner.claims = [] → t.owner.owner = 3)
      ∧ (s.owner.claims ≠ [] → ∃ w ∈ s.owner.claims, t.owner.owner = w.1
        ∧ ∀ c ∈ s.owner.claims, c.2 < w.2 ∨ (c.2 = w.2 ∧ w.1 ≤ c.1)))
  ∧ (∀ s : State, FromOwner s → s.input.value.setWidth 2 ≠ (3 : BitVec 2) → Completes .handover s fun t =>
      t = { s with owner := { s.owner with
        hpend := true, succ := s.input.value.setWidth 2, expires := s.device.time + 100000000 } })
  ∧ (∀ s : State, s.owner.hpend = true → s.owner.expires ≤ s.device.time → Completes .handoverTimeout s fun t =>
      Logged { s with owner := { s.owner with hpend := false, hfail := true } } t 0x34)
  ∧ (∀ s : State, FromOwner s → (∀ e ∈ s.sched.board, ¬ (e.kind = 1 ∧ e.state = .issued)) → Completes .devidWrite s fun t =>
      t = { s with fabric := { s.fabric with devid := s.input.value.setWidth 14, devset := true } })

/-- R300: a write of a master that does not own the device has no effect but WREJ. -/
def OthersWritesAreRejected : Prop :=
  ∀ (s : State), ¬ FromOwner s →
    (∀ ev ∈ [Instr.streamDoorbell, .grrel, .launchKill, .handover, .devidWrite, .attestationRequest, .sscfgWrite],
      Completes ev s fun t => t = { s with owner := { s.owner with wrej := true } })
    ∧ (s.input.index ≠ 0x10 → Completes .registerWrite s fun t => t = { s with owner := { s.owner with wrej := true } })

/-- R304, R305, R308, R309, R312, R360, R361, R364: a boot stage in order whose signature verifies extends its measurement, and one that does not
verify ends the boot with what has run; an attestation uses the next leaf and puts a signed report in the mailbox, and none without a leaf; an alarm is
recorded and erases the keys, or freezes the device, which takes no packet, brings up no port and starts no task any more; at 110 °C
the cores halt and the alarm is raised. -/
def SecurityActs : Prop :=
  (∀ (s : State) (i : Nat) (m : BitVec 256), i = s.input.index → i = s.sec.stage → i < 4 → s.sec.meas.toList[i]? = some m →
    Completes .bootStage s fun t =>
      if xmssVerify Config.firmwareKey s.input.bytes s.input.sig = true then
        t = { s with sec := { s.sec with stage := i + 1, meas := t.sec.meas } }
        ∧ ∀ n : Nat, t.sec.meas.toList[n]? = if n = i
            then some (BitVec.ofNat 256 (bytesToNat (shake256 (natToBytes 32 m.toNat ++ shake256 s.input.bytes 32) 32)))
            else s.sec.meas.toList[n]?
      else t = { s with sec := { s.sec with stage := 8 + i } })
  ∧ (∀ s : State, s.input.index ≠ s.sec.stage ∨ 4 ≤ s.input.index → Completes .bootStage s fun t => t = s)
  ∧ (∀ s : State, FromOwner s → s.sec.leaf < 2 ^ 20 → Completes .attestationRequest s fun t => ∃ b,
      t = { s with sec := { s.sec with leaf := s.sec.leaf + 1, report := b ++ xmssSign s.sec.leaf b } })
  ∧ (∀ s : State, FromOwner s → 2 ^ 20 ≤ s.sec.leaf → Completes .attestationRequest s fun t =>
      t = { s with sec := { s.sec with report := [] } })
  ∧ (∀ s : State, Completes .securityAlarm s fun t => t.log.made = s.log.made + 1
      ∧ (s.sec.alarm = true → t.sec.frozen = true ∧ (∀ p ∈ t.fabric.ports.toList, p.up = false)
          ∧ t.status = (if s.status = .running ∨ s.status = .leaseWait ∨ s.status = .debug then .halted else s.status))
      ∧ (s.sec.alarm = false → t.sec = { s.sec with keys := [] }
          ∧ (∀ d, s.group.cached = some d → t.group.cached = if d.enc then none else some d)))
  ∧ (∀ s : State, s.sec.frozen = true →
      (∀ ev ∈ [Instr.functionReady, .taskStart, .remoteRead, .remoteWrite, .remoteAtomic, .readResponse, .collectiveControl],
        Completes ev s fun t => t = s)
      ∧ readReg s 0x40 = s.plat.ready &&& 0x200000000000000)
  ∧ (∀ s : State, s.input.index < 110 → Completes .thermalLimit s fun t =>
      t = { s with plat := { s.plat with therm := BitVec.ofNat 8 s.input.index } })
  ∧ (∀ s : State, 110 ≤ s.input.index → Completes .thermalLimit s fun t => t.plat.therm = BitVec.ofNat 8 s.input.index
      ∧ t.plat.hot = true ∧ t.log.made = s.log.made + 1 ∧ (s.status = .running → s.sec.alarm = true → t.status = .halted))
  ∧ (∀ s : State, s.plat.hot = true → Completes .taskStart s fun t => t = s)

/-- R304, R305, R310, R311, R368: a function that may report ready sets its bit, a port comes up with its own, and the accesses that have
waited come again; one that is late or fails its check sets its error bit with a record; a device reset keeps of the device the XMSS
leaf index alone. TIME steps forward while it is not locked; LOCK tells of 16 intervals in a row within 25 ns, and then TIME follows
what it is off by at most 500 ppm, forward or by holding back. -/
def DeviceComesUp : Prop :=
  (∀ (s : State) (n : Nat), n = s.input.index → n < 60 → bootReaches s n = true → s.plat.error.getLsbD n = false →
    s.sec.frozen = false → Completes .functionReady s fun t =>
      t = { s with
        plat := { s.plat with ready := s.plat.ready ||| 1 <<< n, waiting := [] }, agenda := s.agenda ++ s.plat.waiting
        fabric := { s.fabric with ports := t.fabric.ports } }
      ∧ ∀ m, m < 36 → port t m = if n = 20 + m then { port s m with up := true } else port s m)
  ∧ (∀ (s : State) (n : Nat), n = s.input.index → n < 60 → s.plat.ready.getLsbD n = false → s.plat.error.getLsbD n = false →
    (s.input.flag = true ∨ s.plat.since + 1000000000 ≤ s.device.time) → Completes .functionTimeout s fun t => ∃ u,
      Logged { s with plat := { s.plat with error := s.plat.error ||| 1 <<< n } } u 0x35
      ∧ t = { u with agenda := s.agenda ++ s.plat.waiting, plat := { u.plat with waiting := [] } })
  ∧ (∀ s : State, Completes .deviceReset s fun t => t = { State.reset with
      agenda := s.agenda, lag := s.lag, eager := s.eager, mates := s.mates, turn := s.turn, free := s.free
      sec := { State.reset.sec with leaf := s.sec.leaf } })
  ∧ (∀ (s : State) (offs : Lane32) (near : Nat), offs = BitVec.ofNat 32 s.input.index2 →
    near = (if -25 ≤ offs.toInt ∧ offs.toInt ≤ 25 then s.plat.near + 1 else 0) → Completes .timeSync s fun t =>
      if s.plat.ready.getLsbD 58 = false then t = s else
      (s.plat.lock = false → t.device.time = max s.device.time s.input.index ∧ t.device.slew = 0)
      ∧ (s.plat.lock = true → t.device.time = s.device.time ∧ t.device.slew = s.input.index - s.device.time)
      ∧ t = { s with
          device := { s.device with time := t.device.time, slew := t.device.slew, slewed := s.device.time }
          plat := { s.plat with lock := decide (16 ≤ near), offs := offs, near := min near 16 } })
  ∧ ∀ (d : DeviceRegs) (dt n : Nat), d.slewed ≤ d.time → n = (d.timeFrac + 10 * dt) / 22 →
      let t := (tickTime d dt).time
      d.time ≤ t
      ∧ (0 ≤ d.slew → d.time + n ≤ t ∧ t ≤ d.time + n + (d.time + n - d.slewed) / 2000 ∧ t ≤ d.time + n + d.slew.toNat)
      ∧ (d.slew ≤ 0 → t ≤ d.time + n ∧ d.time + n ≤ t + (d.time + n - d.slewed) / 2000 ∧ d.time + n ≤ t + (-d.slew).toNat)

/-- R74, R85, R91, R299, R306, R311: the host reads and writes existing locations outside the enclave ranges at their homes, a packed frame in
its expanded view, once their stacks are ready, and an enclave byte reads zero and is not written; an address that does not exist has
no effect that the manual gives. -/
def HostAccessesMemory : Prop :=
  (∀ (s : State) (ls : List Nat), s.input.flag = false →
    ls = ((List.range s.input.index2).map fun i => hostView s (s.input.index + i)) →
    (∀ l ∈ ls, hostTarget s l = true) →
    (StacksReady s ls → Completes .hostRead s fun t =>
      t = { s with plat := { s.plat with lastRead := t.plat.lastRead, lastBad := t.plat.lastBad } }
      ∧ (t.plat.lastBad = true ↔ ∃ l ∈ ls, s.poisoned l = true ∧ inEnclave s l = false)
      ∧ t.plat.lastRead = ls.map fun l => if inEnclave s l then 0 else homeRead s.device.pkfmt s.memory.home l)
    ∧ (s.stackWaits ls = true → Completes .hostRead s fun t =>
      t = { s with plat := { s.plat with waiting := s.plat.waiting ++ [⟨.hostRead, s.input⟩] } }))
  ∧ (∀ s : State, s.input.flag = true → Completes .hostRead s fun t => t = { s with plat := { s.plat with
      lastRead := natToBytes 8 (readReg s s.input.index).toNat, lastBad := false } })
  ∧ (∀ (s : State) (bs : List Byte) (ls : List Nat), s.input.flag = false → bs = s.input.bytes →
    ls = ((List.range bs.length).map fun i => hostView s (s.input.index + i)) → (∀ l ∈ ls, hostTarget s l = true) →
    (StacksReady s ls → Completes .hostWrite s fun t =>
      Installed s t ∧ t = s.install ((ls.zip bs).filter fun w => ¬ inEnclave s w.1)
      ∧ (s.memory.wf = true → (∀ l ∈ ls, isPacked l = false ∧ l < 2 ^ 48) →
        ∀ l, Mem.read t.memory.home l = if s.input.index ≤ l ∧ l < s.input.index + bs.length ∧ inEnclave s l = false
          then bs.getD (l - s.input.index) 0 else Mem.read s.memory.home l))
    ∧ (s.stackWaits ls = true → Completes .hostWrite s fun t =>
      t = { s with plat := { s.plat with waiting := s.plat.waiting ++ [⟨.hostWrite, s.input⟩] } }))
  ∧ (∀ s : State, s.input.flag = false → s.input.index2 = 1 → hostTarget s (hostView s s.input.index) = false →
    exec .hostRead s = .fault (.reservedAddress (hostView s s.input.index)))

/-- R77, R82, R83, R268, R284, R300, R312, R342, R360: what the owner writes at the offsets of the register window reads back as the register
holds it: fences and routes whole, packing formats and staging logs in their fields, and AGEINT, PWRCAP and GRTO in their ranges; a
nonce comes to the mailbox in parts of 8 bytes (log entry 17); an offset that is not listed takes nothing. -/
def RegistersAreWritten : Prop :=
  ∀ (s : State) (off : Nat) (v : Word), FromOwner s → off = s.input.index → v = s.input.value →
    (∀ f < 64, off = 0x900 + 8 * f → Completes .registerWrite s fun t => v.toNat ≤ (fence t f).toNat
        ∧ (s.sched.board = [] → fence t f = v ∧ ∀ k, k ≠ f → fence t k = fence s k))
    ∧ (∀ k < 16, off = 0xE00 + 8 * k → Completes .registerWrite s fun t =>
        t = { s with device := { s.device with pkfmt := t.device.pkfmt } } ∧ readReg t off = v &&& 0x1FFF
        ∧ ∀ n : Nat, n ≠ k → t.device.pkfmt[n]? = s.device.pkfmt[n]?)
    ∧ (∀ d < 4, off = 0xD80 + 8 * d → Completes .registerWrite s fun t =>
        t = { s with device := { s.device with stglog := t.device.stglog } }
        ∧ (dieBusy s d = false → readReg t off = v &&& 0x00FFFFFFFFFF0000) ∧ (dieBusy s d = true → t = s))
    ∧ (∀ n < 16384, off = 0x100000 + 8 * n → Completes .registerWrite s fun t =>
        t = { s with fabric := { s.fabric with routes := t.fabric.routes } } ∧ readReg t off = v &&& 0xFFFFFFFFF
        ∧ ∀ m, m ≠ n → routeOf t m = routeOf s m)
    ∧ (off = 0x800 → Completes .registerWrite s fun t =>
        t = { s with sched := { s.sched with ageint := v.toNat % 2 ^ 32 } })
    ∧ (off = 0x200 → 1200 ≤ v.toNat % 4096 → v.toNat % 4096 ≤ 2600 → Completes .registerWrite s fun t =>
        t = { s with plat := { s.plat with pwrcap := v.setWidth 12 } })
    ∧ (off = 0xC08 → 1000 ≤ v.toNat % 2 ^ 32 → v.toNat % 2 ^ 32 ≤ 10000000 → Completes .registerWrite s fun t =>
        t = { s with fabric := { s.fabric with grto := v.toNat % 2 ^ 32 } })
    ∧ (∀ k < 3, off = 0x2000 + 8 * k → s.sec.nonce.length = 32 → Completes .registerWrite s fun t =>
        t = { s with sec := { s.sec with nonce := t.sec.nonce } } ∧ t.sec.nonce.length = 32
        ∧ ∀ i : Nat, t.sec.nonce[i]? = if 8 * k ≤ i ∧ i < 8 * k + 8 then (natToBytes 8 v.toNat)[i - 8 * k]? else s.sec.nonce[i]?)
    ∧ (off = 0x318 → Completes .registerWrite s fun t => t = { s with log := { s.log with ridx := v.setWidth 32 } })
    ∧ (off ∈ [0x0, 0x28, 0x100, 0xD20, 0x1800, 0x120000] → Completes .registerWrite s fun t => t = s ∧ readReg s off = readReg t off)

/-- R76, R77: SSCFG takes a size of at most 8 and is busy until the resize, which clears the stacked store of the die, what its slices hold
of other devices' lines, and its bit; while a task stands on the die the write is refused, and the resize waits. -/
def StackedStoresAreResized : Prop :=
  (∀ (s : State) (d : Nat) (w : Word), FromOwner s → d = s.input.index → s.device.sscfg.toList[d]? = some w →
    Completes .sscfgWrite s fun t => t = { s with device := { s.device with sscfg := t.device.sscfg } }
      ∧ (∀ n : Nat, n ≠ d → t.device.sscfg.toList[n]? = s.device.sscfg.toList[n]?)
      ∧ (dieBusy s d = true → t.device.sscfg.toList[d]? = some (w ||| 0x20))
      ∧ (dieBusy s d = false → s.input.value.toNat % 16 ≤ 8 →
          t.device.sscfg.toList[d]? = some (BitVec.ofNat 64 (s.input.value.toNat % 16 + 16)))
      ∧ (dieBusy s d = false → 8 < s.input.value.toNat % 16 → t = s))
  ∧ (∀ (s : State) (d : Nat) (w : Word), d = s.input.index → s.device.sscfg.toList[d]? = some w → w.getLsbD 4 = true →
    dieBusy s d = false → s.memory.wf = true → Completes .sscfgResize s fun t =>
      t = { s with
        device := { s.device with sscfg := t.device.sscfg }
        memory := { s.memory with home := t.memory.home, poison := t.memory.poison, cached := t.memory.cached } }
      ∧ t.device.sscfg.toList[d]? = some (w &&& 0xF)
      ∧ (∀ c, c ∈ t.memory.cached ↔ c ∈ s.memory.cached ∧ homeDie (addrOf c.1) ≠ d)
      ∧ ∀ l, Mem.read t.memory.home l = if stackBase d ≤ l ∧ l < stackBase (d + 1) then 0 else Mem.read s.memory.home l)

/-- R336, R339 to R342, R346: an uncorrectable error that the scrub finds poisons its unit with a record and counts 8 in its HBM row; a first
corrected one is recorded and counts 1; a row with 8 is repaired with a record, or with no spare row sets the stack's error bit; an error
in the staging of a task that cannot be rerun spoils its next publication. -/
def MemoryIsScrubbed : Prop :=
  (∀ (s : State) (pa : Nat), pa = s.input.index / 64 * 64 → pa ≠ 0 →
    (s.input.scrub = .clean → Completes .patrolScrub s fun t => t = s)
    ∧ (s.input.scrub = .uncorrectable → s.input.flag = false → Completes .patrolScrub s fun t => t.log.made = s.log.made + 1
      ∧ (s.log.en = false → pa ∈ t.memory.poison ∧ t.memory.home = s.memory.home)
      ∧ (pa < 0xC000000000 → t.plat.rowErrors.find? (fun r => r.1 = s.input.index2)
          = some (s.input.index2, ((s.plat.rowErrors.find? fun r => r.1 = s.input.index2).map (·.2)).getD 0 + 8)))
    ∧ (s.input.scrub = .corrected → (∀ c ∈ s.plat.corrected, c.1 ≠ (memUnit pa).1) → Completes .patrolScrub s fun t =>
      t.log.made = s.log.made + 1 ∧ (s.log.en = false → t.memory = s.memory)
      ∧ (pa < 0xC000000000 → t.plat.rowErrors.find? (fun r => r.1 = s.input.index2)
          = some (s.input.index2, ((s.plat.rowErrors.find? fun r => r.1 = s.input.index2).map (·.2)).getD 0 + 1)))
    ∧ (s.input.scrub = .uncorrectable → s.input.flag = true → s.memory.staging ≠ [] → s.revocable = false →
      Completes .patrolScrub s fun t => t.memory.stagingBad = true ∧ t.log.made = s.log.made + 1 ∧ t.status = s.status))
  ∧ (∀ (s : State) (n : Nat), (s.input.index2, n) ∈ s.plat.rowErrors → 8 ≤ n →
    (s.input.flag = false → Completes .rowRepair s fun t => Logged { s with plat := { s.plat with
      rowErrors := s.plat.rowErrors.filter fun r => r.1 ≠ s.input.index2 } } t 0x13)
    ∧ (s.input.flag = true → Completes .rowRepair s fun t => t = { s with plat := { s.plat with
      rowErrors := s.plat.rowErrors.filter fun r => r.1 ≠ s.input.index2
      error := s.plat.error ||| 1 <<< (s.input.index % 12) } }))

/-- R82: a page that has reached its threshold moves to a frame of its die's pool: its bytes stand there, its entry names the frame with MODE
and PEER 0, and no TLB entry maps it; with an empty pool the event counts in the error log (its record's kind is log entry 55's). -/
def PagesMigrate : Prop :=
  ∀ (s : State) (d va : Nat) (due : List (Nat × Nat)), s.device.migDue = (d, va) :: due →
    (s.device.migPool.toList[d]? = some [] → Completes .pageMigration s fun t =>
      Logged { s with free := s.free + 1, device := { s.device with migDue := due, migEmpty := s.device.migEmpty + 1 } } t
        (s.freeWord.toNat % 2 ^ 8))
    ∧ (∀ (frame pte size page : Nat) (pool : List Nat) (leaf : Word), s.device.migPool.toList[d]? = some (frame :: pool) →
      s.leafOf va = .ok (leaf, size) → Leaf.mode leaf = 3 → pteAddr s va 4 (s.launch.root.toNat % 2 ^ 48) 0 = some pte →
      page = (regionBase (peerRegion (Leaf.peer leaf)) + Leaf.frame leaf * 65536) / 65536 →
      (∀ r ∈ s.memory.reqs, r.loc / 65536 ≠ page) → frame + 65536 ≤ 2 ^ 48 → pte + 8 ≤ 2 ^ 48 →
      (pte + 8 ≤ frame ∨ frame + 65536 ≤ pte) → s.memory.wf = true →
      (∀ l, frame ≤ l ∧ l < frame + 65536 ∨ pte ≤ l ∧ l < pte + 8 → s.stackFailed l = false) → Completes .pageMigration s fun t =>
        t.device.migDue = due ∧ t.device.migPool.toList[d]? = some pool ∧ t.regs = s.regs
        ∧ (∀ l, Mem.read t.memory.home l = if frame ≤ l ∧ l < frame + 65536 then s.input.bytes.getD (l - frame) 0
            else if pte ≤ l ∧ l < pte + 8 then
              (natToBytes 8 (leaf.toNat % 2 ^ 32 - Leaf.mode leaf * 16 - Leaf.peer leaf * 2 ^ 16
                + frame / 65536 * 2 ^ 32)).getD (l - pte) 0
            else Mem.read s.memory.home l)
        ∧ ∀ x ∈ t.memory.tlb ++ t.memory.tlbClu.map (·.2) ++ t.memory.tlbDie.map (·.2),
            ¬ (x.asn = s.launch.asn ∧ x.base ≤ va ∧ va < x.base + x.size))

/-- The instruction reads back from its words: those of a collective program, of a helper program, and of the sequencer and the queues
have a decoder each (R135, R149 to R151). -/
def ReadsBack (i : Instr) (ws : List Nat) : Prop :=
  match i with
  | .send .. | .recv .. | .rrs .. | .rred .. | .copy .. | .wait | .loop .. | .endl .. | .peer .. | .sig .. | .offs .. | .halt =>
    ∃ w, ws = [w] ∧ w < 2 ^ 32 ∧ decodeCollective w = .ok i
  | .hcpy .. | .hwtag .. | .hadd .. | .hloop .. | .hflag .. | .hend => ∃ w, ws = [w] ∧ w < 2 ^ 32 ∧ decodeHelper w = .ok i
  | _ =>
    (∃ w, ws = [w] ∧ w < 2 ^ 32 ∧ isLong w = false ∧ decodeWords w 0 = .ok i)
    ∨ ∃ w w1, ws = [w, w1] ∧ w < 2 ^ 32 ∧ w1 < 2 ^ 32 ∧ isLong w = true ∧ decodeWords w w1 = .ok i

/-- The homes that the launches keep, and the memories of the state, stand in their canonical form. -/
def State.MemoriesWf (s : State) : Prop := s.memory.wf = true ∧ ∀ e ∈ s.sched.board, Mem.wf e.home = true

end Sys2Proof.Machine
end

