-- ==== Sys2Proof/Certificates/Slice0/Obligations.lean ====
section
/-! DEFINITION. The statements for the provers: what the rules of the manual say of the instructions, the machine and its
events. The predicates that they use stand in Sys2Proof/Safety.lean. -/

open Sys2Proof Sys2Proof.Machine

/-! ## Scalar registers and arithmetic -/

/-- R153, R174: s0 reads zero and discards what is written; any other register reads back what was written, and no other
register of the current trap level changes; a write at one level leaves the four banked registers of the others. -/
def Obligations.ScalarRegistersReadBack : Prop :=
  ∀ (s : State) (r q : Reg) (v : Word),
    (s.setReg r v).getReg q = (if q = r ∧ q ≠ 0 then v else s.getReg q)
    ∧ s.getReg 0 = 0
    ∧ (∀ j : Nat, j / 4 ≠ s.trap.tl.val → (s.setReg r v).trap.banks[j]? = s.trap.banks[j]?)
    ∧ (s.setReg r v).pc = s.pc ∧ (s.setReg r v).memory = s.memory ∧ (s.setReg r v).fpstat = s.fpstat

/-- R154: every ALU row writes the result of its rule and nothing else; the unary rows have b = 0. -/
def Obligations.AluResults : Prop := AluArithmetic ∧ AluShifts ∧ AluComparesAndCounts ∧ DivisionResults ∧ UnaryRows

/-- R155: the division rows: their results where they complete, and where they trap. -/
def Obligations.DivisionResultsAndTraps : Prop := DivisionResults ∧ DivisionTraps

/-- R153: a scalar operand numbered from NS to 55 traps REGBOUND before any effect; shown of every ALU row, the immediates,
JALR, the branches, the loads and the store. -/
def Obligations.UndeclaredRegisterTraps : Prop :=
  ∀ s : State, CanTrap s →
    (∀ row ∈ aluTable, ∀ o : RegOp, ∀ r ∈ [o.d, o.a, o.b], s.launch.header.ns ≤ r.toNat → r.toNat < 56 →
      Traps (row o) s .regbound 0 0)
    ∧ (∀ row ∈ [Instr.addi, .andi, .ori, .xori, .slti, .jalr], ∀ o : ImmOp, ∀ r ∈ [o.d, o.a],
      s.launch.header.ns ≤ r.toNat → r.toNat < 56 → Traps (row o) s .regbound 0 0)
    ∧ (∀ row ∈ [Instr.beq, .bne, .blt, .bge, .bltn, .bgen], ∀ o : BranchOp, ∀ r ∈ [o.a, o.b],
      s.launch.header.ns ≤ r.toNat → r.toNat < 56 → Traps (row o) s .regbound 0 0)
    ∧ (∀ row ∈ [Instr.ld, .ldn, .st], ∀ o : MemOp, ∀ r ∈ [o.d, o.base],
      s.launch.header.ns ≤ r.toNat → r.toNat < 56 → Traps (row o) s .regbound 0 0)

/-- R156: the immediate instructions; LIW goes on past its second word; the word of `nop` is ADDI s0, s0, 0. -/
def Obligations.ImmediateResults : Prop :=
  decodeWords 0x08000000 0 = .ok (.addi ⟨0, 0, 0⟩) ∧
  ImmRow .addi (fun a i => BitVec.ofNat 64 (a.toNat + i.toNat))
  ∧ ImmRow .andi (fun a i => a &&& i) ∧ ImmRow .ori (fun a i => a ||| i) ∧ ImmRow .xori (fun a i => a ^^^ i)
  ∧ ImmRow .slti (fun a i => if a.toInt < i.toInt then 1 else 0)
  ∧ (∀ (d a : Reg) (k : ShiftKind) (n : BitVec 6) (s : State), s.regsOk [d, a] = true →
      Completes (.shi d a k n) s fun t => ∃ v : Word, ScalarResult s t d v (s.pc + 4) ∧ ∀ i < 64,
        v.getLsbD i = (match k with
          | .sll => decide (n.toNat ≤ i) && (s.getReg a).getLsbD (i - n.toNat)
          | .srl => (s.getReg a).getLsbD (i + n.toNat)
          | .sra => if i + n.toNat < 64 then (s.getReg a).getLsbD (i + n.toNat) else (s.getReg a).getLsbD 63
          | .rol => (s.getReg a).getLsbD ((i + 64 - n.toNat) % 64)))
  ∧ (∀ (d : Reg) (imm : BitVec 20) (s : State), s.regsOk [d] = true →
      Completes (.lui d imm) s fun t => ScalarResult s t d ((imm ++ 0#12).signExtend 64) (s.pc + 4))
  ∧ (∀ (d : Reg) (imm : Lane32) (s : State), s.regsOk [d] = true →
      Completes (.liw d imm) s fun t => ScalarResult s t d (imm.signExtend 64) (s.pc + 8))

/-- R157: the branches. -/
def Obligations.BranchesGoWhereTheComparisonSays : Prop :=
  BranchRow .beq (fun a b => a = b) ∧ BranchRow .bne (fun a b => a ≠ b)
  ∧ BranchRow .blt (fun a b => a.toInt < b.toInt) ∧ BranchRow .bge (fun a b => b.toInt ≤ a.toInt)
  ∧ BranchRow .bltn (fun a b => a.toNat < b.toNat) ∧ BranchRow .bgen (fun a b => b.toNat ≤ a.toNat)

/-- R158: JAL saves PC + 4 in s63; JALR reads its base first, saves PC + 4 and goes to t; with t[1:0] ≠ 0 it traps MISALIGN
with TVA = t and writes nothing. Whether the target can be fetched does not matter to the jump: a fetch that faults traps at the target. -/
def Obligations.JumpsSaveTheNextWord : Prop :=
  FetchFaultsTrapAtTheirPc ∧
  (∀ (off : BitVec 26) (s : State),
    Completes (.jal off) s fun t => ScalarResult s t 63 (s.pc + 4) (s.pc + BitVec.ofInt 64 (4 * off.toInt)))
  ∧ (∀ (o : ImmOp) (s : State) (target : Word), s.regsOk [o.d, o.a] = true →
      target = s.getReg o.a + BitVec.ofInt 64 o.imm.toInt →
      (target.toNat % 4 = 0 → Completes (.jalr o) s fun t => ScalarResult s t o.d (s.pc + 4) target)
      ∧ (target.toNat % 4 ≠ 0 → CanTrap s → Traps (.jalr o) s .misalign 0 target))

/-! ## Scalar memory -/

/-- R100, R159: a plain load of local memory delivers, byte by byte, the task's own pending write or else the snapshot; an
immediate load delivers the bytes at their homes; an acquire delivers those and opens a snapshot of the homes (R101, R102). -/
def Obligations.LoadFromGlobalMemory : Prop :=
  ∀ row ∈ [(Instr.ld, true), (Instr.ldn, false)], ∀ (o : MemOp) (s : State) (locs : List Nat),
    GlobalOk o s .load locs → ReadsAtOnce s (globalVas o s) locs →
    (o.ord = .plain → s.fillPending (globalVas o s) = false → s.atomicInFlight locs = false →
      Completes (row.1 o) s fun t => ∃ u v, MemNoted s u ∧ Touched u v ∧ LoadResult v t o row.2
        (locs.map fun l => (Overlay.get? s.memory.own l).getD (Mem.read s.memory.snap l)))
    ∧ (o.ord = .imm ∨ o.ord = .rel →
      Completes (row.1 o) s fun t => ∃ u v, MemNoted s u ∧ v = { u with seen := v.seen, revocable := false }
        ∧ LoadResult v t o row.2 (locs.map (Mem.read s.memory.home)))
    ∧ (o.ord = .acq →
      Completes (row.1 o) s fun t => ∃ u v, MemNoted s u ∧ Opened { u with seen := v.seen } v true
        ∧ LoadResult v t o row.2 (locs.map (Mem.read s.memory.home)))

/-- R66, R159: loads from scratchpad and stores to it. -/
def Obligations.ScratchpadAccesses : Prop := LoadFromScratchpad ∧ StoreToScratchpad

/-- R80, R159: a store to a page without W traps PROT, an ordered access off its alignment traps MISALIGN, an address beyond 52
bits traps XLATE, in the order in which R330 finds them. -/
def Obligations.ScalarAccessFaults : Prop :=
  ∀ row ∈ [(Instr.ld, Access.load), (.ldn, .load), (.st, .store)], ∀ (o : MemOp) (s : State) (ea : Word), CanTrap s →
    s.regsOk (memRegs o) = true → o.place ≠ .scratch →
    ea = s.getReg o.base + BitVec.ofNat 64 (o.off.toNat * o.size.bytes) →
    (2 ^ 52 ≤ ea.toNat → Traps (row.1 o) s .xlate 8 ea)
    ∧ (ea.toNat < 2 ^ 52 → o.ord ≠ .plain → ea.toNat % o.size.bytes ≠ 0 → Traps (row.1 o) s .misalign 0 ea)
    ∧ (∀ leaf size, ea.toNat < 2 ^ 52 → (o.ord ≠ .plain → ea.toNat % o.size.bytes = 0) → row.2 = .store →
        s.leafOf ea.toNat = .ok (leaf, size) → leaf.getLsbD 1 = false → Traps (row.1 o) s .prot 1 ea)

/-- R60, R64, R94, R99, R101, R102, R159: plain, immediate and release stores. -/
def Obligations.StoresToGlobalMemory : Prop := StoreToGlobalMemory ∧ ReleaseStorePublishesFirst

/-- R160, R161: the integer and the float atomics. -/
def Obligations.AtomicsReturnTheOldValue : Prop := AtomicsUpdateTheirLocation ∧ FloatAtomicsRoundAtTheHome

/-! ## Synchronisation -/

/-- R97, R125: FENCE and SQWAIT complete once their queues have finished, and order the flags that entries set before the
sequencer; while an entry is in the queue they wait at their own address, and FENCE also while an immediate of the task is on its
way or an ordered access of it is held. -/
def Obligations.FencesWaitForTheQueues : Prop :=
  ∀ s : State,
    (∀ sc, QueuesIdle s → ImmediatesDone s → s.memory.uncertain = [] →
      Completes (.fence sc) s fun t => NoResult { s with fpstat := s.fpstat ||| s.fpPend, fpPend := 0 } t (s.pc + 4))
    ∧ (∀ q, (s.queue q).entries = [] → (s.queue q).table = none → Completes (.sqwait q) s fun t =>
        NoResult (if q = .c then { s with fpstat := s.fpstat ||| s.fpPend, fpPend := 0 } else s) t (s.pc + 4))
    ∧ (∀ sc, ¬ ImmediatesDone s → s.waitClk ≤ 2 ^ 32 →
        Completes (.fence sc) s (fun t => t = { s with waitClk := max s.waitClk 1, waitKind := 10 }))
    ∧ (∀ sc q, (s.queue q).entries ≠ [] → s.waitClk ≤ 2 ^ 32 →
        Completes (.fence sc) s (fun t => t = { s with waitClk := max s.waitClk 1, waitKind := 10 })
        ∧ Completes (.sqwait q) s (fun t => t = { s with waitClk := max s.waitClk 1, waitKind := 10 }))

/-! ## Named barriers -/

/-! ## Traps and the system group -/

/-- R175, R182, R183: SRD and SWR. -/
def Obligations.SystemRegisters : Prop := SystemRegisterReads ∧ SystemRegisterWrites

/-! ## The MISC group -/

/-- R62, R63, R64, R95, R97, R99, R100, R164: PUB, OPEN, ROINV, PHASE, EXIT and TAIL. -/
def Obligations.PublicationAndPhases : Prop := PublishAndOpen ∧ PhaseEndsAndOpens ∧ ExitAndTail

/-- R165 to R167: the waits on tags, lines and time. -/
def Obligations.TagAndLineWaits : Prop := TagWaits ∧ WaitsOnLinesAndTime

/-- R51, R103, R168, R169: DISC and AGETS. -/
def Obligations.DiscardAndPop : Prop := DiscardZeroesTheLine ∧ PopOfTheReturnQueue

/-- R170 to R173: the named barriers. -/
def Obligations.NamedBarriers : Prop := BarriersCountArrivals ∧ BarrierSetup

/-- R174, R175: TRAP and BRK, with a handler and without, and ERET. -/
def Obligations.TrapsAndReturns : Prop := SoftwareTrapsEnterTheHandler ∧ ReturnFromTrap

/-- R176 to R181, R213: FMTPUSH, MCQUI, MCSET, MSLOT, MAPLD, MAPST and TDLD. -/
def Obligations.RegisterFilesAndTables : Prop := FormatAndTableWrites ∧ MapsAndDescriptors

/-! ## Vector instructions -/

/-- R189: the integer rows. -/
def Obligations.VectorIntegers : Prop :=
  IntRow .vadd (fun _ _ a b => a + b) ∧ IntRow .vsub (fun _ _ a b => a - b) ∧ IntRow .vmul (fun _ _ a b => a * b)
  ∧ IntRow .vabs (fun _ _ a _ => a.natAbs) ∧ IntRow .vneg (fun _ _ a _ => -a)
  ∧ IntRow .vadds (fun o s a _ => a + laneInt o.ty (s.getReg o.b).toNat)
  ∧ IntRow .vsubs (fun o s a _ => a - laneInt o.ty (s.getReg o.b).toNat)
  ∧ MaskedRow .vshl (fun o s i r fl => IntDelivered o.ty o.sat
      (laneInt o.ty (vElem s o.a o.ty.bits i) * 2 ^ shiftBy o (vElem s o.b o.ty.bits i)) r fl)
  ∧ CodeRow .vmulh (fun o x y r => (r : Int)
      = laneInt o.ty x * laneInt o.ty y / ((2 ^ o.ty.bits : Nat) : Int) % ((2 ^ o.ty.bits : Nat) : Int))
  ∧ CodeRow .vmin (fun o x y r => laneInt o.ty r = min (laneInt o.ty x) (laneInt o.ty y))
  ∧ CodeRow .vmax (fun o x y r => laneInt o.ty r = max (laneInt o.ty x) (laneInt o.ty y))
  ∧ CodeRow .vand (fun o x y r => ∀ j < o.ty.bits, r.testBit j = (x.testBit j && y.testBit j))
  ∧ CodeRow .vor (fun o x y r => ∀ j < o.ty.bits, r.testBit j = (x.testBit j || y.testBit j))
  ∧ CodeRow .vxor (fun o x y r => ∀ j < o.ty.bits, r.testBit j = (x.testBit j != y.testBit j))
  ∧ CodeRow .vandn (fun o x y r => ∀ j < o.ty.bits, r.testBit j = (x.testBit j && !y.testBit j))
  ∧ CodeRow .vshr (fun o x y r => r = x / 2 ^ shiftBy o y)
  ∧ CodeRow .vshra (fun o x y r => ∀ j < o.ty.bits, r.testBit j
      = (if j + shiftBy o y < o.ty.bits then x.testBit (j + shiftBy o y) else x.testBit (o.ty.bits - 1)))
  ∧ CodeRow .vavg (fun o x y r => laneInt o.ty r = (laneInt o.ty x + laneInt o.ty y + 1) / 2)
  ∧ CodeRow .vclz (fun o x _ r => r ≤ o.ty.bits ∧ x < 2 ^ (o.ty.bits - r)
      ∧ (r < o.ty.bits → x.testBit (o.ty.bits - 1 - r) = true))
  ∧ CodeRow .vpopc (fun o x _ r => r = ((List.range o.ty.bits).filter fun j => x.testBit j).length)
  ∧ MaskedRow .viota (fun o _ i r fl => (r : Int) = (i + o.imm.toInt) % ((2 ^ o.ty.bits : Nat) : Int) ∧ fl = 0)
  ∧ GroupRow .vsel (fun o s i r fl => fl = 0
      ∧ r = vElem s (if activeAt s o.k o.w o.ty.bits i then o.a else o.b) o.ty.bits i)

/-- R190, R203 to R206: the float rows, the fused rows with one rounding of the whole value, and the transcendental functions;
VFMIN, VFMAX, VFABS and VFNEG round nothing and set no flag. -/
def Obligations.VectorFloats : Prop :=
  FloatRow .vfadd (fun a b _ => exactly (fAdd a b)) ∧ FloatRow .vfsub (fun a b _ => exactly (fAdd a b.neg))
  ∧ FloatRow .vfmul (fun a b _ => exactly (fMul a b)) ∧ FloatRow .vfdiv (fun a b _ => fDiv a b)
  ∧ FloatRow .vfsqrt (fun a _ _ => fSqrt a)
  ∧ FloatRow .vfma (fun a b c => exactly (fFma a b c)) ∧ FloatRow .vfms (fun a b c => exactly (fFma a b c.neg))
  ∧ FloatRow .vfnma (fun a b c => exactly (fFma a.neg b c)) ∧ FloatRow .vfnms (fun a b c => exactly (fFma a.neg b c.neg))
  ∧ FloatRow .vexp2 (fun a _ _ => exp2Of a) ∧ FloatRow .vlog2 (fun a _ _ => log2Of a)
  ∧ FloatRow .vrcp (fun a _ _ => rcpOf a) ∧ FloatRow .vrsq (fun a _ _ => rsqOf a)
  ∧ CodeRow .vfmin (fun o x y r => FloatMinMax o.ty x y r false)
  ∧ CodeRow .vfmax (fun o x y r => FloatMinMax o.ty x y r true)
  ∧ CodeRow .vfabs (fun o x _ r => if unpackFloat o.ty x = .nan then r = canonNaN o.ty
      else ∀ j < o.ty.bits, r.testBit j = (x.testBit j && decide (j ≠ o.ty.bits - 1)))
  ∧ CodeRow .vfneg (fun o x _ r => if unpackFloat o.ty x = .nan then r = canonNaN o.ty
      else ∀ j < o.ty.bits, r.testBit j = (x.testBit j != decide (j = o.ty.bits - 1)))
  ∧ MaskedRow .vfrnd (fun o s i r fl => match unpackFloat o.ty (vElem s o.a o.ty.bits i) with
      | .nan => r = canonNaN o.ty ∧ fl = 0
      | .inf n => r = infCode (fmtOf o.ty) n ∧ fl = 0
      | .fin n m e => unpackFloat o.ty r = unpackFloat o.ty
            (deliver o.ty .rne (.num n (roundUnits (roundingOf o s i) m e 0 false).1 0 false)).1
          ∧ fl = if (roundUnits (roundingOf o s i) m e 0 false).2 then Flags.nx else 0)

/-- R191, R192: VCMP writes the mask bits of active elements alone; the mask operations work on whole registers, and KPOPC
returns its count through the return queue. -/
def Obligations.ComparesAndMasks : Prop :=
  MaskRow .vcmp (fun o s j r =>
    let i := j * 2 ^ o.w.toNat / (o.ty.bits / 8)
    if activeAt s o.k o.w o.ty.bits i then
      (r = true ↔ CompareHolds o.ty (o.imm.toNat % 8) (vElem s o.a o.ty.bits i) (vElem s o.b o.ty.bits i))
    else r = maskBit s o.d j)
  ∧ MaskRow .kand (fun o s j r => r = (maskBit s o.a j && maskBit s o.b j))
  ∧ MaskRow .kor (fun o s j r => r = (maskBit s o.a j || maskBit s o.b j))
  ∧ MaskRow .kxor (fun o s j r => r = (maskBit s o.a j != maskBit s o.b j))
  ∧ MaskRow .knot (fun o s j r => r = !maskBit s o.a j)
  ∧ MaskRow .kmov (fun o s j r => r = maskBit s o.a j)
  ∧ MaskRow .kffs (fun o s j r => r = (maskBit s o.a j && decide (∀ i < j, maskBit s o.a i = false)))
  ∧ MaskRow .kset (fun o _ j r => r = decide (j < o.imm.toNat))
  ∧ ReturnRow .kpopc (fun o s v => v.toNat = ((List.range 256).filter fun j => maskBit s o.a j).length)

/-- R193, R202: the permutations and the moves, element by element; VCMPR writes every element, VEXT returns its element. -/
def Obligations.PermutationsAndMoves : Prop :=
  MoveRow .vperm (fun o s i =>
    let x := vElem s o.b o.ty.bits i
    if x < 2 ^ o.w.toNat * 2048 / o.ty.bits then vElem s o.a o.ty.bits x else 0)
  ∧ MoveRow .vshuf (fun o s i => vElem s o.a o.ty.bits (4 * (i / 4) + o.imm.toNat / 4 ^ (i % 4) % 4))
  ∧ MoveRow .vslide (fun o s i => pairElem o s (i + o.imm.toNat))
  ∧ MoveRow .vbcast (fun o s _ =>
    if o.alt then vElem s o.a o.ty.bits o.imm.toNat else (s.getReg o.a).toNat % 2 ^ o.ty.bits)
  ∧ MoveRow .vzip (fun o s i => vElem s (if i % 2 = 0 then o.a else o.b) o.ty.bits
    ((if o.alt then 2 ^ o.w.toNat * 2048 / o.ty.bits / 2 else 0) + i / 2))
  ∧ MoveRow .vunzip (fun o s i => pairElem o s (2 * i + (if o.alt then 1 else 0)))
  ∧ MoveRow .vtrn (fun o s i => vElem s (if i % 2 = 0 then o.a else o.b) o.ty.bits
    (i / 2 * 2 + (if o.alt then 1 else 0)))
  ∧ MoveRow .vexpd (fun o s i => vElem s o.a o.ty.bits (activeList o s i).length)
  ∧ GroupRow .vcmpr (fun o s i r fl => fl = 0 ∧
    r = match (activeList o s (2 ^ o.w.toNat * 2048 / o.ty.bits))[i]? with
      | some j => vElem s o.a o.ty.bits j
      | none => 0)
  ∧ MoveRow .vmov (fun o s i => vElem s o.a o.ty.bits i)
  ∧ GroupRow .vins (fun o s i r fl => fl = 0 ∧
    r = if i = o.imm.toNat then (s.getReg o.a).toNat % 2 ^ o.ty.bits else vElem s o.d o.ty.bits i)
  ∧ MaskedRow .vli (fun o s i r fl =>
    if o.ty.isInt then (r : Int) = o.imm.toInt % ((2 ^ o.ty.bits : Nat) : Int) ∧ fl = 0
    else (r, fl) = deliver o.ty (roundingOf o s i) (.num (decide (o.imm.toInt < 0)) o.imm.toInt.natAbs 0 false))
  ∧ ReturnRow .vext (fun o s v => v = (if o.ty.isSigned
      then BitVec.ofInt 64 (laneInt o.ty (vElem s o.a o.ty.bits o.imm.toNat))
      else BitVec.ofNat 64 (vElem s o.a o.ty.bits o.imm.toNat)))

/-- R201: while the queue has room for all 64 lanes, VSIT and VSITC append every active lane in order and refuse none; VDRAIN
hands over the oldest entries of its path, and VSITCLR discards. -/
def Obligations.SitOutQueue : Prop :=
  (∀ row ∈ [Instr.vsit, .vsitc], ∀ (o : EOp) (s : State), QueueReady s .c (row o) → s.sitout.length + 64 ≤ 2048 →
    Completes (row o) s fun t => ∃ u, EngineResult s t u .c (row o)
      ∧ u = { s with kregs := u.kregs, sitout := s.sitout
          ++ ((List.range 64).filter fun i => maskBit s (o.k.setWidth 6) (4 * i)).map fun i =>
            ⟨if row o = .vsit o then o.imm.toNat % 16 else vElem s o.c 32 i % 16, vElem s o.b 32 i, o.w,
              (List.range (2 ^ o.w.toNat)).map fun m => vElem s (o.a + BitVec.ofNat 6 m) 32 i⟩ }
      ∧ (o.d = 0 → u.kregs = s.kregs)
      ∧ (o.d ≠ 0 → MaskWritten { s with sitout := u.sitout } u o.d (fun _ r => r = false)))
  ∧ (∀ (o : EOp) (s : State), QueueReady s .c (.vdrain o) → (o.b < o.d ∨ o.d.toNat + 2 ^ o.w.toNat ≤ o.b.toNat) →
    Completes (.vdrain o) s fun t => ∃ u, EngineResult s t u .c (.vdrain o)
      ∧ u = { s with vregs := u.vregs, sitout := u.sitout }
      ∧ (∀ i < 64, vElem u o.b 32 i = (match (drainTaken o s)[i]? with
          | some e => e.index % 2 ^ 32 | none => 2 ^ 32 - 1)
        ∧ ∀ m < 2 ^ o.w.toNat, vElem u (o.d + BitVec.ofNat 6 m) 32 i = (match (drainTaken o s)[i]? with
          | some e => e.words.getD m 0 % 2 ^ 32 | none => 0))
      ∧ (u.sitout.filter fun e => e.path ≠ o.imm.toNat % 16) = (s.sitout.filter fun e => e.path ≠ o.imm.toNat % 16)
      ∧ (u.sitout.filter fun e => e.path = o.imm.toNat % 16)
        = (s.sitout.filter fun e => e.path = o.imm.toNat % 16).drop (drainTaken o s).length)
  ∧ (∀ (o : EOp) (s : State), QueueReady s .c (.vsitclr o) → Completes (.vsitclr o) s fun t =>
      EngineResult s t { s with sitout := if o.alt then [] else s.sitout.filter fun e => e.path ≠ o.imm.toNat % 16 } .c
        (.vsitclr o))

/-- R15, R29, R47, R48: VADD, VFMA, VCMP, VPERM and RLREC of the C queue, VLD and VLDS of the L queue, VST and VSTS of the S queue,
whose queue still works or whose tokens are missing, are issued into the queue behind what stands there, with their scalars as they
are now, and nothing of their effect happens yet. -/
def Obligations.IssueIntoABusyQueue : Prop :=
  (∀ row ∈ [Instr.vadd, .vfma, .vcmp, .vperm, .rlrec], ∀ (o : EOp) (s : State), IssuesBehind s .c (row o) →
    Completes (row o) s fun t => JustIssued s t .c (row o))
  ∧ ∀ row ∈ [(Instr.vld, Queue.l), (.vlds, .l), (.vst, .s), (.vsts, .s)], ∀ (o : MOp) (s : State),
    IssuesBehind s row.2 (row.1 o) → Completes (row.1 o) s fun t => JustIssued s t row.2 (row.1 o)

/-- R194 to R200: reductions in registers, conversions and blocks. -/
def Obligations.ReductionsAndConversions : Prop := VectorReductions ∧ ConversionsAndBlocks

/-! ## Vector memory -/

/-- R60, R64, R186, R207, R210: the vector stores: a global one is staged, or in tail mode at its home at once; a scratchpad one
stands in the scratchpad. -/
def Obligations.VectorStores : Prop :=
  (∀ row ∈ [(Instr.vst, false), (.vscat, true)], ∀ (o : MOp) (s : State) (at_ : Nat → Nat), QueueReady s .s (row.1 o) →
    o.space = .global → ElemsAt o s false row.2 .store at_ → s.memory.wf = true →
    (s.launch.header.tailm = false → (∀ locs, locs.length ≤ 2 ^ o.w.toNat * 256 → s.stagingFull locs = false) →
      Completes (row.1 o) s fun t => ∃ v u, MemNoted s v ∧ EngineResult s t u .s (row.1 o)
        ∧ OwnWritten { v with memory := { v.memory with staging := u.memory.staging } } u
        ∧ ElemsStored o s at_ (Overlay.get? s.memory.staging) (Overlay.get? u.memory.staging) some
        ∧ ElemsStored o s at_ (Overlay.get? s.memory.own) (Overlay.get? u.memory.own) some)
    ∧ (s.launch.header.tailm = true →
      (∀ i, wordActive o s i → StacksReady s (bytesAt (at_ i) (o.ty.bits / 8))) →
      Completes (row.1 o) s fun t => ∃ v w u, MemNoted s v ∧ EngineResult s t u .s (row.1 o)
        ∧ Installed { v with revocable := false } w ∧ OwnWritten w u
        ∧ ElemsStored o s at_ (Mem.read s.memory.home) (Mem.read u.memory.home) id
        ∧ ElemsStored o s at_ (Overlay.get? s.memory.own) (Overlay.get? u.memory.own) some))
  ∧ (∀ row ∈ [(Instr.vsts, false), (.vscat, true)], ∀ (o : MOp) (s : State) (at_ : Nat → Nat), QueueReady s .s (row.1 o) →
    (row.2 = true → o.space = .scratch) → ElemsAt o s true row.2 .store at_ → Mem.wf s.memory.scratch = true →
    Completes (row.1 o) s fun t => ∃ u, EngineResult s t u .s (row.1 o)
      ∧ u = { s with memory := { s.memory with scratch := u.memory.scratch, scrPoison := u.memory.scrPoison } }
      ∧ ElemsStored o s at_ (Mem.read s.memory.scratch) (Mem.read u.memory.scratch) id)

/-- R69 to R71: LDBLK counts one operation on its tag, whose RDY and ERR bits it clears when it is the first, and opens a block of
b + 1 lines from its base, within 16 blocks and 1,024 lines; what leaves the L1 for it are lines and completed blocks alone. R51, R209:
AGET moves the oldest unmatched value of the return queue into its group and frees the entry. -/
def Obligations.LoadBlocksAndVectorPops : Prop :=
  (∀ (o : EOp) (s : State) (locs : List Nat) (m : Memory), QueueReady s .l (.ldblk o) →
    o.d.toNat < s.launch.header.ntag → (s.tags.out[o.d.toNat]'o.d.isLt) < 255 →
    (s.getReg o.a + o.imm.signExtend 64).toNat % 128 = 0 →
    s.locsOf .load false true ((List.range (o.b.toNat + 1)).map
      fun i => (s.getReg o.a + o.imm.signExtend 64).toNat + 128 * i) = .ok locs → (∀ l ∈ locs, l < 2 ^ 48) →
    (s.memory.blocks.map fun b => b.id).Nodup →
    (makeRoom (o.b.toNat + 1) 18 s.memory).bind (makeWays (s.getReg o.a + o.imm.signExtend 64).toNat (o.b.toNat + 1)) = some m →
    Completes (.ldblk o) s fun t => ∃ v u, MemNoted s v ∧ EngineResult s t u .l (.ldblk o)
      ∧ u.memory.blocks = m.blocks ++ [⟨s.memory.nextBlock, o.d, (s.getReg o.a + o.imm.signExtend 64).toNat,
          o.b.toNat + 1, true, false, locs⟩]
      ∧ (∀ b ∈ m.blocks, b ∈ s.memory.blocks) ∧ (∀ b ∈ s.memory.blocks, b.open_ = true → b ∈ m.blocks)
      ∧ u.memory.blocks.length ≤ 16 ∧ (u.memory.blocks.map fun b => b.lines).sum ≤ 1024
      ∧ (∀ i ∈ u.memory.l1, i = .block s.memory.nextBlock ∨ i ∈ s.memory.l1)
      ∧ u = { v with tags := u.tags, memory := { v.memory with
          blocks := u.memory.blocks, l1 := u.memory.l1, nextBlock := s.memory.nextBlock + 1 } }
      ∧ TagIssued s u o.d.toNat)
  ∧ (∀ (o : EOp) (s : State) (e : RetEntry) (v : RetValue), QueueReady s .l (.aget o) →
    s.ret.find? (fun x => !x.matched) = some e → (∀ x ∈ s.ret, x.id = e.id → x = e) → e.bad = none → e.value = some v →
    (s.launch.det = true → e.interval ≠ some s.ordered.interval) →
    Completes (.aget o) s fun t => ∃ u, EngineResult s t u .l (.aget o)
      ∧ u = { s with vregs := u.vregs, ret := s.ret.filter fun x => x.id ≠ e.id }
      ∧ ∀ m : Nat, u.vregs[m]? = if o.d.toNat ≤ m ∧ m < o.d.toNat + 2 ^ o.w.toNat then
          some (match v with
            | .scalar w => if m = o.d.toNat then w.setWidth 2048 else 0
            | .vector rs => rs.getD (m - o.d.toNat) 0)
        else s.vregs[m]?)

/-- R95, R100, R186, R207, R208: the vector loads. -/
def Obligations.VectorLoadsAndReadOnlyLoads : Prop := VectorLoads ∧ ReadOnlyLoads

/-- R132, R161, R211, R212: VRDM and VATOM. -/
def Obligations.ReductionsAtMemory : Prop := VectorAtomics ∧ TreeReductionAtMemory

/-- R89: a dimension split in p shards by kind 0 or 1 covers every index exactly once, whatever its size; resolution in a tensor
that no axis splits gives the reader's own buffer, at the dot product of index and strides, and nothing outside the shape. -/
def Obligations.TensorResolution : Prop :=
  (∀ kind < 2, ∀ n p : Nat, 0 < p → ∀ x < n, ∃ j < p, ((extent kind n p [] j).1 ≤ x
      ∧ x < (extent kind n p [] j).1 + (extent kind n p [] j).2)
    ∧ ∀ j' < p, (extent kind n p [] j').1 ≤ x → x < (extent kind n p [] j').1 + (extent kind n p [] j').2 → j' = j)
  ∧ (∀ (t : TensorMap) (mesh : Word) (g : Nat) (x : List Int), Unsplit t →
      g < (List.range 4).foldl (fun n a => n * axisSize mesh a) 1 →
      ((∀ d < t.desc.ndim, 0 ≤ x.getD d 0 ∧ x.getD d 0 < ((t.desc.shape.getD d 0 : Nat) : Int)) →
        t.resolve mesh g x = some ⟨g, ((List.range t.desc.ndim).map fun d =>
          (x.getD d 0).toNat * t.desc.stride.getD d 0).sum, false⟩)
      ∧ ((∃ d < t.desc.ndim, x.getD d 0 < 0 ∨ ((t.desc.shape.getD d 0 : Nat) : Int) ≤ x.getD d 0) →
        t.resolve mesh g x = none))

/-- R91, R161, R230 to R232: TLD, TST and TACC. -/
def Obligations.TileAccesses : Prop := TileLoadsAndStores ∧ TileAdditions

/-- R229 to R231, R323 to R325: faults of vector and tile words. -/
def Obligations.EngineFaultsHaltTheQueue : Prop := VectorFaultsHaltTheQueue ∧ TileFaults

/-! ## The matrix engine -/

/-- R226 to R228: GEMVH puts, for each of NR rows of a weight tensor in this device's memory and each of its vectors, the word of
their product to the scratchpad, 32 B from row to row; the bytes between the words and all others are as before. Here the
descriptor stands in the core's cache and has no table extents. -/
def Obligations.ProductsAtMemory : Prop :=
  ∀ (o : EOp) (s : State) (desc : DescEntry) (row0 nr v key : Nat) (rows : List Nat) (at_ : Nat → Nat → Nat) (keyOf : Nat → Nat),
    QueueReady s .c (.gemvh o) → Mem.wf s.memory.scratch = true → s.launch.header.scratch ≤ 2 ^ 20 →
    let d := (s.getReg o.d).toNat % 2 ^ 32
    let b := (s.getReg o.b).toNat % 2 ^ 32
    let t : TensorMap := ⟨Desc.ofBytes desc.bytes, [[], []]⟩
    let k := t.desc.shape.getD 1 0
    let kb := k * t.desc.es
    let ev := o.ty.bits / 8
    v = o.imm.toNat % 8 + 1 → (s.getReg (o.imm.extractLsb' 6 6)).toNat = row0 + nr * 2 ^ 32 → row0 < 2 ^ 32 → 0 < nr →
    nr < 2 ^ 24 → d % 32 = 0 → b % 16 = 0 → d / 2 ^ 23 % 2 = 0 →
    s.memory.descs.find? (fun x => x.id = (s.getReg o.a).toNat % 4096) = some desc → t.desc.ok = true →
    gemvLayout t.desc = true → (∀ i < 2, (t.dim i).kind ≠ 2) →
    gemvRows t s.launch.mesh s.launch.rank4 row0 nr = some rows → 0 < kb →
    ScratchOk s d (32 * (nr - 1) + 4 * v) key →
    (∀ j < v, ScratchOk s (b + j * ((k * ev + 15) / 16 * 16)) (k * ev) (keyOf j)) →
    (∀ i < nr, ∀ j < kb, at_ i j < 2 ^ 48 ∧ (∀ s' ∈ [s, s.note rows], s'.locOf .load false true (rows.getD i 0 + j) = .ok (at_ i j))
      ∧ (∃ leaf size, s.leafOf (rows.getD i 0 + j) = .ok (leaf, size) ∧ Leaf.mode leaf = 0 ∧ Leaf.pk leaf = false)
      ∧ s.stackWaits [at_ i j] = false ∧ s.poisonTrap [rows.getD i 0 + j] [at_ i j] = none) →
    Completes (.gemvh o) s fun u' => ∃ n u, MemNoted s n ∧ EngineResult s u' u .c (.gemvh o)
      ∧ u = { n with memory := { n.memory with scratch := u.memory.scratch, scrPoison := u.memory.scrPoison } }
      ∧ (∀ i < nr, ∀ j < v, wordAt u.memory.scratch (key + 32 * i + 4 * j) 4
        = gemvWord t.desc.dtype o.ty (rows.getD i 0) ((List.range kb).map fun x => Mem.read s.memory.home (at_ i x))
          ((List.range (k * ev)).map fun x => Mem.read s.memory.scratch (keyOf j + x)))
      ∧ ∀ l, (∀ i < nr, l < key + 32 * i ∨ key + 32 * i + 4 * v ≤ l) → Mem.read u.memory.scratch l = Mem.read s.memory.scratch l

/-- R134, R215, R217, R220 to R222: MLDB and MMA. -/
def Obligations.WeightsAndProducts : Prop := WeightLoads ∧ MatrixProducts

/-- R216, R217, R219, R223, R224: MLEASE, MREL and MZERO. -/
def Obligations.LeaseAndAccumulators : Prop := LeaseAndRelease ∧ AccumulatorsAreCleared

/-! ## The Reel -/

/-- R237, R239: what is recorded reads back: the records of a value (raw, or by XOR against the slot's last value), of a mask and
of a checkpoint decode to what they were made of. -/
def Obligations.ReelRecordsReadBack : Prop :=
  (∀ (slot w : Nat) (v : List Byte) (last : List (Nat × Nat × List Byte)), slot < 16 → w < 4 → v.length = 256 * 2 ^ w →
    (∀ x ∈ last, x.2.2.length = 256 * 2 ^ x.2.1) →
    decodeRecords 1 (valRecord slot w v last) last = some [⟨0, slot, w, false, v⟩])
  ∧ (∀ k : KReg, decodeRecords 1 (maskRecord k) [] = some [⟨1, 0, 0, false, natToBytes 32 k.toNat⟩])
  ∧ (∀ (e : Entry) (mask : Word) (label seg : Nat), label < 65536 → seg < 65536 →
    ∃ r, decodeRecords 1 (chkRecord e mask label seg) [] = some [r] ∧ r.kind = 2 ∧ r.label = label ∧ r.segNo = seg
      ∧ r.pc = e.pc + 8
      ∧ ∀ i : Reg, i ≠ 0 → r.scalar i.toNat = if mask.getLsbD i.toNat then e.regs[i.toNat]'i.isLt else 0)

/-- R233 to R238: RLOPEN, RLREC, RLBR, RLMARK, RLSEAL and RLCLOSE. -/
def Obligations.ReelRecording : Prop := ReelOpens ∧ ReelRecords ∧ ReelFrames

/-- R233, R234, R239, R240: RLREV, RLPOP, RLBRP, RLCHK and RLSTAT. -/
def Obligations.ReelPlayback : Prop := ReelPlaysInReverse ∧ ReelDiverges ∧ ReelStatus

/-! ## Copies, streams, tables, the Caller and the helper -/

/-- R245, R251: CPY and FST issue their command with one operation on its tag; FLOAD takes its place in the stream queue, waits, and
writes how its load ended; FQUI ends when the grid has no stream. -/
def Obligations.CopiesAndStreamsAreIssued : Prop :=
  (∀ (o : AOp) (s : State) (t : Template) (c : CopyCmd), s.regsOk [o.a, o.b, o.c] = true →
    CopyOk s o.id.toNat t (s.getReg o.a) (s.getReg o.b) (s.getReg o.c) (o.imm.setWidth 6) c →
    Completes (.cpy o) s fun x => ∃ u, CopyStarted s u c ∧ Issued s x u)
  ∧ (∀ (o : AOp) (s : State) (key : Nat), s.regsOk [o.a, o.b, o.c] = true →
    let src := (s.getReg o.a).toNat % 2 ^ 32
    let len := (s.getReg o.b).toNat % 2 ^ 32
    o.imm.toNat % 64 < s.launch.header.ntag → o.id.toNat < s.launch.header.nfg → len % 4 = 0 →
    (0 < len → ScratchOk s src len key) → s.grid.queue.length < 16 → s.tags.out.toList.getD (o.imm.toNat % 64) 0 < 255 →
    Completes (.fst o) s fun x => ∃ u, TagIssued s u (o.imm.toNat % 64)
      ∧ u = { s with
          tags := u.tags
          grid := { s.grid with queue := s.grid.queue
            ++ [⟨o.id.toNat, .fst src len ((s.getReg o.c).toNat % 2 ^ 32), o.imm.setWidth 6, s.isn, false⟩] } }
      ∧ Issued s x u)
  ∧ (∀ (o : AOp) (s : State), s.regOk o.a = true → o.id.toNat < s.launch.header.nfg →
    (s.wait ≠ some .fload → s.waitClk ≤ 2 ^ 32 →
      Completes (.fload o) s fun x => x = { s with
        wait := some .fload, waitClk := max s.waitClk 1, waitKind := 6
        grid := { s.grid with fload := some (o.id.toNat, s.grid.queue.length), floaded := none } })
    ∧ ∀ rolled, s.wait = some .fload → s.grid.floaded = some rolled →
      Completes (.fload o) s fun x => ScalarResult { s with grid := { s.grid with floaded := none } } x o.a
        (if rolled then 1 else 0) (s.pc + 8))
  ∧ (∀ s : State, s.grid.queue = [] → s.grid.run = none → Completes .fqui s fun x => NoResult s x (s.pc + 8))
  ∧ (∀ (o : AOp) (s : State), CanTrap s → s.regsOk [o.a, o.b, o.c] = true → s.launch.header.ntag ≤ o.imm.toNat % 64 →
    Traps (.cpy o) s .tagbound 0 0 ∧ Traps (.fst o) s .tagbound 0 0)

/-- R52, R143, R152, R255: TBLRUN places a table entry, which starts at once at the head of an idle queue and ends at once with a
count of 0; TBLSTOP ends a running table between micro-orders, else after the current one; TBLBASE sets the queue's rebase
register. -/
def Obligations.StepTables : Prop :=
  (∀ (a : Reg) (len : BitVec 8) (cnt : BitVec 6) (off : BitVec 17) (q : Queue) (s : State) (n : Nat), s.regOk a = true →
    8 * off.toNat + 8 * (len.toNat + 1) ≤ s.launch.header.scratch → s.eager = true → (s.queue q).entries = [] →
    (s.queue q).table = none → (s.queue q).halt = none →
    n = (if a = 0 then cnt.toNat + 1 else (s.getReg a).toNat % 2 ^ 32) →
    Completes (.tblrun a len cnt off q) s fun t => ∃ u, Issued s t u ∧ (∀ p, p ≠ q → t.queue p = s.queue p)
      ∧ u = { s with queues := u.queues, caller := { s.caller with pulses := u.caller.pulses } }
      ∧ (∀ x y, u.fifo x y = s.fifo x y) ∧ u.queues.qsel = s.queues.qsel ∧ u.queues.halts = s.queues.halts
      ∧ (n = 0 → u.queue q = { s.queue q with stall := 0 })
      ∧ (n ≠ 0 → ∃ e : Entry, u.queue q = { s.queue q with
            entries := [e], stall := 0, table := some ⟨8 * off.toNat, len.toNat + 1, n, 0, 0, false, none⟩ }
          ∧ e.instr = .tblrun a len cnt off q ∧ e.pc = s.pc ∧ e.isn = s.isn))
  ∧ (∀ (q : Queue) (s : State), Completes (.tblstop q) s fun t => ∃ u, Issued s t u
      ∧ u = { s with queues := u.queues, caller := { s.caller with pulses := u.caller.pulses } }
      ∧ (∀ p, p ≠ q → t.queue p = s.queue p)
      ∧ (match (s.queue q).table with
        | none => u = s
        | some tb => u.queue q = if tb.cur.isSome = true ∨ (s.queue q).halt.isSome = true then { s.queue q with table := some { tb with stop := true } }
            else { s.queue q with table := none, entries := (s.queue q).entries.tail, stall := 0 }))
  ∧ (∀ (a : Reg) (n : BitVec 3) (q : Queue) (s : State), s.regOk a = true → QueueReady s q (.tblbase a n q) →
    Completes (.tblbase a n q) s fun t => ∃ u, EngineResult s t u q (.tblbase a n q) ∧ u = { s with rebase := u.rebase }
      ∧ ∀ i : Nat, u.rebase[i]? = if i = (match q with | .l => 0 | .c => 8 | .s => 16) + n.toNat then some (s.getReg a)
          else s.rebase[i]?)
  ∧ (∀ (a : Reg) (len : BitVec 8) (cnt : BitVec 6) (off : BitVec 17) (q : Queue) (s : State), CanTrap s → s.regOk a = true →
    s.launch.header.scratch < 8 * off.toNat + 8 * (len.toNat + 1) →
    Traps (.tblrun a len cnt off q) s .scrbound 0 (BitVec.ofNat 64 (max (8 * off.toNat) s.launch.header.scratch)))

/-- R256, R258: EVCFG gives a term its word and disarms it, EVARM arms it with its count and its two marks clear, EVOFF disarms it;
no other term differs. -/
def Obligations.CallerTerms : Prop :=
  (∀ (a : Reg) (t : BitVec 5) (s : State) (x : Term), s.regsOk [a, a + 1] = true → s.caller.terms[t.toNat]? = some x →
    Term.bad s.launch.header (s.getReg (a + 1) ++ s.getReg a) = none →
    Completes (.evcfg a t) s fun v => ∃ u, Issued s v u
      ∧ u = { s with caller := { s.caller with terms := u.caller.terms } }
      ∧ ∀ n : Nat, u.caller.terms[n]? = if n = t.toNat
          then some { x with word := s.getReg (a + 1) ++ s.getReg a, armed := false } else s.caller.terms[n]?)
  ∧ (∀ (t : BitVec 5) (s : State) (x : Term), s.caller.terms[t.toNat]? = some x →
    (Completes (.evarm t) s fun v => ∃ u, Issued s v u
      ∧ u = { s with caller := { s.caller with terms := u.caller.terms } }
      ∧ ∀ n : Nat, u.caller.terms[n]? = if n = t.toNat
          then some { x with armed := true, cnt := 0, fa := false, fb := false } else s.caller.terms[n]?)
    ∧ Completes (.evoff t) s fun v => ∃ u, Issued s v u
      ∧ u = { s with caller := { s.caller with terms := u.caller.terms } }
      ∧ ∀ n : Nat, u.caller.terms[n]? = if n = t.toNat then some { x with armed := false } else s.caller.terms[n]?)

/-- R253, R254, R326: the helper and its words. -/
def Obligations.HelperPrograms : Prop := HelperControl ∧ HelperWords

/-! ## Groups, collectives and reshards -/

/-- R264, R265, R285: GVER returns the cached version, GINV drops the cached descriptor of a launch with a group, GLEAVE and GJOIN
begin their wait beside the task, and GPROP joins a round of the same proposal, or begins one: this device, a member of both
versions that holds no lock on another proposal, locks, signs, and sends the proposal to the other members once it has its number
(R301). -/
def Obligations.GroupInstructions : Prop :=
  (∀ (o : AOp) (s : State) (d : Descriptor), s.regOk o.a = true → s.launch.group ≠ 0 → s.group.cached = some d →
    Completes (.gver o) s fun t => ScalarResult s t o.a d.ver (s.pc + 8))
  ∧ (∀ s : State, Completes .ginv s fun t => NoResult { s with group := { s.group with
      cached := if s.launch.group = 0 then s.group.cached else none } } t (s.pc + 8))
  ∧ (∀ (o : AOp) (s : State), GroupOk s (o.imm.setWidth 9) →
    Completes (.gleave o) s fun t => ∃ d, NoResult { s with group := { s.group with
      waits := s.group.waits ++ [(.leave, o.imm.setWidth 9, d)] } } t (s.pc + 8))
  ∧ (∀ (o : AOp) (s : State) (d : Descriptor), s.regOk o.a = true → GroupOk s (o.imm.setWidth 9) →
    DescriptorAt s (s.getReg o.a).toNat d → s.fabric.devid ∈ d.ranks →
    Completes (.gjoin o) s fun t => ∃ u, MemNoted s u ∧ NoResult { u with group := { s.group with
      waits := s.group.waits ++ [(.join, o.imm.setWidth 9, d)] } } t (s.pc + 8))
  ∧ (∀ (o : AOp) (s : State) (d : Descriptor), s.regOk o.a = true → GroupOk s (o.imm.setWidth 9) →
    DescriptorAt s (s.getReg o.a).toNat d →
    (∀ r, s.group.round = some r → r.hash = proposalHash d →
      Completes (.gprop o) s fun t => ∃ u, MemNoted s u ∧ NoResult { u with group := { s.group with
        waits := s.group.waits ++ [(.prop, o.imm.setWidth 9, d)] } } t (s.pc + 8))
    ∧ ∀ cur, s.group.round = none → s.group.cached = some cur → s.fabric.devid ∈ cur.ranks →
      (∀ v h, s.group.lock = some (v, h) → v = cur.ver + 1 → h = proposalHash d) → d.ver = cur.ver + 1 →
      wellFormedFor d s.fabric.devid = true → s.sec.leaf < 2 ^ 20 →
      let others := (cur.ranks.filter fun r => d.ranks.contains r).filter (· ≠ s.fabric.devid)
      others ≠ [] →
      Completes (.gprop o) s fun t => ∃ u, MemNoted s u ∧ NoResult { u with
          sec := { s.sec with leaf := s.sec.leaf + 1 }
          group := { s.group with
            waits := s.group.waits ++ [(.prop, o.imm.setWidth 9, d)]
            lock := some (cur.ver + 1, proposalHash d)
            sent := s.group.sent ++ if s.fabric.devset then others.map fun m => (m, .propose (proposalHash d) d) else []
            round := some ⟨d, proposalHash d, cur.ranks.filter fun r => d.ranks.contains r, (cur.ranks ++ d.ranks).eraseDups,
              [(s.fabric.devid, xmssSign s.sec.leaf (natToBytes 32 (proposalHash d).toNat))],
              s.device.time + s.fabric.grto * 1000⟩ } } t (s.pc + 8))
  ∧ (∀ (o : AOp) (s : State), CanTrap s → s.regOk o.a = true → s.launch.header.nbar ≤ o.imm.toNat % 512 →
    Traps (.gjoin o) s .barbound 0 0 ∧ Traps (.gprop o) s .barbound 0 0 ∧ Traps (.gleave o) s .barbound 0 0)

/-- R108, R259, R266, R267: what the task starts and does not wait for: collective programs and reshards, and the plan of one. -/
def Obligations.CollectivesAndReshardsStart : Prop := CollectiveStart ∧ ReshardStart

/-- R150, R257, R260, R261: the words of a collective program that move nothing: LOOP and ENDL count passes, PEER names the peers
from the rank, OFFS sets a slot's offset from a counter, WAIT, SIG and HALT come after the instance's earlier transfers, SIG
arrives at its barrier, and HALT ends the instance with an arrival at the barrier of its CRUN. -/
def Obligations.CollectiveControlWords : Prop :=
  ∀ (s : State) (x : Instance), InstanceAt s x →
    (∀ (n : BitVec 2) (cnt : BitVec 16), Completes (.loop n cnt) s fun t => t = { s with
      coll := withLive s { x with
        c := x.c.set n.toNat 0 n.isLt, at_ := x.at_ + 1
        loops := (n.toNat, x.at_ + 1, cnt.toNat) :: x.loops.filter fun l => l.1 ≠ n.toNat } })
    ∧ (∀ (n : BitVec 2) (start cnt : Nat), x.loops.find? (fun l => l.1 = n.toNat) = some (n.toNat, start, cnt) →
      let k := x.c[n.toNat]'n.isLt + 1
      Completes (.endl n) s fun t => t = { s with coll := withLive s (if k < cnt
        then { x with c := x.c.set n.toNat k n.isLt, at_ := start }
        else { x with
          c := x.c.set n.toNat k n.isLt, at_ := x.at_ + 1, loops := x.loops.filter fun l => l.1 ≠ n.toNat }) })
    ∧ (∀ (mode : PeerMode) (src : KSrc) (n : BitVec 2) (imm : BitVec 22) (k p f : Nat),
      k = (match src with
        | .imm => imm.toNat
        | .plusC => imm.toNat + x.c[n.toNat]'n.isLt
        | .shiftC => imm.toNat * 2 ^ (x.c[n.toNat]'n.isLt)) →
      (match mode with
        | .plus => x.rank < x.n ∧ p < x.n ∧ f < x.n ∧ p = (x.rank + k) % x.n ∧ (f + k) % x.n = x.rank
        | .minus => x.rank < x.n ∧ p < x.n ∧ f < x.n ∧ f = (x.rank + k) % x.n ∧ (p + k) % x.n = x.rank
        | .xor => p = x.rank ^^^ k ∧ f = p ∧ p < x.n
        | .abs => p = k ∧ f = k ∧ k < x.n) →
      Completes (.peer mode src n imm) s fun t => t = { s with
        coll := withLive s { x with peerT := some p, peerF := some f, at_ := x.at_ + 1 } })
    ∧ (∀ (slot : BitVec 3) (n : BitVec 2) (stride : BitVec 23), Completes (.offs slot n stride) s fun t => t = { s with
      coll := withLive s { x with
        offs := x.offs.set slot.toNat (x.c[n.toNat]'n.isLt * stride.toNat) slot.isLt, at_ := x.at_ + 1 } })
    ∧ (x.pend = [] →
      (Completes .wait s fun t => t = { s with coll := withLive s { x with at_ := x.at_ + 1 } })
      ∧ (∀ bar : BitVec 9, bar.toNat < s.launch.header.nbar → Completes (.sig bar) s fun t => OneBarrier { s with
            coll := withLive s { x with at_ := x.at_ + 1 }
            memory := { s.memory with engDone := doneWrites s (.bar bar.toNat) x.ws [] } } t bar
          ∧ ArrivedAt (s.bars[bar.toNat]'bar.isLt) (t.bars[bar.toNat]'bar.isLt))
      ∧ Completes .halt s fun t => OneBarrier { s with
            coll := { s.coll with live := s.coll.live.filter fun y => y.id ≠ x.id }
            memory := { s.memory with engDone := doneWrites s (.bar x.bar.toNat) x.ws (slotSpans s x.slots.toList) } } t x.bar
          ∧ ArrivedAt (s.bars[x.bar.toNat]'x.bar.isLt) (t.bars[x.bar.toNat]'x.bar.isLt))

/-- R150, R260, R261: the five words that move data. -/
def Obligations.CollectiveTransferWords : Prop :=
  (∀ (a : BitVec 3) (len : BitVec 16), TransferRow (.send a len) (some a) none none true false len)
  ∧ (∀ (b : BitVec 3) (len : BitVec 16), TransferRow (.recv b len) none (some b) none false true len)
  ∧ (∀ (a b : BitVec 3) (r : Rop) (ty : ElemType) (len : BitVec 16),
      TransferRow (.rrs a b r ty len) (some a) (some b) (some (r, ty)) true true len
      ∧ TransferRow (.rred a b r ty len) (some a) (some b) (some (r, ty)) false true len)
  ∧ (∀ (a b : BitVec 3) (len : BitVec 16), TransferRow (.copy a b len) (some a) (some b) none false false len)

/-! ## Events of the queues and of the waits -/

/-- R47 to R52, R70, R71, R124, R152, R166, R167, R181, R216, R225, R322 to R329: the events of the queues, of the array's
arbitration and of the waits. -/
def Obligations.QueueEvents : Prop :=
  TokenPopTakesTokens ∧ EntriesFinish ∧ MicroOrdersStart ∧ StarvedQueuesHalt ∧ HaltsAreCleared ∧ HaltsAndWatchdogTrap
  ∧ LeasesAreGranted ∧ SlotsChangeAtTheBoundary ∧ BlockFillsEnd ∧ SleepsEnd

/-! ## Events of the engines -/

/-- R109, R245, R248, R249, R251, R252, R257, R261, R262, R266, R318, R320, R349, R350, R358, R359: the events of the copies, the grid, the
Caller, the collectives and the reshards. -/
def Obligations.EngineEvents : Prop :=
  CellsFire ∧ GraphsAndStreamsStart ∧ StreamsEnd ∧ TermsCount ∧ CallerActionsStart ∧ CopiesMoveAndEnd ∧ InstancesAbort
  ∧ ReshardsLandAndEnd

/-! ## Events of the group rounds -/

/-- R265, R285, R286, R305 to R308, R365, R367: the events of the agreement rounds, of revocation and of the lock. -/
def Obligations.GroupEvents : Prop :=
  ProposalsAreAnswered ∧ RoundsAreDecided ∧ DecisionsArrive ∧ LocksAndRevocation

/-! ## Events of the command core, the scheduler and the tasks -/

/-- R37 to R46, R56 to R64, R81, R110, R242, R268 to R277, R315, R333, R345, R360 to R363: the events of the command core and of the
scheduler. -/
def Obligations.SchedulerEvents : Prop :=
  DoorbellsMoveTheIndex ∧ RecordsAreDecoded ∧ XfersAndInvalsComplete ∧ LaunchesAreIssued ∧ GangsArePlaced ∧ TasksStart
  ∧ TasksAndLaunchesEnd ∧ GangsAreSavedAndResumed ∧ SavesOverrun ∧ KillsAndFailures ∧ DebugHoldsTheTask

/-! ## Events of the fabric -/

/-- R74, R80, R101, R107, R261, R278 to R284, R287, R295 to R297, R337, R339, R352 to R357: the events of the fabric, of ordered accesses and
of the host's memory. -/
def Obligations.FabricEvents : Prop :=
  PacketsLeave ∧ OthersRequestsAreServed ∧ AnswersArrive ∧ RequestsAreRepeated ∧ CollectivePacketsArrive
  ∧ PortsKeepTheirSequence ∧ HeldPacketsAndHoles ∧ OrderedAccessesPerform

/-! ## Events of the platform -/

/-- R74, R77, R82 to R85, R91, R268, R284, R299 to R312, R336, R339 to R342, R346, R360, R361, R364, R368: the events of the platform: ownership,
security, bring-up, time, the host, the registers and the care of memory. -/
def Obligations.PlatformEvents : Prop :=
  OwnersAreElected ∧ OthersWritesAreRejected ∧ SecurityActs ∧ DeviceComesUp ∧ HostAccessesMemory ∧ RegistersAreWritten
  ∧ StackedStoresAreResized ∧ MemoryIsScrubbed ∧ PagesMigrate

/-! ## The whole machine -/

/-- R77, R170, R183, R216, R221, R268, R284, R301, R302, R304 to R306, R311, R312, R360: the registers that have a reset value hold it after
reset, and memory is in its canonical form (log entries 3 and 4 name what the manual leaves open). -/
def Obligations.ResetState : Prop :=
  let s := State.reset
  s.clk = 0 ∧ s.memory.wf = true
  ∧ (∀ n : Fin 64, s.sched.streams[n] = ⟨0, 4, false, false, false, 0, 0, none⟩ ∧ s.sched.fences[n] = 0) ∧ s.sched.ageint = 10000
  ∧ (s.fabric.inv = false ∧ s.fabric.gvdrop = 0 ∧ s.fabric.authf = 0 ∧ s.fabric.badpk = 0 ∧ s.fabric.grto = 50000)
  ∧ (s.fabric.devid = 0 ∧ s.fabric.devset = false)
  ∧ (s.owner.owner = 3 ∧ s.owner.elect = false ∧ s.owner.refused = false ∧ s.owner.wrej = false ∧ s.owner.hpend = false
      ∧ s.owner.hfail = false)
  ∧ (∀ n : Fin 8, s.sec.meas[n] = 0) ∧ (s.sec.alarm = false ∧ s.sec.nrange = 0)
  ∧ (s.plat.lock = false ∧ s.plat.offs = 0 ∧ s.plat.ready = 0 ∧ s.plat.pwrcap = 2600)
  ∧ (s.log.base = 0 ∧ s.log.log2 = 6 ∧ s.log.en = false ∧ s.log.lost = 0 ∧ s.log.widx = 0 ∧ s.log.ridx = 0)
  ∧ (∀ d : Fin 4, s.device.sscfg[d] = 0) ∧ (∀ n : Fin 16, s.matrix.slots[n] = 4) ∧ s.matrix.last = 3
  ∧ s.matrix.holder = none ∧ s.sched.board = [] ∧ s.memory.home = []

/-- R135, R149, R324 and log entry 1: at a turn of the sequencer a queue's halt that is due is reported, else the words at the pc decode and
the instruction runs, in the state in which time has passed and the engines have gone on, or the words are illegal and trap UNDEF, or their fetch faults and traps at the pc; before it comes what the agenda holds, and between two
turns the internal event that is due. -/
def Obligations.StepRunsTheDecodedInstruction : Prop :=
  FetchFaultsTrapAtTheirPc ∧ ∀ (s r : State), r = ready s →
    (∀ (e : Event) (rest : List Event), r.agenda = e :: rest → step s = exec e.row { r with agenda := rest, input := e.input })
    ∧ (∀ (n u : State) (w : Nat × Nat), r.agenda = [] → r.status = .running → (r.turn % 2 = 0 ∨ nextInternal r = none) →
      n = { r with turn := r.turn + 1 } → reportDue n = none → fetchWords n = .ok w u →
      (∀ i, decodeWords w.1 w.2 = .ok i → step s = exec i u ∧ i.wf = true)
      ∧ (∀ e, decodeWords w.1 w.2 = .error e → CanTrap u → ∃ t, step s = .next t
          ∧ TookTrap u t Cause.undef.code u.pc 0 (BitVec.ofNat 22 (Cause.undef.code.toNat + 0x3000)) none))
    ∧ (∀ n : State, r.agenda = [] → r.status = .running → (r.turn % 2 = 0 ∨ nextInternal r = none) →
      n = { r with turn := r.turn + 1 } → reportDue n ≠ none → step s = exec .qfaultReport n)
    ∧ (∀ e, r.agenda = [] → (r.status ≠ .running ∨ r.turn % 2 = 1) → nextInternal r = some e →
      step s = exec e.row { r with turn := r.turn + 1, input := e.input })
    ∧ (r.agenda = [] → r.status ≠ .running → nextInternal r = none → step s = .next { r with turn := r.turn + 1 })

/-- R135 to R149: words of the manual's listings, with their fields as its encoding tables give them. -/
def Obligations.WordsDecode : Prop :=
  decodeWords 0x18924006 0 = .ok (.shi 9 9 .sll 6)
  ∧ decodeWords 0x50D30000 0 = .ok (.aadd ⟨13, 12, 0, false, false, false⟩)
  ∧ decodeWords 0x54F0000C 0 = .ok (.agets 15)
  ∧ decodeWords 0x58000005 0 = .ok .exit
  ∧ decodeWords 0x98030800 0x00A00002 = .ok (.vcvt ⟨⟨false, false, false, false⟩, 3, 2, 0, 0, .f32, 0, .rne, false, false, 2⟩)
  ∧ decodeWords 0x8C010070 0x00A00004 = .ok (.vcmp ⟨⟨false, false, false, false⟩, 1, 0, 7, 0, .f32, 0, .rne, false, false, 4⟩)
  ∧ decodeWords 0xE0108000 1 = .ok (.cpy ⟨1, 2, 0, 0, 0, 1⟩)
  ∧ decodeWords 0xF4000101 0x28 = .ok (.tblrun 0 1 1 40 .l)
  ∧ decodeWords 0xFC000000 0x02000001 = .ok (.barw 1)
  ∧ decodeWords 0xFC000000 0x03000402 = .ok (.baset 0 2 2)

/-- R135 to R151: every well-formed instruction reads back from the words that the encoding tables give it. -/
def Obligations.EncodingsReadBack : Prop :=
  ∀ (i : Instr) (ws : List Nat), i.wf = true → encode i = some ws → ReadsBack i ws

/-- Every step keeps the canonical form of every memory (the model's own choice of form, log entry 4): the step's list of a byte memory
stays sorted, without a zero. -/
def Obligations.MemoriesStayCanonical : Prop :=
  ∀ (s t : State), s.MemoriesWf → step s = .next t → t.MemoriesWf

/-- The canonical form holds right after reset (log entry 4). -/
def Obligations.MemoriesCanonicalAtReset : Prop := State.reset.MemoriesWf
end

