-- ==== Sys2Proof/Laws/Memory.lean ====
section
/-! SUPPORT. The lists that hold memory: their canonical form is kept by every operation on them, and a read finds what was
written last (04). -/

namespace Sys2Proof.Machine

namespace Mem

/-- The canonical form, spelled over all cells: locations strictly rise, and no cell holds zero. -/
theorem wf_iff (m : Mem) : Mem.wf m = true ↔ m.Pairwise (fun a b => a.1 < b.1) ∧ ∀ c ∈ m, c.2 ≠ 0 := by
  induction m with
  | nil => simp [Mem.wf]
  | cons c r ih =>
    obtain ⟨k, b⟩ := c
    cases r with
    | nil => simp [Mem.wf]
    | cons d r =>
      obtain ⟨k', b'⟩ := d
      simp only [Mem.wf, decide_eq_true_eq]
      rw [ih, List.pairwise_cons (a := (k, b))]
      constructor
      · rintro ⟨hb, hk, hp, hz⟩
        refine ⟨⟨fun x hx => ?_, hp⟩, fun x hx => ?_⟩
        · rcases List.mem_cons.1 hx with rfl | hx
          · exact hk
          · exact Nat.lt_trans hk ((List.pairwise_cons.1 hp).1 x hx)
        · rcases List.mem_cons.1 hx with rfl | hx
          · exact hb
          · exact hz x hx
      · rintro ⟨⟨h1, hp⟩, hz⟩
        exact ⟨hz (k, b) (List.mem_cons_self ..), h1 (k', b') (List.mem_cons_self ..), hp,
          fun x hx => hz x (List.mem_cons_of_mem _ hx)⟩

/-- A cell of a memory after a write is the written one, or one that stood at another location. -/
theorem mem_write {m : Mem} {a : Nat} {v : Byte} {c : Host.Cell} (h : c ∈ Mem.write m a v) :
    (c = (a, v) ∧ v ≠ 0) ∨ c ∈ m := by
  induction m with
  | nil => unfold Mem.write at h; split at h <;> simp_all
  | cons d r ih =>
    obtain ⟨k, b⟩ := d
    unfold Mem.write at h
    split at h
    · split at h
      · exact .inr (List.mem_cons_of_mem _ h)
      · rcases List.mem_cons.1 h with rfl | h
        · exact .inl ⟨rfl, by assumption⟩
        · exact .inr (List.mem_cons_of_mem _ h)
    · split at h
      · split at h
        · exact .inr h
        · rcases List.mem_cons.1 h with rfl | h
          · exact .inl ⟨rfl, by assumption⟩
          · exact .inr h
      · rcases List.mem_cons.1 h with rfl | h
        · exact .inr (List.mem_cons_self ..)
        · exact (ih h).imp_right (List.mem_cons_of_mem _)

theorem wf_write {m : Mem} (h : Mem.wf m = true) (a : Nat) (v : Byte) : Mem.wf (Mem.write m a v) = true := by
  rw [wf_iff] at h ⊢
  obtain ⟨hp, hz⟩ := h
  refine ⟨?_, fun c hc => ?_⟩
  · induction m with
    | nil => unfold Mem.write; split <;> simp
    | cons d r ih =>
      obtain ⟨k, b⟩ := d
      rw [List.pairwise_cons] at hp
      have hr := ih hp.2 fun c hc => hz c (List.mem_cons_of_mem _ hc)
      unfold Mem.write
      split
      · rename_i hk; subst hk
        split
        · exact hp.2
        · exact List.pairwise_cons.2 hp
      · rename_i hk
        split
        · rename_i ha
          split
          · exact List.pairwise_cons.2 hp
          · refine List.pairwise_cons.2 ⟨fun c hc => ?_, List.pairwise_cons.2 hp⟩
            rcases List.mem_cons.1 hc with rfl | hc
            · exact ha
            · exact Nat.lt_trans ha (hp.1 c hc)
        · rename_i ha
          refine List.pairwise_cons.2 ⟨fun c hc => ?_, hr⟩
          rcases mem_write hc with ⟨rfl, _⟩ | hc
          · show k < a; omega
          · exact hp.1 c hc
  · rcases mem_write hc with ⟨rfl, hv⟩ | hc
    · exact hv
    · exact hz c hc

/-- Below every listed location a memory reads zero. -/
theorem read_below {m : Mem} {a : Nat} (h : ∀ c ∈ m, a < c.1) : Mem.read m a = 0 := by
  cases m with
  | nil => rfl
  | cons d r =>
    have := h d (List.mem_cons_self ..)
    unfold Mem.read
    rw [if_neg (by omega), if_pos this]

/-- A read after a write: the written byte, and every other location as before. -/
theorem read_write {m : Mem} (h : Mem.wf m = true) (a b : Nat) (v : Byte) :
    Mem.read (Mem.write m a v) b = if b = a then v else Mem.read m b := by
  rw [wf_iff] at h
  obtain ⟨hp, -⟩ := h
  induction m with
  | nil =>
    unfold Mem.write
    split
    · rename_i hv; simp [Mem.read, hv]
    · simp only [Mem.read]; grind
  | cons d r ih =>
    obtain ⟨k, x⟩ := d
    rw [List.pairwise_cons] at hp
    have hr := ih hp.2
    have hlow : ∀ a, a ≤ k → Mem.read r a = 0 := fun a ha =>
      read_below fun c hc => Nat.lt_of_le_of_lt ha (hp.1 c hc)
    unfold Mem.write
    split
    · rename_i hk; subst hk
      split
      · rename_i hv
        by_cases hb : b = k
        · subst hb; rw [hlow b (Nat.le_refl _)]; simp [hv]
        · rw [if_neg hb]
          show _ = if k = b then x else if b < k then 0 else Mem.read r b
          rw [if_neg fun e => hb e.symm]
          split
          · exact hlow b (by omega)
          · rfl
      · simp only [Mem.read]; grind
    · split
      · split
        · rename_i hv
          simp only [Mem.read]; grind
        · simp only [Mem.read]; grind
      · simp only [Mem.read]; grind

theorem wf_writeAll {m : Mem} (h : Mem.wf m = true) (ws : List (Nat × Byte)) : Mem.wf (Mem.writeAll m ws) = true := by
  induction ws generalizing m with
  | nil => exact h
  | cons w ws ih => exact ih (wf_write h w.1 w.2)

theorem wf_writeBytes {m : Mem} (h : Mem.wf m = true) (a : Nat) (bs : List Byte) :
    Mem.wf (Mem.writeBytes m a bs) = true := wf_writeAll h _

/-- A location that is not written reads as before. -/
theorem read_writeAll_other {m : Mem} (h : Mem.wf m = true) (ws : List (Nat × Byte)) (l : Nat)
    (hl : ∀ w ∈ ws, w.1 ≠ l) : Mem.read (Mem.writeAll m ws) l = Mem.read m l := by
  induction ws generalizing m with
  | nil => rfl
  | cons w ws ih =>
    show Mem.read (Mem.writeAll (Mem.write m w.1 w.2) ws) l = _
    rw [ih (wf_write h w.1 w.2) fun x hx => hl x (List.mem_cons_of_mem _ hx), read_write h,
      if_neg fun e => hl w (List.mem_cons_self ..) e.symm]

theorem wf_filter {m : Mem} (h : Mem.wf m = true) (p : Host.Cell → Bool) : Mem.wf (m.filter p) = true := by
  rw [wf_iff] at h ⊢
  exact ⟨h.1.filter p, fun c hc => h.2 c (List.mem_filter.1 hc).1⟩

end Mem

namespace Overlay

theorem wf_iff (m : Overlay) : Overlay.wf m = true ↔ m.Pairwise (fun a b => a.1 < b.1) := by
  induction m with
  | nil => simp [Overlay.wf]
  | cons c r ih =>
    obtain ⟨k, b⟩ := c
    cases r with
    | nil => simp [Overlay.wf]
    | cons d r =>
      obtain ⟨k', b'⟩ := d
      simp only [Overlay.wf, decide_eq_true_eq]
      rw [ih, List.pairwise_cons (a := (k, b))]
      constructor
      · rintro ⟨hk, hp⟩
        refine ⟨fun x hx => ?_, hp⟩
        rcases List.mem_cons.1 hx with rfl | hx
        · exact hk
        · exact Nat.lt_trans hk ((List.pairwise_cons.1 hp).1 x hx)
      · rintro ⟨h1, hp⟩
        exact ⟨h1 (k', b') (List.mem_cons_self ..), hp⟩

theorem mem_set {m : Overlay} {a : Nat} {v : Byte} {c : Host.Cell} (h : c ∈ Overlay.set m a v) :
    c = (a, v) ∨ c ∈ m := by
  induction m with
  | nil => unfold Overlay.set at h; simp_all
  | cons d r ih =>
    obtain ⟨k, b⟩ := d
    unfold Overlay.set at h
    split at h
    · rcases List.mem_cons.1 h with rfl | h
      · exact .inl rfl
      · exact .inr (List.mem_cons_of_mem _ h)
    · split at h
      · rcases List.mem_cons.1 h with rfl | h
        · exact .inl rfl
        · exact .inr h
      · rcases List.mem_cons.1 h with rfl | h
        · exact .inr (List.mem_cons_self ..)
        · exact (ih h).imp_right (List.mem_cons_of_mem _)

theorem wf_set {m : Overlay} (h : Overlay.wf m = true) (a : Nat) (v : Byte) : Overlay.wf (Overlay.set m a v) = true := by
  rw [wf_iff] at h ⊢
  induction m with
  | nil => simp [Overlay.set]
  | cons d r ih =>
    obtain ⟨k, b⟩ := d
    rw [List.pairwise_cons] at h
    unfold Overlay.set
    split
    · rename_i hk; subst hk; exact List.pairwise_cons.2 h
    · split
      · rename_i ha
        refine List.pairwise_cons.2 ⟨fun c hc => ?_, List.pairwise_cons.2 h⟩
        rcases List.mem_cons.1 hc with rfl | hc
        · exact ha
        · exact Nat.lt_trans ha (h.1 c hc)
      · refine List.pairwise_cons.2 ⟨fun c hc => ?_, ih h.2⟩
        rcases mem_set hc with rfl | hc
        · show k < a; omega
        · exact h.1 c hc

theorem get?_below {m : Overlay} {a : Nat} (h : ∀ c ∈ m, a < c.1) : Overlay.get? m a = none := by
  cases m with
  | nil => rfl
  | cons d r =>
    have := h d (List.mem_cons_self ..)
    unfold Overlay.get?
    rw [if_neg (by omega), if_pos this]

/-- What a partial map holds after one byte is set. -/
theorem get?_set {m : Overlay} (h : Overlay.wf m = true) (a b : Nat) (v : Byte) :
    Overlay.get? (Overlay.set m a v) b = if b = a then some v else Overlay.get? m b := by
  rw [wf_iff] at h
  induction m with
  | nil => simp only [Overlay.set, Overlay.get?]; grind
  | cons d r ih =>
    obtain ⟨k, x⟩ := d
    rw [List.pairwise_cons] at h
    have hr := ih h.2
    unfold Overlay.set
    split
    · simp only [Overlay.get?]; grind
    · split <;> (simp only [Overlay.get?]; grind)

theorem wf_setAll {m : Overlay} (h : Overlay.wf m = true) (ws : List (Nat × Byte)) :
    Overlay.wf (Overlay.setAll m ws) = true := by
  induction ws generalizing m with
  | nil => exact h
  | cons w ws ih => exact ih (wf_set h w.1 w.2)

theorem wf_filter {m : Overlay} (h : Overlay.wf m = true) (p : Host.Cell → Bool) : Overlay.wf (m.filter p) = true := by
  rw [wf_iff] at h ⊢
  exact h.filter p

theorem wf_dropRange {m : Overlay} (h : Overlay.wf m = true) (a n : Nat) : Overlay.wf (Overlay.dropRange m a n) = true :=
  wf_filter h _

end Overlay

theorem wf_packWrite (pk : Vector Word 16) (rnd : Nat → Nat) (ws : List (Nat × Byte)) {m : Mem} (h : Mem.wf m = true)
    (key : Nat × Nat) : Mem.wf (packWrite pk rnd ws m key) = true := by
  unfold packWrite
  split
  · exact h
  · exact Mem.wf_writeBytes h _ _

/-- R91, R85: installing bytes at their homes keeps the canonical form. -/
theorem wf_homeWrite (pk : Vector Word 16) (rnd : Nat → Nat) {m : Mem} (h : Mem.wf m = true) (ws : List (Nat × Byte)) :
    Mem.wf (homeWrite pk rnd m ws) = true := by
  unfold homeWrite
  have fold : ∀ (keys : List (Nat × Nat)) {m : Mem}, Mem.wf m = true →
      Mem.wf (keys.foldl (packWrite pk rnd ws) m) = true := by
    intro keys
    induction keys with
    | nil => exact fun h => h
    | cons k keys ih => exact fun h => ih (wf_packWrite pk rnd ws h k)
  exact fold _ (Mem.wf_writeAll h _)

/-! The operations of the state on memory -/

/-- The canonical form of every list of the memory, by its field. -/
structure MemoryWf (m : Memory) : Prop where
  home     : Mem.wf m.home = true
  snap     : Mem.wf m.snap = true
  scratch  : Mem.wf m.scratch = true
  roBase   : Mem.wf m.roBase = true
  past     : ∀ p ∈ m.past, Mem.wf p.2 = true
  own      : Overlay.wf m.own = true
  staging  : Overlay.wf m.staging = true
  wrote    : Overlay.wf m.wrote = true
  roOwn    : Overlay.wf m.roOwn = true
  peerSnap : Overlay.wf m.peerSnap = true
  peerImm  : Overlay.wf m.peerImm = true
  cached   : Overlay.wf m.cached = true

theorem Memory.wf_iff (m : Memory) : m.wf = true ↔ MemoryWf m := by
  simp only [Memory.wf, Bool.and_eq_true, List.all_eq_true]
  exact ⟨fun ⟨⟨⟨⟨⟨⟨⟨⟨⟨⟨⟨a, b⟩, c⟩, d⟩, e⟩, f⟩, g⟩, h⟩, i⟩, j⟩, k⟩, l⟩ => ⟨a, b, c, d, e, f, g, h, i, j, k, l⟩,
    fun h => ⟨⟨⟨⟨⟨⟨⟨⟨⟨⟨⟨h.home, h.snap⟩, h.scratch⟩, h.roBase⟩, h.past⟩, h.own⟩, h.staging⟩, h.wrote⟩, h.roOwn⟩, h.peerSnap⟩,
      h.peerImm⟩, h.cached⟩⟩

/-- Bytes of the device installed at their homes (R91, R99, R104). -/
theorem wf_install {s : State} (h : MemoryWf s.memory) (ws : List (Nat × Byte)) : MemoryWf (s.install ws).memory := by
  simp only [State.install]
  split
  · exact h
  · exact { h with
      home := wf_homeWrite _ _ h.home _
      past := fun p hp => (List.mem_cons.1 hp).elim (fun e => e ▸ h.home) (h.past p) }

/-- Requests to other devices change no byte (R282). -/
theorem memory_request (s : State) (l : Nat) (op : RemoteOp) (slot : Option Nat) (owner : ReqOwner) :
    (s.request l op slot owner).memory
      = { s.memory with reqs := (s.request l op slot owner).memory.reqs, nextReq := s.memory.nextReq + 1 } := rfl

theorem wf_request {s : State} (h : MemoryWf s.memory) (l : Nat) (op : RemoteOp) (slot : Option Nat) (owner : ReqOwner) :
    MemoryWf (s.request l op slot owner).memory := { h with }

theorem wf_foldl {α : Type} {f : State → α → State} (hf : ∀ s a, MemoryWf s.memory → MemoryWf (f s a).memory) (l : List α)
    {s : State} (h : MemoryWf s.memory) : MemoryWf (l.foldl f s).memory := by
  induction l generalizing s with
  | nil => exact h
  | cons a l ih => exact ih (hf s a h)

theorem wf_sendWrites {s : State} (h : MemoryWf s.memory) (ws : List (Nat × Byte)) (owner : ReqOwner) :
    MemoryWf (s.sendWrites ws owner).memory := by
  refine wf_foldl (fun s g h => ?_) _ h
  split <;> exact wf_request h _ _ _ _

theorem wf_sendUnits {s : State} (h : MemoryWf s.memory) (ws : List (Nat × Byte)) (owner : ReqOwner) :
    MemoryWf (s.sendUnits ws owner).memory :=
  wf_foldl (fun _ _ h => wf_request h _ _ _ _) _ h

theorem wf_setCopies {s : State} (h : MemoryWf s.memory) (ws : List (Nat × Byte)) : MemoryWf (s.setCopies ws).memory := by
  unfold State.setCopies
  split
  · exact h
  · exact { h with cached := Overlay.wf_setAll h.cached _ }

theorem wf_installHere {s : State} (h : MemoryWf s.memory) (ws : List (Nat × Byte)) : MemoryWf (s.installHere ws).memory :=
  wf_setCopies (wf_install h _) _

theorem wf_installAll {s : State} (h : MemoryWf s.memory) (ws : List (Nat × Byte)) (far : Bool) (owner : ReqOwner) :
    MemoryWf (s.installAll ws far owner).memory := wf_sendWrites (wf_installHere h ws) _ _

theorem wf_setOwn {s : State} (h : MemoryWf s.memory) (ws : List (Nat × Byte)) : MemoryWf (s.setOwn ws).memory :=
  { h with own := Overlay.wf_setAll h.own _, wrote := Overlay.wf_setAll h.wrote _ }

theorem wf_writeHome {s : State} (h : MemoryWf s.memory) (ws : List (Nat × Byte)) (owner : ReqOwner) :
    MemoryWf (s.writeHome ws owner).memory := wf_setOwn (wf_installAll h ws true owner) _

/-- An own immediate write (R101). -/
theorem wf_writeImm {s : State} (h : MemoryWf s.memory) (ws : List (Nat × Byte)) : MemoryWf (s.writeImm ws).memory :=
  wf_writeHome h ws _

/-- Publication (R60, R99). -/
theorem wf_commit {s : State} (h : MemoryWf s.memory) (sc : Scope) : MemoryWf (s.commit sc).memory :=
  { wf_installAll h s.memory.staging (State.scopeFar sc) .pub with staging := rfl }

theorem wf_commitPart {s : State} (h : MemoryWf s.memory) (sc : Scope) (locs : List Nat) :
    MemoryWf (s.commitPart sc locs).memory :=
  have h' := wf_installAll h (s.memory.staging.filter fun w => locs.contains w.1) (State.scopeFar sc) .pub
  { h' with staging := Overlay.wf_filter h'.staging _ }

theorem wf_pendingOwn {s : State} (h : MemoryWf s.memory) : Overlay.wf s.pendingOwn = true := by
  unfold State.pendingOwn
  dsimp only
  split
  · exact h.staging
  · exact Overlay.wf_setAll (Overlay.wf_filter h.staging _) _

/-- A snapshot opens (R100). -/
theorem wf_openSnap {s : State} (h : MemoryWf s.memory) (acquire : Bool) : MemoryWf (s.openSnap acquire).memory :=
  { h with snap := h.home, own := wf_pendingOwn h, peerSnap := rfl }

/-- A plain write (R60, R64). -/
theorem wf_writePlain {s : State} (h : MemoryWf s.memory) (ws : List (Nat × Byte)) : MemoryWf (s.writePlain ws).memory := by
  unfold State.writePlain
  split
  · exact wf_writeHome h ws _
  · exact { wf_setOwn h ws with staging := Overlay.wf_setAll h.staging _ }

/-- Bytes of scratchpads (R65). -/
theorem wf_putScr {s : State} (h : MemoryWf s.memory) (ws : List (Nat × Byte)) : MemoryWf (s.putScr ws).memory :=
  { h with scratch := Mem.wf_writeAll h.scratch _ }

/-- Writes of an engine at their homes (R109). -/
theorem wf_engineWrite {s : State} (h : MemoryWf s.memory) (ws : List (Nat × Byte)) (owner : ReqOwner) :
    MemoryWf (s.engineWrite ws owner).memory :=
  { wf_sendUnits (wf_installHere h ws) (State.leaving ws true) owner with }

/-- The memory of a machine after reset has the canonical form (R74). -/
theorem Memory.wf_reset : Memory.reset.wf = true := by decide

end Sys2Proof.Machine
end

