-- ==== Sys2Proof/Laws/PerInstr.lean ====
section
/-! SUPPORT. One lemma per instruction: its encoding has one word or two (R135), and the device's events have none. -/

namespace Sys2Proof.Laws.WordCount

/-- An instruction that has an encoding has one of one word or of two (R135, R149 to R151). -/
def Statement (i : Instr) : Prop :=
  match encode i with
  | none => True
  | some ws => ws.length = 1 ∨ ws.length = 2

theorem add : ∀ o, Statement (.add o) := fun _ => .inl rfl
theorem sub : ∀ o, Statement (.sub o) := fun _ => .inl rfl
theorem and : ∀ o, Statement (.and o) := fun _ => .inl rfl
theorem or : ∀ o, Statement (.or o) := fun _ => .inl rfl
theorem xor : ∀ o, Statement (.xor o) := fun _ => .inl rfl
theorem andn : ∀ o, Statement (.andn o) := fun _ => .inl rfl
theorem sll : ∀ o, Statement (.sll o) := fun _ => .inl rfl
theorem srl : ∀ o, Statement (.srl o) := fun _ => .inl rfl
theorem sra : ∀ o, Statement (.sra o) := fun _ => .inl rfl
theorem rol : ∀ o, Statement (.rol o) := fun _ => .inl rfl
theorem ror : ∀ o, Statement (.ror o) := fun _ => .inl rfl
theorem mul : ∀ o, Statement (.mul o) := fun _ => .inl rfl
theorem mulh : ∀ o, Statement (.mulh o) := fun _ => .inl rfl
theorem mulhn : ∀ o, Statement (.mulhn o) := fun _ => .inl rfl
theorem div : ∀ o, Statement (.div o) := fun _ => .inl rfl
theorem divn : ∀ o, Statement (.divn o) := fun _ => .inl rfl
theorem rem : ∀ o, Statement (.rem o) := fun _ => .inl rfl
theorem remn : ∀ o, Statement (.remn o) := fun _ => .inl rfl
theorem min : ∀ o, Statement (.min o) := fun _ => .inl rfl
theorem max : ∀ o, Statement (.max o) := fun _ => .inl rfl
theorem minn : ∀ o, Statement (.minn o) := fun _ => .inl rfl
theorem maxn : ∀ o, Statement (.maxn o) := fun _ => .inl rfl
theorem slt : ∀ o, Statement (.slt o) := fun _ => .inl rfl
theorem sltn : ∀ o, Statement (.sltn o) := fun _ => .inl rfl
theorem seq : ∀ o, Statement (.seq o) := fun _ => .inl rfl
theorem clz : ∀ o, Statement (.clz o) := fun _ => .inl rfl
theorem ctz : ∀ o, Statement (.ctz o) := fun _ => .inl rfl
theorem popc : ∀ o, Statement (.popc o) := fun _ => .inl rfl
theorem ext : ∀ o, Statement (.ext o) := fun _ => .inl rfl
theorem ins : ∀ o, Statement (.ins o) := fun _ => .inl rfl
theorem sel : ∀ o, Statement (.sel o) := fun _ => .inl rfl
theorem bswp : ∀ o, Statement (.bswp o) := fun _ => .inl rfl
theorem addi : ∀ o, Statement (.addi o) := fun _ => .inl rfl
theorem andi : ∀ o, Statement (.andi o) := fun _ => .inl rfl
theorem ori : ∀ o, Statement (.ori o) := fun _ => .inl rfl
theorem xori : ∀ o, Statement (.xori o) := fun _ => .inl rfl
theorem shi : ∀ d a kind n, Statement (.shi d a kind n) := fun _ _ _ _ => .inl rfl
theorem slti : ∀ o, Statement (.slti o) := fun _ => .inl rfl
theorem lui : ∀ d imm, Statement (.lui d imm) := fun _ _ => .inl rfl
theorem liw : ∀ d imm, Statement (.liw d imm) := fun _ _ => .inr rfl
theorem beq : ∀ o, Statement (.beq o) := fun _ => .inl rfl
theorem bne : ∀ o, Statement (.bne o) := fun _ => .inl rfl
theorem blt : ∀ o, Statement (.blt o) := fun _ => .inl rfl
theorem bge : ∀ o, Statement (.bge o) := fun _ => .inl rfl
theorem bltn : ∀ o, Statement (.bltn o) := fun _ => .inl rfl
theorem bgen : ∀ o, Statement (.bgen o) := fun _ => .inl rfl
theorem jal : ∀ off, Statement (.jal off) := fun _ => .inl rfl
theorem jalr : ∀ o, Statement (.jalr o) := fun _ => .inl rfl
theorem ld : ∀ o, Statement (.ld o) := fun _ => .inl rfl
theorem ldn : ∀ o, Statement (.ldn o) := fun _ => .inl rfl
theorem st : ∀ o, Statement (.st o) := fun _ => .inl rfl
theorem aadd : ∀ o, Statement (.aadd o) := fun _ => .inl rfl
theorem asub : ∀ o, Statement (.asub o) := fun _ => .inl rfl
theorem aand : ∀ o, Statement (.aand o) := fun _ => .inl rfl
theorem aor : ∀ o, Statement (.aor o) := fun _ => .inl rfl
theorem axor : ∀ o, Statement (.axor o) := fun _ => .inl rfl
theorem amin : ∀ o, Statement (.amin o) := fun _ => .inl rfl
theorem amax : ∀ o, Statement (.amax o) := fun _ => .inl rfl
theorem aminn : ∀ o, Statement (.aminn o) := fun _ => .inl rfl
theorem amaxn : ∀ o, Statement (.amaxn o) := fun _ => .inl rfl
theorem aswp : ∀ o, Statement (.aswp o) := fun _ => .inl rfl
theorem acas : ∀ o, Statement (.acas o) := fun _ => .inl rfl
theorem ainc : ∀ o, Statement (.ainc o) := fun _ => .inl rfl
theorem adec : ∀ o, Statement (.adec o) := fun _ => .inl rfl
theorem afadd : ∀ o, Statement (.afadd o) := fun _ => .inl rfl
theorem afmin : ∀ o, Statement (.afmin o) := fun _ => .inl rfl
theorem afmax : ∀ o, Statement (.afmax o) := fun _ => .inl rfl
theorem fence : ∀ sc, Statement (.fence sc) := fun _ => .inl rfl
theorem pub : ∀ sc, Statement (.pub sc) := fun _ => .inl rfl
theorem opn : ∀ sc, Statement (.opn sc) := fun _ => .inl rfl
theorem phase : ∀ level, Statement (.phase level) := fun _ => .inl rfl
theorem waita : ∀ d a b, Statement (.waita d a b) := fun _ _ _ => .inl rfl
theorem waitt : ∀ a, Statement (.waitt a) := fun _ => .inl rfl
theorem twany : ∀ a, Statement (.twany a) := fun _ => .inl rfl
theorem twall : ∀ a, Statement (.twall a) := fun _ => .inl rfl
theorem tffr : ∀ d a, Statement (.tffr d a) := fun _ _ => .inl rfl
theorem sqwait : ∀ q, Statement (.sqwait q) := fun _ => .inl rfl
theorem disc : ∀ a, Statement (.disc a) := fun _ => .inl rfl
theorem agets : ∀ d, Statement (.agets d) := fun _ => .inl rfl
theorem trap : ∀ code, Statement (.trap code) := fun _ => .inl rfl
theorem srd : ∀ r n, Statement (.srd r n) := fun _ _ => .inl rfl
theorem swr : ∀ r n, Statement (.swr r n) := fun _ _ => .inl rfl
theorem brk : ∀ code, Statement (.brk code) := fun _ => .inl rfl
theorem fmtpush : ∀ a, Statement (.fmtpush a) := fun _ => .inl rfl
theorem mapld : ∀ m a, Statement (.mapld m a) := fun _ _ => .inl rfl
theorem mapst : ∀ m a, Statement (.mapst m a) := fun _ _ => .inl rfl
theorem tdld : ∀ a, Statement (.tdld a) := fun _ => .inl rfl
theorem mcset : ∀ a b, Statement (.mcset a b) := fun _ _ => .inl rfl
theorem mcqui : ∀ a, Statement (.mcqui a) := fun _ => .inl rfl
theorem mslot : ∀ a b, Statement (.mslot a b) := fun _ _ => .inl rfl
theorem vld : ∀ o, Statement (.vld o) := fun _ => .inr rfl
theorem vlds : ∀ o, Statement (.vlds o) := fun _ => .inr rfl
theorem vgath : ∀ o, Statement (.vgath o) := fun _ => .inr rfl
theorem vldro : ∀ o, Statement (.vldro o) := fun _ => .inr rfl
theorem tld : ∀ o, Statement (.tld o) := fun _ => .inr rfl
theorem ldblk : ∀ o, Statement (.ldblk o) := fun _ => .inr rfl
theorem aget : ∀ o, Statement (.aget o) := fun _ => .inr rfl
theorem vadd : ∀ o, Statement (.vadd o) := fun _ => .inr rfl
theorem vsub : ∀ o, Statement (.vsub o) := fun _ => .inr rfl
theorem vmul : ∀ o, Statement (.vmul o) := fun _ => .inr rfl
theorem vmulh : ∀ o, Statement (.vmulh o) := fun _ => .inr rfl
theorem vmin : ∀ o, Statement (.vmin o) := fun _ => .inr rfl
theorem vmax : ∀ o, Statement (.vmax o) := fun _ => .inr rfl
theorem vand : ∀ o, Statement (.vand o) := fun _ => .inr rfl
theorem vor : ∀ o, Statement (.vor o) := fun _ => .inr rfl
theorem vxor : ∀ o, Statement (.vxor o) := fun _ => .inr rfl
theorem vandn : ∀ o, Statement (.vandn o) := fun _ => .inr rfl
theorem vshl : ∀ o, Statement (.vshl o) := fun _ => .inr rfl
theorem vshr : ∀ o, Statement (.vshr o) := fun _ => .inr rfl
theorem vshra : ∀ o, Statement (.vshra o) := fun _ => .inr rfl
theorem vabs : ∀ o, Statement (.vabs o) := fun _ => .inr rfl
theorem vneg : ∀ o, Statement (.vneg o) := fun _ => .inr rfl
theorem vadds : ∀ o, Statement (.vadds o) := fun _ => .inr rfl
theorem vsubs : ∀ o, Statement (.vsubs o) := fun _ => .inr rfl
theorem vavg : ∀ o, Statement (.vavg o) := fun _ => .inr rfl
theorem vclz : ∀ o, Statement (.vclz o) := fun _ => .inr rfl
theorem vpopc : ∀ o, Statement (.vpopc o) := fun _ => .inr rfl
theorem vsel : ∀ o, Statement (.vsel o) := fun _ => .inr rfl
theorem viota : ∀ o, Statement (.viota o) := fun _ => .inr rfl
theorem vfadd : ∀ o, Statement (.vfadd o) := fun _ => .inr rfl
theorem vfsub : ∀ o, Statement (.vfsub o) := fun _ => .inr rfl
theorem vfmul : ∀ o, Statement (.vfmul o) := fun _ => .inr rfl
theorem vfmin : ∀ o, Statement (.vfmin o) := fun _ => .inr rfl
theorem vfmax : ∀ o, Statement (.vfmax o) := fun _ => .inr rfl
theorem vfabs : ∀ o, Statement (.vfabs o) := fun _ => .inr rfl
theorem vfneg : ∀ o, Statement (.vfneg o) := fun _ => .inr rfl
theorem vfdiv : ∀ o, Statement (.vfdiv o) := fun _ => .inr rfl
theorem vfsqrt : ∀ o, Statement (.vfsqrt o) := fun _ => .inr rfl
theorem vfrnd : ∀ o, Statement (.vfrnd o) := fun _ => .inr rfl
theorem vfma : ∀ o, Statement (.vfma o) := fun _ => .inr rfl
theorem vfms : ∀ o, Statement (.vfms o) := fun _ => .inr rfl
theorem vfnma : ∀ o, Statement (.vfnma o) := fun _ => .inr rfl
theorem vfnms : ∀ o, Statement (.vfnms o) := fun _ => .inr rfl
theorem vcmp : ∀ o, Statement (.vcmp o) := fun _ => .inr rfl
theorem kand : ∀ o, Statement (.kand o) := fun _ => .inr rfl
theorem kor : ∀ o, Statement (.kor o) := fun _ => .inr rfl
theorem kxor : ∀ o, Statement (.kxor o) := fun _ => .inr rfl
theorem knot : ∀ o, Statement (.knot o) := fun _ => .inr rfl
theorem kpopc : ∀ o, Statement (.kpopc o) := fun _ => .inr rfl
theorem kffs : ∀ o, Statement (.kffs o) := fun _ => .inr rfl
theorem kmov : ∀ o, Statement (.kmov o) := fun _ => .inr rfl
theorem kset : ∀ o, Statement (.kset o) := fun _ => .inr rfl
theorem vperm : ∀ o, Statement (.vperm o) := fun _ => .inr rfl
theorem vshuf : ∀ o, Statement (.vshuf o) := fun _ => .inr rfl
theorem vslide : ∀ o, Statement (.vslide o) := fun _ => .inr rfl
theorem vbcast : ∀ o, Statement (.vbcast o) := fun _ => .inr rfl
theorem vzip : ∀ o, Statement (.vzip o) := fun _ => .inr rfl
theorem vunzip : ∀ o, Statement (.vunzip o) := fun _ => .inr rfl
theorem vtrn : ∀ o, Statement (.vtrn o) := fun _ => .inr rfl
theorem vcmpr : ∀ o, Statement (.vcmpr o) := fun _ => .inr rfl
theorem vexpd : ∀ o, Statement (.vexpd o) := fun _ => .inr rfl
theorem vrsum : ∀ o, Statement (.vrsum o) := fun _ => .inr rfl
theorem vrmax : ∀ o, Statement (.vrmax o) := fun _ => .inr rfl
theorem vrmin : ∀ o, Statement (.vrmin o) := fun _ => .inr rfl
theorem vrand : ∀ o, Statement (.vrand o) := fun _ => .inr rfl
theorem vror : ∀ o, Statement (.vror o) := fun _ => .inr rfl
theorem vpsum : ∀ o, Statement (.vpsum o) := fun _ => .inr rfl
theorem vcvt : ∀ o, Statement (.vcvt o) := fun _ => .inr rfl
theorem vqnt : ∀ o, Statement (.vqnt o) := fun _ => .inr rfl
theorem vdqnt : ∀ o, Statement (.vdqnt o) := fun _ => .inr rfl
theorem vcbx : ∀ o, Statement (.vcbx o) := fun _ => .inr rfl
theorem vpack : ∀ o, Statement (.vpack o) := fun _ => .inr rfl
theorem vunpk : ∀ o, Statement (.vunpk o) := fun _ => .inr rfl
theorem vsit : ∀ o, Statement (.vsit o) := fun _ => .inr rfl
theorem vsitc : ∀ o, Statement (.vsitc o) := fun _ => .inr rfl
theorem vdrain : ∀ o, Statement (.vdrain o) := fun _ => .inr rfl
theorem vsitclr : ∀ o, Statement (.vsitclr o) := fun _ => .inr rfl
theorem mldb : ∀ o, Statement (.mldb o) := fun _ => .inr rfl
theorem mma : ∀ o, Statement (.mma o) := fun _ => .inr rfl
theorem mzero : ∀ o, Statement (.mzero o) := fun _ => .inr rfl
theorem mlease : ∀ o, Statement (.mlease o) := fun _ => .inr rfl
theorem mrel : ∀ o, Statement (.mrel o) := fun _ => .inr rfl
theorem gemvh : ∀ o, Statement (.gemvh o) := fun _ => .inr rfl
theorem rlopen : ∀ o, Statement (.rlopen o) := fun _ => .inr rfl
theorem rlrec : ∀ o, Statement (.rlrec o) := fun _ => .inr rfl
theorem rlbr : ∀ o, Statement (.rlbr o) := fun _ => .inr rfl
theorem rlmark : ∀ o, Statement (.rlmark o) := fun _ => .inr rfl
theorem rlseal : ∀ o, Statement (.rlseal o) := fun _ => .inr rfl
theorem rlrev : ∀ o, Statement (.rlrev o) := fun _ => .inr rfl
theorem rlpop : ∀ o, Statement (.rlpop o) := fun _ => .inr rfl
theorem rlbrp : ∀ o, Statement (.rlbrp o) := fun _ => .inr rfl
theorem rlchk : ∀ o, Statement (.rlchk o) := fun _ => .inr rfl
theorem rlstat : ∀ o, Statement (.rlstat o) := fun _ => .inr rfl
theorem rlclose : ∀ o, Statement (.rlclose o) := fun _ => .inr rfl
theorem vmov : ∀ o, Statement (.vmov o) := fun _ => .inr rfl
theorem vins : ∀ o, Statement (.vins o) := fun _ => .inr rfl
theorem vext : ∀ o, Statement (.vext o) := fun _ => .inr rfl
theorem vli : ∀ o, Statement (.vli o) := fun _ => .inr rfl
theorem vexp2 : ∀ o, Statement (.vexp2 o) := fun _ => .inr rfl
theorem vlog2 : ∀ o, Statement (.vlog2 o) := fun _ => .inr rfl
theorem vrcp : ∀ o, Statement (.vrcp o) := fun _ => .inr rfl
theorem vrsq : ∀ o, Statement (.vrsq o) := fun _ => .inr rfl
theorem vst : ∀ o, Statement (.vst o) := fun _ => .inr rfl
theorem vsts : ∀ o, Statement (.vsts o) := fun _ => .inr rfl
theorem vscat : ∀ o, Statement (.vscat o) := fun _ => .inr rfl
theorem tst : ∀ o, Statement (.tst o) := fun _ => .inr rfl
theorem tacc : ∀ o, Statement (.tacc o) := fun _ => .inr rfl
theorem vrdm : ∀ o, Statement (.vrdm o) := fun _ => .inr rfl
theorem vatom : ∀ o, Statement (.vatom o) := fun _ => .inr rfl
theorem cpy : ∀ o, Statement (.cpy o) := fun _ => .inr rfl
theorem fload : ∀ o, Statement (.fload o) := fun _ => .inr rfl
theorem fst : ∀ o, Statement (.fst o) := fun _ => .inr rfl
theorem crun : ∀ o, Statement (.crun o) := fun _ => .inr rfl
theorem gjoin : ∀ o, Statement (.gjoin o) := fun _ => .inr rfl
theorem gleave : ∀ o, Statement (.gleave o) := fun _ => .inr rfl
theorem gprop : ∀ o, Statement (.gprop o) := fun _ => .inr rfl
theorem gver : ∀ o, Statement (.gver o) := fun _ => .inr rfl
theorem rshd : ∀ o, Statement (.rshd o) := fun _ => .inr rfl
theorem rshq : ∀ o, Statement (.rshq o) := fun _ => .inr rfl
theorem hseq : ∀ o, Statement (.hseq o) := fun _ => .inr rfl
theorem tblrun : ∀ a len cnt off q, Statement (.tblrun a len cnt off q) := fun _ _ _ _ _ => .inr rfl
theorem tblstop : ∀ q, Statement (.tblstop q) := fun _ => .inr rfl
theorem tblbase : ∀ a n q, Statement (.tblbase a n q) := fun _ _ _ => .inr rfl
theorem evcfg : ∀ a t, Statement (.evcfg a t) := fun _ _ => .inr rfl
theorem evarm : ∀ t, Statement (.evarm t) := fun _ => .inr rfl
theorem evoff : ∀ t, Statement (.evoff t) := fun _ => .inr rfl
theorem barv : ∀ n, Statement (.barv n) := fun _ => .inr rfl
theorem bawt : ∀ n, Statement (.bawt n) := fun _ => .inr rfl
theorem barw : ∀ n, Statement (.barw n) := fun _ => .inr rfl
theorem baset : ∀ a target n, Statement (.baset a target n) := fun _ _ _ => .inr rfl
theorem bagrp : ∀ a n, Statement (.bagrp a n) := fun _ _ => .inr rfl
theorem batst : ∀ a n, Statement (.batst a n) := fun _ _ => .inr rfl
theorem send : ∀ sa len, Statement (.send sa len) := fun _ _ => .inl rfl
theorem recv : ∀ sb len, Statement (.recv sb len) := fun _ _ => .inl rfl
theorem rrs : ∀ sa sb rop ty len, Statement (.rrs sa sb rop ty len) := fun _ _ _ _ _ => .inl rfl
theorem rred : ∀ sa sb rop ty len, Statement (.rred sa sb rop ty len) := fun _ _ _ _ _ => .inl rfl
theorem copy : ∀ sa sb len, Statement (.copy sa sb len) := fun _ _ _ => .inl rfl
theorem loop : ∀ n cnt, Statement (.loop n cnt) := fun _ _ => .inl rfl
theorem endl : ∀ n, Statement (.endl n) := fun _ => .inl rfl
theorem peer : ∀ mode ksrc n imm, Statement (.peer mode ksrc n imm) := fun _ _ _ _ => .inl rfl
theorem sig : ∀ bar, Statement (.sig bar) := fun _ => .inl rfl
theorem offs : ∀ slot n stride, Statement (.offs slot n stride) := fun _ _ _ => .inl rfl
theorem hcpy : ∀ tpl tag oe reg, Statement (.hcpy tpl tag oe reg) := fun _ _ _ _ => .inl rfl
theorem hwtag : ∀ tag, Statement (.hwtag tag) := fun _ => .inl rfl
theorem hadd : ∀ reg inc, Statement (.hadd reg inc) := fun _ _ => .inl rfl
theorem hloop : ∀ back cnt, Statement (.hloop back cnt) := fun _ _ => .inl rfl
theorem hflag : ∀ off val, Statement (.hflag off val) := fun _ _ => .inl rfl
theorem roinv : Statement .roinv := .inl rfl
theorem eret : Statement .eret := .inl rfl
theorem exit : Statement .exit := .inl rfl
theorem tail : Statement .tail := .inl rfl
theorem fqui : Statement .fqui := .inr rfl
theorem ginv : Statement .ginv := .inr rfl
theorem hstop : Statement .hstop := .inr rfl
theorem wait : Statement .wait := .inl rfl
theorem halt : Statement .halt := .inl rfl
theorem hend : Statement .hend := .inl rfl
theorem tokenPop : Statement .tokenPop := trivial
theorem entryFinish : Statement .entryFinish := trivial
theorem microOrderStart : Statement .microOrderStart := trivial
theorem returnValueArrive : Statement .returnValueArrive := trivial
theorem tokstarve : Statement .tokstarve := trivial
theorem qfltSkip : Statement .qfltSkip := trivial
theorem qfltFlush : Statement .qfltFlush := trivial
theorem waitaWake : Statement .waitaWake := trivial
theorem blockFillEnd : Statement .blockFillEnd := trivial
theorem cellFire : Statement .cellFire := trivial
theorem callerTermFire : Statement .callerTermFire := trivial
theorem callerActionStart : Statement .callerActionStart := trivial
theorem streamDoorbell : Statement .streamDoorbell := trivial
theorem nopRecord : Statement .nopRecord := trivial
theorem launchRecord : Statement .launchRecord := trivial
theorem xferRecord : Statement .xferRecord := trivial
theorem fsigRecord : Statement .fsigRecord := trivial
theorem invalRecord : Statement .invalRecord := trivial
theorem xferDone : Statement .xferDone := trivial
theorem invalDone : Statement .invalDone := trivial
theorem launchIssue : Statement .launchIssue := trivial
theorem gangPlace : Statement .gangPlace := trivial
theorem taskStart : Statement .taskStart := trivial
theorem launchAgeing : Statement .launchAgeing := trivial
theorem launchComplete : Statement .launchComplete := trivial
theorem taskRetire : Statement .taskRetire := trivial
theorem tailTrackerDrain : Statement .tailTrackerDrain := trivial
theorem preemptRequest : Statement .preemptRequest := trivial
theorem coreHalt : Statement .coreHalt := trivial
theorem contextSave : Statement .contextSave := trivial
theorem gangRequeue : Statement .gangRequeue := trivial
theorem gangResume : Statement .gangResume := trivial
theorem saveOverrun25us : Statement .saveOverrun25us := trivial
theorem saveOverrun1ms : Statement .saveOverrun1ms := trivial
theorem launchKill : Statement .launchKill := trivial
theorem coreFail : Statement .coreFail := trivial
theorem qfaultReport : Statement .qfaultReport := trivial
theorem watchdog : Statement .watchdog := trivial
theorem waittExpire : Statement .waittExpire := trivial
theorem pageMigration : Statement .pageMigration := trivial
theorem sscfgWrite : Statement .sscfgWrite := trivial
theorem sscfgResize : Statement .sscfgResize := trivial
theorem leaseGrant : Statement .leaseGrant := trivial
theorem slotBoundary : Statement .slotBoundary := trivial
theorem copyStart : Statement .copyStart := trivial
theorem copyComplete : Statement .copyComplete := trivial
theorem graphLoad : Statement .graphLoad := trivial
theorem streamStart : Statement .streamStart := trivial
theorem streamEnd : Statement .streamEnd := trivial
theorem streamWatchdog : Statement .streamWatchdog := trivial
theorem abortNotice : Statement .abortNotice := trivial
theorem collectiveTimeout : Statement .collectiveTimeout := trivial
theorem reshardPieceLand : Statement .reshardPieceLand := trivial
theorem reshardReplace : Statement .reshardReplace := trivial
theorem reshardFail : Statement .reshardFail := trivial
theorem propose : Statement .propose := trivial
theorem refuse : Statement .refuse := trivial
theorem signature : Statement .signature := trivial
theorem adopt : Statement .adopt := trivial
theorem abort : Statement .abort := trivial
theorem roundTimeout : Statement .roundTimeout := trivial
theorem grrel : Statement .grrel := trivial
theorem revocationNotice : Statement .revocationNotice := trivial
theorem flitReceive : Statement .flitReceive := trivial
theorem nak : Statement .nak := trivial
theorem fackStallTimeout : Statement .fackStallTimeout := trivial
theorem portRetrain : Statement .portRetrain := trivial
theorem remoteRead : Statement .remoteRead := trivial
theorem readResponse : Statement .readResponse := trivial
theorem remoteWrite : Statement .remoteWrite := trivial
theorem remoteAtomic : Statement .remoteAtomic := trivial
theorem atomicResponse : Statement .atomicResponse := trivial
theorem acknowledgement : Statement .acknowledgement := trivial
theorem collectiveData : Statement .collectiveData := trivial
theorem collectiveControl : Statement .collectiveControl := trivial
theorem groupRound : Statement .groupRound := trivial
theorem requestResend : Statement .requestResend := trivial
theorem requestGiveUp : Statement .requestGiveUp := trivial
theorem dedupHoleTimeout : Statement .dedupHoleTimeout := trivial
theorem packetHoldDiscard : Statement .packetHoldDiscard := trivial
theorem endMarker : Statement .endMarker := trivial
theorem sequencedPerform : Statement .sequencedPerform := trivial
theorem batchedPerform : Statement .batchedPerform := trivial
theorem ownclaim : Statement .ownclaim := trivial
theorem electionClose : Statement .electionClose := trivial
theorem handover : Statement .handover := trivial
theorem handoverTimeout : Statement .handoverTimeout := trivial
theorem devidWrite : Statement .devidWrite := trivial
theorem attestationRequest : Statement .attestationRequest := trivial
theorem securityAlarm : Statement .securityAlarm := trivial
theorem thermalLimit : Statement .thermalLimit := trivial
theorem bootStage : Statement .bootStage := trivial
theorem functionReady : Statement .functionReady := trivial
theorem functionTimeout : Statement .functionTimeout := trivial
theorem deviceReset : Statement .deviceReset := trivial
theorem timeSync : Statement .timeSync := trivial
theorem hostRead : Statement .hostRead := trivial
theorem hostWrite : Statement .hostWrite := trivial
theorem patrolScrub : Statement .patrolScrub := trivial
theorem rowRepair : Statement .rowRepair := trivial
theorem registerWrite : Statement .registerWrite := trivial
theorem debugStop : Statement .debugStop := trivial
theorem debugResume : Statement .debugResume := trivial
theorem roundDecisionResend : Statement .roundDecisionResend := trivial
theorem cxlMemResponse : Statement .cxlMemResponse := trivial

end Sys2Proof.Laws.WordCount
end

