-- ==== Sys2Proof/Laws/State.lean ====
section
/-! SUPPORT. What the plain updates of the state leave in each field: true by unfolding, and the only place where these record
updates are unfolded. -/

namespace Sys2Proof.Machine

variable (s : State)

/-! `advance` -/

@[simp] theorem State.advance_agenda (n : Nat) : (s.advance n).agenda = s.agenda := rfl
@[simp] theorem State.advance_input (n : Nat) : (s.advance n).input = s.input := rfl
@[simp] theorem State.advance_lag (n : Nat) : (s.advance n).lag = s.lag := rfl
@[simp] theorem State.advance_eager (n : Nat) : (s.advance n).eager = s.eager := rfl
@[simp] theorem State.advance_mates (n : Nat) : (s.advance n).mates = s.mates := rfl
@[simp] theorem State.advance_turn (n : Nat) : (s.advance n).turn = s.turn := rfl
@[simp] theorem State.advance_free (n : Nat) : (s.advance n).free = s.free := rfl
@[simp] theorem State.advance_clk (n : Nat) : (s.advance n).clk = s.clk := rfl
@[simp] theorem State.advance_core (n : Nat) : (s.advance n).core = s.core := rfl
@[simp] theorem State.advance_status (n : Nat) : (s.advance n).status = s.status := rfl
@[simp] theorem State.advance_pc (n : Nat) : (s.advance n).pc = s.pc + BitVec.ofNat 64 (4 * n) := rfl
@[simp] theorem State.advance_regs (n : Nat) : (s.advance n).regs = s.regs := rfl
@[simp] theorem State.advance_trap (n : Nat) : (s.advance n).trap = s.trap := rfl
@[simp] theorem State.advance_vregs (n : Nat) : (s.advance n).vregs = s.vregs := rfl
@[simp] theorem State.advance_kregs (n : Nat) : (s.advance n).kregs = s.kregs := rfl
@[simp] theorem State.advance_mregs (n : Nat) : (s.advance n).mregs = s.mregs := rfl
@[simp] theorem State.advance_rebase (n : Nat) : (s.advance n).rebase = s.rebase := rfl
@[simp] theorem State.advance_fpstat (n : Nat) : (s.advance n).fpstat = s.fpstat := rfl
@[simp] theorem State.advance_fpPend (n : Nat) : (s.advance n).fpPend = s.fpPend := rfl
@[simp] theorem State.advance_isn (n : Nat) : (s.advance n).isn = s.isn + 1 := rfl
@[simp] theorem State.advance_wait (n : Nat) : (s.advance n).wait = none := rfl
@[simp] theorem State.advance_waitClk (n : Nat) : (s.advance n).waitClk = 0 := rfl
@[simp] theorem State.advance_waitKind (n : Nat) : (s.advance n).waitKind = s.waitKind := rfl
@[simp] theorem State.advance_seen (n : Nat) : (s.advance n).seen = s.seen := rfl
@[simp] theorem State.advance_launch (n : Nat) : (s.advance n).launch = s.launch := rfl
@[simp] theorem State.advance_queues (n : Nat) : (s.advance n).queues = s.queues := rfl
@[simp] theorem State.advance_ret (n : Nat) : (s.advance n).ret = s.ret := rfl
@[simp] theorem State.advance_nextRet (n : Nat) : (s.advance n).nextRet = s.nextRet := rfl
@[simp] theorem State.advance_fmt (n : Nat) : (s.advance n).fmt = s.fmt := rfl
@[simp] theorem State.advance_nextFmt (n : Nat) : (s.advance n).nextFmt = s.nextFmt := rfl
@[simp] theorem State.advance_sitout (n : Nat) : (s.advance n).sitout = s.sitout := rfl
@[simp] theorem State.advance_tags (n : Nat) : (s.advance n).tags = s.tags := rfl
@[simp] theorem State.advance_bars (n : Nat) : (s.advance n).bars = s.bars := rfl
@[simp] theorem State.advance_domArr (n : Nat) : (s.advance n).domArr = s.domArr := rfl
@[simp] theorem State.advance_memory (n : Nat) : (s.advance n).memory = s.memory := rfl
@[simp] theorem State.advance_device (n : Nat) : (s.advance n).device = s.device := rfl
@[simp] theorem State.advance_ordered (n : Nat) : (s.advance n).ordered = s.ordered := rfl
@[simp] theorem State.advance_revocable (n : Nat) : (s.advance n).revocable = s.revocable := rfl
@[simp] theorem State.advance_phased (n : Nat) : (s.advance n).phased = s.phased := rfl
@[simp] theorem State.advance_ckpt (n : Nat) : (s.advance n).ckpt = s.ckpt := rfl
@[simp] theorem State.advance_wake (n : Nat) : (s.advance n).wake = s.wake := rfl
@[simp] theorem State.advance_breakOn (n : Nat) : (s.advance n).breakOn = s.breakOn := rfl
@[simp] theorem State.advance_killed (n : Nat) : (s.advance n).killed = s.killed := rfl
@[simp] theorem State.advance_matrix (n : Nat) : (s.advance n).matrix = s.matrix := rfl
@[simp] theorem State.advance_reel (n : Nat) : (s.advance n).reel = s.reel := rfl
@[simp] theorem State.advance_channel (n : Nat) : (s.advance n).channel = s.channel := rfl
@[simp] theorem State.advance_grid (n : Nat) : (s.advance n).grid = s.grid := rfl
@[simp] theorem State.advance_helper (n : Nat) : (s.advance n).helper = s.helper := rfl
@[simp] theorem State.advance_caller (n : Nat) : (s.advance n).caller = s.caller := rfl
@[simp] theorem State.advance_coll (n : Nat) : (s.advance n).coll = s.coll := rfl
@[simp] theorem State.advance_group (n : Nat) : (s.advance n).group = s.group := rfl
@[simp] theorem State.advance_reshards (n : Nat) : (s.advance n).reshards = s.reshards := rfl
@[simp] theorem State.advance_sched (n : Nat) : (s.advance n).sched = s.sched := rfl
@[simp] theorem State.advance_saved (n : Nat) : (s.advance n).saved = s.saved := rfl
@[simp] theorem State.advance_fabric (n : Nat) : (s.advance n).fabric = s.fabric := rfl
@[simp] theorem State.advance_owner (n : Nat) : (s.advance n).owner = s.owner := rfl
@[simp] theorem State.advance_sec (n : Nat) : (s.advance n).sec = s.sec := rfl
@[simp] theorem State.advance_log (n : Nat) : (s.advance n).log = s.log := rfl
@[simp] theorem State.advance_plat (n : Nat) : (s.advance n).plat = s.plat := rfl

/-! `jump` -/

@[simp] theorem State.jump_agenda (p : Word) : (s.jump p).agenda = s.agenda := rfl
@[simp] theorem State.jump_input (p : Word) : (s.jump p).input = s.input := rfl
@[simp] theorem State.jump_lag (p : Word) : (s.jump p).lag = s.lag := rfl
@[simp] theorem State.jump_eager (p : Word) : (s.jump p).eager = s.eager := rfl
@[simp] theorem State.jump_mates (p : Word) : (s.jump p).mates = s.mates := rfl
@[simp] theorem State.jump_turn (p : Word) : (s.jump p).turn = s.turn := rfl
@[simp] theorem State.jump_free (p : Word) : (s.jump p).free = s.free := rfl
@[simp] theorem State.jump_clk (p : Word) : (s.jump p).clk = s.clk := rfl
@[simp] theorem State.jump_core (p : Word) : (s.jump p).core = s.core := rfl
@[simp] theorem State.jump_status (p : Word) : (s.jump p).status = s.status := rfl
@[simp] theorem State.jump_pc (p : Word) : (s.jump p).pc = p := rfl
@[simp] theorem State.jump_regs (p : Word) : (s.jump p).regs = s.regs := rfl
@[simp] theorem State.jump_trap (p : Word) : (s.jump p).trap = s.trap := rfl
@[simp] theorem State.jump_vregs (p : Word) : (s.jump p).vregs = s.vregs := rfl
@[simp] theorem State.jump_kregs (p : Word) : (s.jump p).kregs = s.kregs := rfl
@[simp] theorem State.jump_mregs (p : Word) : (s.jump p).mregs = s.mregs := rfl
@[simp] theorem State.jump_rebase (p : Word) : (s.jump p).rebase = s.rebase := rfl
@[simp] theorem State.jump_fpstat (p : Word) : (s.jump p).fpstat = s.fpstat := rfl
@[simp] theorem State.jump_fpPend (p : Word) : (s.jump p).fpPend = s.fpPend := rfl
@[simp] theorem State.jump_isn (p : Word) : (s.jump p).isn = s.isn + 1 := rfl
@[simp] theorem State.jump_wait (p : Word) : (s.jump p).wait = none := rfl
@[simp] theorem State.jump_waitClk (p : Word) : (s.jump p).waitClk = 0 := rfl
@[simp] theorem State.jump_waitKind (p : Word) : (s.jump p).waitKind = s.waitKind := rfl
@[simp] theorem State.jump_seen (p : Word) : (s.jump p).seen = s.seen := rfl
@[simp] theorem State.jump_launch (p : Word) : (s.jump p).launch = s.launch := rfl
@[simp] theorem State.jump_queues (p : Word) : (s.jump p).queues = s.queues := rfl
@[simp] theorem State.jump_ret (p : Word) : (s.jump p).ret = s.ret := rfl
@[simp] theorem State.jump_nextRet (p : Word) : (s.jump p).nextRet = s.nextRet := rfl
@[simp] theorem State.jump_fmt (p : Word) : (s.jump p).fmt = s.fmt := rfl
@[simp] theorem State.jump_nextFmt (p : Word) : (s.jump p).nextFmt = s.nextFmt := rfl
@[simp] theorem State.jump_sitout (p : Word) : (s.jump p).sitout = s.sitout := rfl
@[simp] theorem State.jump_tags (p : Word) : (s.jump p).tags = s.tags := rfl
@[simp] theorem State.jump_bars (p : Word) : (s.jump p).bars = s.bars := rfl
@[simp] theorem State.jump_domArr (p : Word) : (s.jump p).domArr = s.domArr := rfl
@[simp] theorem State.jump_memory (p : Word) : (s.jump p).memory = s.memory := rfl
@[simp] theorem State.jump_device (p : Word) : (s.jump p).device = s.device := rfl
@[simp] theorem State.jump_ordered (p : Word) : (s.jump p).ordered = s.ordered := rfl
@[simp] theorem State.jump_revocable (p : Word) : (s.jump p).revocable = s.revocable := rfl
@[simp] theorem State.jump_phased (p : Word) : (s.jump p).phased = s.phased := rfl
@[simp] theorem State.jump_ckpt (p : Word) : (s.jump p).ckpt = s.ckpt := rfl
@[simp] theorem State.jump_wake (p : Word) : (s.jump p).wake = s.wake := rfl
@[simp] theorem State.jump_breakOn (p : Word) : (s.jump p).breakOn = s.breakOn := rfl
@[simp] theorem State.jump_killed (p : Word) : (s.jump p).killed = s.killed := rfl
@[simp] theorem State.jump_matrix (p : Word) : (s.jump p).matrix = s.matrix := rfl
@[simp] theorem State.jump_reel (p : Word) : (s.jump p).reel = s.reel := rfl
@[simp] theorem State.jump_channel (p : Word) : (s.jump p).channel = s.channel := rfl
@[simp] theorem State.jump_grid (p : Word) : (s.jump p).grid = s.grid := rfl
@[simp] theorem State.jump_helper (p : Word) : (s.jump p).helper = s.helper := rfl
@[simp] theorem State.jump_caller (p : Word) : (s.jump p).caller = s.caller := rfl
@[simp] theorem State.jump_coll (p : Word) : (s.jump p).coll = s.coll := rfl
@[simp] theorem State.jump_group (p : Word) : (s.jump p).group = s.group := rfl
@[simp] theorem State.jump_reshards (p : Word) : (s.jump p).reshards = s.reshards := rfl
@[simp] theorem State.jump_sched (p : Word) : (s.jump p).sched = s.sched := rfl
@[simp] theorem State.jump_saved (p : Word) : (s.jump p).saved = s.saved := rfl
@[simp] theorem State.jump_fabric (p : Word) : (s.jump p).fabric = s.fabric := rfl
@[simp] theorem State.jump_owner (p : Word) : (s.jump p).owner = s.owner := rfl
@[simp] theorem State.jump_sec (p : Word) : (s.jump p).sec = s.sec := rfl
@[simp] theorem State.jump_log (p : Word) : (s.jump p).log = s.log := rfl
@[simp] theorem State.jump_plat (p : Word) : (s.jump p).plat = s.plat := rfl

end Sys2Proof.Machine
end

