-- ==== Sys2Proof/Laws/Registers.lean ====
section
/-! SUPPORT. Reading and writing scalar registers (R153, R174): what a write leaves in every register, and the frame of the
operations that complete an instruction. -/

namespace Sys2Proof.Machine

/-- A write within a vector is read back; another entry is as before. -/
theorem getD_setIfInBounds {α : Type} {n : Nat} (v : Vector α n) (i j : Nat) (x d : α) :
    (v.setIfInBounds i x).getD j d = if i = j ∧ j < n then x else v.getD j d := by
  simp only [Vector.getD, Vector.setIfInBounds, Array.getD_eq_getD_getElem?, Array.getElem?_setIfInBounds]
  by_cases h : i = j
  · by_cases h2 : j < n
    · simp [h, h2]
    · simp [h, h2]
  · simp [h]

@[simp] theorem State.getReg_zero (s : State) : s.getReg 0 = 0 := rfl

/-- R153, R174: a written register reads as written, s0 aside, and every other register as before. -/
theorem State.getReg_setReg (s : State) (r q : Reg) (v : Word) :
    (s.setReg r v).getReg q = if q = r ∧ q ≠ 0 then v else s.getReg q := by
  unfold State.setReg State.getReg
  have hb := s.trap.tl.isLt
  by_cases hr0 : r = 0
  · subst hr0; simp only [if_true]; by_cases hq : q = 0 <;> simp [hq]
  by_cases hq0 : q = 0
  · simp [hq0]
  simp only [hr0, hq0, if_false, ne_eq, not_false_iff, and_true]
  have inj : q.toNat = r.toNat → q = r := BitVec.eq_of_toNat_eq
  by_cases hrb : 56 ≤ r.toNat ∧ r.toNat < 60
  · by_cases hqb : 56 ≤ q.toNat ∧ q.toNat < 60
    · simp only [hrb, hqb, and_self, if_true, State.bankIx, getD_setIfInBounds]
      by_cases h : q = r
      · subst h; simp only [if_true]; rw [if_pos]; exact ⟨trivial, by omega⟩
      · have hn : q.toNat ≠ r.toNat := fun e => h (inj e)
        simp only [h, if_false]; rw [if_neg]; omega
    · have : q ≠ r := by rintro rfl; exact hqb hrb
      simp [hrb, hqb, this]
  · by_cases hqb : 56 ≤ q.toNat ∧ q.toNat < 60
    · have : q ≠ r := by rintro rfl; exact hrb hqb
      simp [hrb, hqb, this, State.bankIx]
    · simp only [hrb, hqb, if_false, Vector.getElem_set]
      by_cases h : q = r
      · subst h; simp
      · simp only [h, if_false]; rw [if_neg]; exact fun e => h (inj e.symm)

/-- A write of a scalar register touches the register file or the current bank alone. -/
theorem State.setReg_frame (s : State) (r : Reg) (v : Word) :
    s.setReg r v = { s with
      regs := (s.setReg r v).regs, trap := { s.trap with banks := (s.setReg r v).trap.banks } } := by
  unfold State.setReg; split
  · rfl
  · split <;> rfl

/-- The banks of the other trap levels keep their values. -/
theorem State.setReg_banks (s : State) (r : Reg) (v : Word) (j : Nat) (h : j / 4 ≠ s.trap.tl.val) :
    (s.setReg r v).trap.banks[j]? = s.trap.banks[j]? := by
  unfold State.setReg; split
  · rfl
  · split
    · rename_i h0 hb
      simp only [State.bankIx, Vector.getElem?_setIfInBounds]
      rw [if_neg]; omega
    · rfl

@[simp] theorem State.getReg_advance (s : State) (n : Nat) (r : Reg) : (s.advance n).getReg r = s.getReg r := rfl

@[simp] theorem State.getReg_jump (s : State) (p : Word) (r : Reg) : (s.jump p).getReg r = s.getReg r := rfl

@[simp] theorem State.setReg_trap_tl (s : State) (r : Reg) (v : Word) : (s.setReg r v).trap.tl = s.trap.tl := by
  rw [State.setReg_frame]

@[simp] theorem State.setReg_pc (s : State) (r : Reg) (v : Word) : (s.setReg r v).pc = s.pc := by rw [State.setReg_frame]

/-- A register written and the next word: the whole result of a scalar instruction. -/
theorem scalarResult_advance (s : State) (d : Reg) (v : Word) (n : Nat) :
    ScalarResult s ((s.setReg d v).advance n) d v (s.pc + BitVec.ofNat 64 (4 * n)) := by
  refine ⟨fun r => ?_, ?_, ?_, fun j hj => State.setReg_banks s d v j hj⟩
  · rw [State.getReg_advance, State.getReg_setReg]
  · simp
  · unfold State.setReg
    split
    · rfl
    · split <;> rfl

/-- A register written and a jump. -/
theorem scalarResult_jump (s : State) (d : Reg) (v p : Word) : ScalarResult s ((s.setReg d v).jump p) d v p := by
  refine ⟨fun r => ?_, rfl, ?_, fun j hj => State.setReg_banks s d v j hj⟩
  · rw [State.getReg_jump, State.getReg_setReg]
  · unfold State.setReg
    split
    · rfl
    · split <;> rfl

/-- The next word and nothing else. -/
theorem noResult_advance (s : State) (n : Nat) : NoResult s (s.advance n) (s.pc + BitVec.ofNat 64 (4 * n)) :=
  ⟨fun _ => rfl, rfl, rfl, fun _ _ => rfl⟩

/-- A jump and nothing else. -/
theorem noResult_jump (s : State) (p : Word) : NoResult s (s.jump p) p := ⟨fun _ => rfl, rfl, rfl, fun _ _ => rfl⟩

end Sys2Proof.Machine
end

