-- ==== Sys2Proof/Laws/Traps.lean ====
section
/-! SUPPORT. What taking a trap leaves (R174, R321 to R323). -/

namespace Sys2Proof.Machine

/-- R174: a trap that does not kill the context enters the next level. -/
theorem took_takeTrap {s : State} (h : CanTrap s) (cause : Byte) (pc va : Word) (sts : BitVec 22) (mark : Option Wait) :
    TookTrap s (s.takeTrap cause pc va sts mark) cause pc va sts mark := by
  obtain ⟨hl, hv⟩ := h
  have h2 : s.trap.tl ≠ 2 := by intro e; rw [e] at hl; exact absurd hl (by decide)
  unfold State.takeTrap
  rw [if_neg (fun e => e.elim h2 hv)]
  by_cases h0 : s.trap.tl = 0
  · simp only [TookTrap, h0, if_true]
    exact ⟨rfl, rfl, ⟨rfl, rfl⟩, rfl⟩
  · have h1 : s.trap.tl = 1 := by
      have := s.trap.tl.isLt
      apply Fin.ext; have : s.trap.tl.val ≠ 0 := fun e => h0 (Fin.ext e)
      show s.trap.tl.val = 1; omega
    simp only [TookTrap, h1]
    exact ⟨rfl, rfl, ⟨rfl, rfl⟩, rfl⟩

/-- A precise trap of the sequencer, but for a consumed memory error, which makes a record first. -/
theorem took_trapAt {s : State} (h : CanTrap s) (t : Trap) (m : Option Wait) (hc : t.cause ≠ .eccunc) :
    TookTrap s (s.trapAt t m) t.cause.code s.pc t.va (stsOf t 3 0) m := by
  unfold State.trapAt State.consumedRecord
  rw [if_neg hc]
  exact took_takeTrap h _ _ _ _ _

/-- TSTS of a precise trap (R183, R322). -/
theorem stsOf_precise (t : Trap) (h : t.detail < 16) :
    stsOf t 3 0 = BitVec.ofNat 22 (t.cause.code.toNat + 0x100 * t.detail + 0x3000) := by
  unfold stsOf; congr 1; rw [Nat.mod_eq_of_lt h]; omega

/-- The trap that a meaning answers with. -/
theorem traps_of {i : Instr} {s : State} {c : Cause} {d : Nat} {va : Word} (h : CanTrap s) (hc : c ≠ .eccunc)
    (hd : d < 16) (he : exec i s = trapNow s ⟨c, d, va⟩) : Traps i s c d va :=
  ⟨_, he, stsOf_precise ⟨c, d, va⟩ hd ▸ took_trapAt h ⟨c, d, va⟩ none hc⟩

end Sys2Proof.Machine
end

