-- ==== Sys2Proof/Tests/Slice0.lean ====
section
/-! SUPPORT. The model's own tests: words of the manual, ill-formed terms, one step on small states, and for every statement with
hypotheses a state and operands that meet them together. -/

namespace Sys2Proof.Tests
open Machine

set_option Elab.async false

/-! ## A small state -/

/-- A kernel that declares every register but s55, every barrier and tag, and a whole scratchpad. -/
def wideHeader : Header :=
  { Header.reset with
    ns := 55, nv := 64, nk := 16, nm := 16, scratch := 2 ^ 20, nbar := 512, ntag := 64, ndom := 4, lease := 3 }

/-- One running task of that kernel, alone in its launch, with the page at 0 mapped onto itself, every
stack ready, and a handler. -/
def running : State :=
  { State.reset with
    status := .running
    launch := { Launch.reset with header := wideHeader, ntask := 1, m1 := 1, m2 := 1, m3 := 1, level := 1 }
    trap := { State.reset.trap with tvec := 0x8000 }
    memory := { Memory.reset with tlb := [⟨0, 0, 65536, 7⟩] }
    plat := { Platform.reset with ready := -1 } }

/-- The same, with some scalar registers written. -/
def withRegs (rs : List (Reg × Word)) : State := rs.foldl (fun s r => s.setReg r.1 r.2) running

/-- The check passes with these locations. -/
def gives (r : Except Trap (List Nat)) (l : List Nat) : Bool :=
  match r with
  | .ok a => a = l
  | .error _ => false

theorem gives_ok {r : Except Trap (List Nat)} {l : List Nat} (h : gives r l = true) : r = .ok l := by
  cases r with
  | ok a => exact congrArg Except.ok (of_decide_eq_true h)
  | error e => cases h

theorem running_traps : CanTrap running := ⟨by decide, by decide⟩

/-- A page at 0 that the one entry of the TLB maps onto itself answers for all of its addresses. -/
theorem entry_leaf {s : State} {size : Nat} {leaf : Word} (h : s.memory.tlb = [⟨0, 0, size, leaf⟩]) (ha : s.launch.asn = 0)
    (hs : size ≤ 2 ^ 52) (hm : Leaf.mode leaf = 0) {x : Nat} (hx : x < size) : s.leafOf x = .ok (leaf, size) := by
  have hc : s.cachedLeaf x = some ⟨0, 0, size, leaf⟩ := by
    unfold State.cachedLeaf
    rw [h]
    simp [State.covers, ha, hx]
  unfold State.leafOf State.beyondWindow
  rw [if_neg (by omega), hc]
  simp [hm]

theorem entry_loc {s : State} {size : Nat} {leaf : Word} (h : s.memory.tlb = [⟨0, 0, size, leaf⟩]) (ha : s.launch.asn = 0)
    (hs : size ≤ 2 ^ 52) (hm : Leaf.mode leaf = 0) (hw : Leaf.w leaf = true) (hp : Leaf.pk leaf = false) (hf : Leaf.frame leaf = 0)
    {x : Nat} (hx : x < size) {k : Access} (hk : k ≠ .fetch) (raw plain : Bool) : s.locOf k raw plain x = .ok x := by
  have hl : s.leafLoc leaf size x raw plain = .ok x := by
    unfold State.leafLoc
    rw [hm, hp, hf]
    simp [Nat.mod_eq_of_lt hx]
  have hq : State.permit leaf k x = none := by
    cases k with
    | load => rfl
    | store => simp [State.permit, hw]
    | fetch => exact absurd rfl hk
    | atomic => simp [State.permit, hw, hm]
  unfold State.locOf
  simp only [entry_leaf h ha hs hm hx, hq, hl]

theorem page_leaf {s : State} (h : s.memory.tlb = [⟨0, 0, 65536, 7⟩]) (ha : s.launch.asn = 0) {x : Nat} (hx : x < 65536) :
    s.leafOf x = .ok (7, 65536) := entry_leaf h ha (by decide) rfl hx

theorem page_loc {s : State} (h : s.memory.tlb = [⟨0, 0, 65536, 7⟩]) (ha : s.launch.asn = 0) {x : Nat} (hx : x < 65536)
    {k : Access} (hk : k ≠ .fetch) (raw plain : Bool) : s.locOf k raw plain x = .ok x :=
  entry_loc h ha (by decide) rfl rfl rfl rfl hx hk raw plain

/-- Bytes that each stand at their own address. -/
theorem locs_self {s : State} {k : Access} {raw plain : Bool} : ∀ {l : List Nat}, (∀ x ∈ l, s.locOf k raw plain x = .ok x) →
    s.locsOf k raw plain l = .ok l
  | [], _ => rfl
  | x :: r, h => by
    unfold State.locsOf
    rw [h x (.head r), locs_self fun y hy => h y (.tail x hy)]

theorem mem_bytesAt {a n x : Nat} (h : x ∈ bytesAt a n) : a ≤ x ∧ x < a + n := by
  obtain ⟨i, hi, rfl⟩ := List.mem_map.mp h
  exact ⟨Nat.le_add_right a i, Nat.add_lt_add_left (List.mem_range.mp hi) a⟩

theorem bytesAt_nodup (a n : Nat) : (bytesAt a n).Nodup :=
  List.Pairwise.map _ (fun _ _ h e => h (Nat.add_left_cancel e)) List.nodup_range

/-- With every stack ready no access waits for one or is lost. -/
theorem stacks_ready {s : State} (h : s.plat.ready = -1) (locs : List Nat) : StacksReady s locs := by
  have hr (k : Nat) (hk : k < 64) : s.plat.ready.getLsbD k = true := by
    rw [h, show (-1 : BitVec 64) = BitVec.allOnes 64 from rfl, BitVec.getLsbD_allOnes]
    exact decide_eq_true hk
  have hk {l k : Nat} (e : State.stackOf l = some k) : k < 64 := by
    unfold State.stackOf at e
    split at e
    · injection e with e; omega
    · cases e
  refine ⟨?_, fun l _ => ?_⟩
  · unfold State.stackWaits
    rw [List.any_eq_false]
    intro l _
    split
    · rename_i h1; rw [hr _ (hk h1)]; simp
    · exact Bool.false_ne_true
  · unfold State.stackFailed
    split
    · rename_i h1; rw [hr _ (hk h1)]; rfl
    · rfl

/-! ## Hypotheses that are met: scalar instructions -/

/-- AluResults: the highest declared register with a bank register and s0. -/
theorem witness_aluResults : running.regsOk [54, 56, 0] = true := by decide

/-- The same with the trap on division by zero. -/
def dividing (b : Word) : State := { withRegs [(2, b)] with trap := { (withRegs [(2, b)]).trap with trapen := true } }

/-- DivisionResultsAndTraps: a divisor 1 with the trap on, and 2^32, which is 0 at width 32 alone. -/
theorem witness_divisionResultsAndTraps :
    (dividing 1).regsOk [1, 1, 2] = true ∧ (dividing 1).trap.trapen = true ∧ (dividing 1).getReg 2 ≠ 0
    ∧ ((dividing 1).getReg 2).setWidth 32 ≠ 0#32 ∧ CanTrap (dividing (2 ^ 32))
    ∧ ((dividing (2 ^ 32)).getReg 2).setWidth 32 = 0#32 ∧ (dividing (2 ^ 32)).getReg 2 ≠ 0 ∧ (dividing (2 ^ 32)).getReg 0 = 0 := by
  and_intros <;> decide

/-- UndeclaredRegisterTraps: the one register that the kernel leaves undeclared. -/
theorem witness_undeclaredRegisterTraps : CanTrap running ∧ running.launch.header.ns ≤ (55 : Reg).toNat ∧ (55 : Reg).toNat < 56 :=
  ⟨running_traps, by decide⟩

/-- ImmediateResults and BranchesGoWhereTheComparisonSays: both outcomes of a comparison of −1 with 1. -/
theorem witness_branches :
    let s := withRegs [(1, -1), (2, 1)]
    s.regsOk [1, 2] = true ∧ s.getReg 1 ≠ s.getReg 2 ∧ (s.getReg 1).toInt < (s.getReg 2).toInt
      ∧ ¬ (s.getReg 1).toNat < (s.getReg 2).toNat ∧ s.getReg 1 = s.getReg 1 := by decide

/-- JumpsSaveTheNextWord: an aligned target, and one just off it. -/
theorem witness_jumpsSaveTheNextWord :
    let s := withRegs [(1, 0x100)]
    s.regsOk [63, 1] = true ∧ (s.getReg 1 + BitVec.ofInt 64 (-4 : BitVec 14).toInt).toNat % 4 = 0
      ∧ (s.getReg 1 + BitVec.ofInt 64 (1 : BitVec 14).toInt).toNat % 4 ≠ 0 ∧ CanTrap s :=
  ⟨by decide, by decide, by decide, by decide, by decide⟩

/-! ## Hypotheses that are met: scalar accesses -/

/-- A load or a store of a size at s1 plus an offset in units of that size, to s2. -/
def memOp (place : Place) (ord : Sys2Proof.Ord) (size : Size) (off : BitVec 6) : MemOp := ⟨2, 1, place, ord, size, off⟩

/-- ScratchpadAccesses: the last 16 bytes of the scratchpad. -/
theorem witness_scratchpadAccesses :
    let s := withRegs [(1, 2 ^ 20 - 16)]
    s.regsOk (memRegs (memOp .scratch .plain .q 0)) = true ∧ Mem.wf s.memory.scratch = true
    ∧ ScratchOk s ((s.getReg 1 + BitVec.ofNat 64 (0 * 16)).toNat % 2 ^ 32) 16 (2 ^ 20 - 16) := by
  unfold ScratchOk; and_intros <;> decide

/-- LoadFromGlobalMemory and StoresToGlobalMemory: a plain access of the last eight bytes of the page, off its alignment. -/
theorem witness_plainAccess :
    let s := withRegs [(1, 65024)]
    let o := memOp (.global .clu) .plain .d 63
    let locs := bytesAt 65528 8
    GlobalOk o s .load locs ∧ GlobalOk o s .store locs ∧ ReadsAtOnce s (globalVas o s) locs ∧ locs.Nodup
    ∧ (∀ l ∈ locs, l < 2 ^ 48) ∧ s.memory.wf = true ∧ s.launch.header.tailm = false ∧ s.stagingFull locs = false
    ∧ s.fillPending (globalVas o s) = false ∧ s.atomicInFlight locs = false ∧ StacksReady s locs := by
  unfold GlobalOk ReadsAtOnce StacksReady; and_intros <;> first | decide | rfl

/-- A byte is staged at 64, and s1 is 8. -/
def stagedByte : State :=
  { withRegs [(1, 8)] with memory := { (withRegs []).memory with staging := [(64, 1)], own := [(64, 1)] } }

/-- The same statements: ordered accesses, with a byte staged before the release. -/
theorem witness_orderedAccess :
    GlobalOk (memOp (.global .clu) .imm .w 0) stagedByte .load (bytesAt 8 4)
    ∧ GlobalOk (memOp (.global .clu) .rel .w 0) stagedByte .store (bytesAt 8 4)
    ∧ GlobalOk (memOp (.global .clu) .acq .w 0) stagedByte .load (bytesAt 8 4)
    ∧ ReadsAtOnce stagedByte (bytesAt 8 4) (bytesAt 8 4) ∧ (bytesAt 8 4).Nodup ∧ (∀ l ∈ bytesAt 8 4, l < 2 ^ 48)
    ∧ (∀ c ∈ stagedByte.memory.staging, c.1 < 2 ^ 48) ∧ stagedByte.memory.wf = true ∧ stagedByte.wait = none
    ∧ StacksReady stagedByte (bytesAt 8 4 ++ stagedByte.memory.staging.map fun c => c.1)
    ∧ stagedByte.memory.stagingBad = false ∧ stagedByte.memory.uncertain = [] ∧ stagedByte.memory.reqs = [] := by
  unfold GlobalOk ReadsAtOnce StacksReady; and_intros <;> first | decide | rfl

/-- ScalarAccessFaults: the first address beyond the space, one off alignment, and a page without write permission. -/
theorem witness_scalarAccessFaults :
    let s := withRegs [(1, 2 ^ 52)]
    let u := { withRegs [(1, 1)] with memory := { Memory.reset with tlb := [⟨0, 0, 65536, 5⟩] } }
    CanTrap s ∧ s.regsOk (memRegs (memOp (.global .clu) .imm .q 0)) = true ∧ 2 ^ 52 ≤ (s.getReg 1 + 0).toNat
    ∧ CanTrap u ∧ u.regsOk (memRegs (memOp (.global .clu) .imm .h 0)) = true
    ∧ (u.getReg 1 + 0).toNat < 2 ^ 52 ∧ (u.getReg 1 + 0).toNat % 2 ≠ 0
    ∧ u.leafOf (u.getReg 1).toNat = .ok (5, 65536) ∧ (5 : Word).getLsbD 1 = false := by
  unfold CanTrap; and_intros <;> first | decide | rfl

/-- AtomicsReturnTheOldValue: eight bytes at the end of the scratchpad, and four at the end of the page. -/
theorem witness_atomics :
    let s := withRegs [(1, 2 ^ 20 - 8)]
    let u := withRegs [(1, 65532)]
    let o : AtomOp := ⟨2, 1, 0, false, true, false⟩
    let p : AtomOp := ⟨2, 1, 0, true, false, false⟩
    s.regsOk [2, 1, 0] = true ∧ HasReturn s o ∧ s.memory.wf = true ∧ s.launch.det = false ∧ (s.getReg 1).toNat % 8 = 0
    ∧ ScratchOk s ((s.getReg 1).toNat % 2 ^ 32) 8 (2 ^ 20 - 8)
    ∧ u.regsOk [2, 1, 0] = true ∧ HasReturn u p ∧ u.memory.wf = true ∧ u.launch.det = false ∧ (u.getReg 1).toNat % 4 = 0
    ∧ u.leafOf (u.getReg 1).toNat = .ok (7, 65536)
    ∧ u.locsOf .atomic false false ((List.range 4).map ((u.getReg 1).toNat + ·)) = .ok ((List.range 4).map (65532 + ·))
    ∧ u.stackWaits ((List.range 4).map (65532 + ·)) = false
    ∧ u.poisonTrap ((List.range 4).map ((u.getReg 1).toNat + ·)) ((List.range 4).map (65532 + ·)) = none := by
  unfold HasReturn ScratchOk; and_intros <;> first | decide | rfl

/-! ## Hypotheses that are met: synchronization and system instructions -/

/-- The same task of a kernel that declares nothing. -/
def bare : State := { running with launch := { running.launch with header := Header.reset } }

/-- An entry of a queue that has only pushes left. -/
def pushing (sp sn : Bool) : Entry := ⟨.exit, 0, 0, 0, running.regs, none, none, .push sp sn, none⟩

/-- The queue holds one entry. -/
def busy (q : Queue) : State := running.setQueue q { QueueState.reset with entries := [pushing false true] }

/-- A request of the task or of another owner, to the first location of another device. -/
def asking (op : RemoteOp) (owner : ReqOwner) : State :=
  { running with memory := { running.memory with
      reqs := [{ id := 0, loc := 2 ^ 48, va := 0, op := op, slot := none, sent := true, owner := owner }] } }

/-- An ordered access of the task, held at its home. -/
def heldAtHome : Held := ⟨⟨0, 0, 1⟩, 0, 0, 0, 0, false, [(0, ⟨0, false, 1, 0⟩)], none, false, true⟩

/-- FencesWaitForTheQueues: idle queues with a read of the task and a write of a copy on their way; an atomic of the task on its way, and
an ordered access of it held; a busy queue. -/
theorem witness_fences :
    QueuesIdle running ∧ ImmediatesDone (asking (.read false) .task) ∧ ImmediatesDone (asking (.write [1]) (.copy 0))
    ∧ running.memory.uncertain = [] ∧ ¬ ImmediatesDone (asking (.atomic ⟨0, true, 1, 0⟩ true) .task)
    ∧ ¬ ImmediatesDone { running with ordered := ⟨[heldAtHome], [], 0⟩ } ∧ running.waitClk ≤ 2 ^ 32
    ∧ ((busy .s).queue .s).entries ≠ [] ∧ (busy .s).waitClk ≤ 2 ^ 32
    ∧ ((busy .s).queue .c).entries = [] ∧ ((busy .s).queue .c).table = none := by
  unfold QueuesIdle ImmediatesDone; and_intros <;> decide

/-- PublicationAndPhases: the staged byte at the highest level, with every member there, and a level beyond NDOM. -/
theorem witness_publication :
    StagingLocal stagedByte ∧ ImmediatesDone stagedByte ∧ NothingSent stagedByte ∧ stagedByte.memory.wf = true ∧ stagedByte.wait = none ∧ QueuesIdle stagedByte
    ∧ (3 : BitVec 2).toNat < stagedByte.launch.header.ndom ∧ stagedByte.membAt 4 ≤ stagedByte.domArr[3] + 1
    ∧ bare.launch.header.ndom ≤ (0 : BitVec 2).toNat ∧ CanTrap bare ∧ bare.wait = none := by
  unfold StagingLocal StacksReady NothingSent ImmediatesDone QueuesIdle CanTrap; and_intros <;> decide

/-- The same task under CKPT, with its save area at 0x100000 in a page table that maps the lowest 16 GiB onto themselves. -/
def checkpointing : State :=
  { stagedByte with
    launch := { stagedByte.launch with
      header := { wideHeader with ckpt := true, scratch := 0 }, root := 0x10000, save := 0x100000 }
    memory := { stagedByte.memory with
      home := Mem.writeBytes (Mem.writeBytes [] 0x10000 (natToBytes 8 0x100010001)) 0x11000 (natToBytes 8 0x80000007) } }

/-- PublicationAndPhases: its checkpoint is the last 4 KiB of the first 256 KiB of its slot. -/
theorem witness_checkpoint :
    let s := checkpointing
    s.launch.header.ckpt = true ∧ (3 : BitVec 2).toNat < s.launch.header.ndom ∧ QueuesIdle s ∧ ImmediatesDone s ∧ StagingLocal s
    ∧ NothingSent s ∧ s.memory.wf = true ∧ s.wait = none ∧ s.membAt 4 ≤ s.domArr[3] + 1 := by
  unfold StagingLocal StacksReady NothingSent ImmediatesDone QueuesIdle; and_intros <;> decide +kernel

/-- What the view of a launch reads with the 16 GiB page: the bytes stand at their own addresses. -/
theorem launch_locs {s : State} {l : Launch} {va n : Nat} {k : Access} (hk : k ≠ .fetch) (hl : va + n ≤ 2 ^ 34)
    (ht : (pagesWalked (launchView s l) va n).memory.tlb = [⟨0, 0, 2 ^ 34, 0x80000007⟩])
    (hn : (pagesWalked (launchView s l) va n).launch.asn = 0) : launchLocs s l k va n = some (bytesAt va n) := by
  unfold launchLocs
  rw [locs_self fun x hx => entry_loc ht hn (by decide) rfl rfl rfl rfl (Nat.lt_of_lt_of_le (mem_bytesAt hx).2 hl) hk false false]

/-- PublicationAndPhases: those bytes stand at their own addresses. -/
theorem witness_checkpointLocs :
    let s := checkpointing
    let locs := bytesAt 0x13F000 4096
    launchLocs (s.commit (levelScope 3)) s.launch .store (checkpointVa s.launch) 4096 = some locs
    ∧ locs.Nodup ∧ (∀ l ∈ locs, l < 2 ^ 48) ∧ StacksReady s locs :=
  ⟨launch_locs (by decide) (by decide) (by decide +kernel) (by decide +kernel), bytesAt_nodup _ _,
    fun _ h => Nat.lt_of_lt_of_le (mem_bytesAt h).2 (by decide), stacks_ready rfl _⟩

/-- The same task in tail mode, with an entry left in its S queue. -/
def tailing : State :=
  { busy .s with launch := { running.launch with header := { wideHeader with tailm := true } } }

/-- PublicationAndPhases: EXIT with everything finished, TAIL with an S entry left, and TAIL outside tail mode. -/
theorem witness_exitAndTail :
    EnginesIdle stagedByte ∧ (stagedByte.queue .s).entries = [] ∧ (stagedByte.queue .s).table = none
    ∧ stagedByte.channel.cmds = [] ∧ stagedByte.helper.fault = none
    ∧ tailing.launch.header.tailm = true ∧ EnginesIdle tailing ∧ (tailing.queue .s).entries ≠ []
    ∧ (ownTracked tailing).length + (tailEntries tailing).length ≤ 16
    ∧ running.launch.header.tailm = false ∧ CanTrap running := by
  unfold EnginesIdle CanTrap; and_intros <;> decide

/-- Tag 63 is ready; s1 names it, s2 a tag that a kernel without tags does not have. -/
def tagged : State := { withRegs [(1, 1 <<< 63), (2, 1)] with tags := ⟨1 <<< 63, 0, Vector.replicate 64 0⟩ }

/-- TagAndLineWaits: the highest tag ready and named, no tag named, and tag 0 named by a kernel that has none. -/
theorem witness_tagWaits :
    tagged.regsOk [3, 1] = true ∧ tagged.launch.det = false ∧ tagged.getReg 0 = 0 ∧ tagged.tags.rdy &&& tagged.getReg 1 ≠ 0
    ∧ (∀ i < 64, tagged.launch.header.ntag ≤ i → (tagged.getReg 1).getLsbD i = false)
    ∧ (∀ i < 64, (tagged.getReg 1).getLsbD i = true → tagged.tags.rdy.getLsbD i = true)
    ∧ bare.regsOk [56, 57] = true ∧ CanTrap bare ∧ bare.launch.header.ntag ≤ 0
    ∧ ((bare.setReg 57 1).getReg 57).getLsbD 0 = true := by
  unfold CanTrap; and_intros <;> decide

/-- A WAITA on the line at 0, as s2 to s5 arm it, with these counts; its deadline is s8. -/
def watching (c : Lane32) (time : Nat) (deadline : Word) : State :=
  { withRegs [(4, 0x81), (8, deadline)] with
    wait := some (.waita [some c, none, none, none]), device := { DeviceRegs.reset with time := time } }

/-- TagAndLineWaits: nothing armed; a count that has changed; none changed and the deadline just come; none changed and no
deadline; a DET launch; a time that has come. -/
theorem witness_lineWaits :
    running.regsOk [1, 4, 5, 6, 7, 8] = true ∧ running.wait = none ∧ (∀ i < 4, running.getReg (4 + BitVec.ofNat 6 i) = 0)
    ∧ (running.getReg 8).toNat ≤ running.device.time
    ∧ waitaLoc (watching 1 0 0) ((watching 1 0 0).getReg 4) = .ok 129 ∧ (watching 1 0 0).lineCount (State.physOf 129) ≠ 1
    ∧ (watching 0 9 9).lineCount (State.physOf 129) = 0 ∧ (watching 0 9 9).getReg 8 ≠ 0
    ∧ ((watching 0 9 9).getReg 8).toNat ≤ (watching 0 9 9).device.time
    ∧ (watching 0 9 0).wake = false ∧ (watching 0 9 0).getReg 8 = 0 ∧ (watching 0 9 0).waitClk ≤ 2 ^ 32
    ∧ ({ running.launch with det := true } : Launch).det = true := by
  and_intros <;> first | decide | rfl

/-- DiscardAndPop: the last line of the page; and a return queue whose second entry is free to pop, or that holds none. -/
theorem witness_discardAndPop :
    let s := withRegs [(1, 65535)]
    s.regsOk [1] = true ∧ s.memory.wf = true ∧ s.leafOf (s.getReg 1).toNat = .ok (7, 65536)
    ∧ (7 : Word).getLsbD 1 = true ∧ (7 : Word).getLsbD 3 = false ∧ (7 : Word).extractLsb' 4 3 = 0
    ∧ StacksReady s ((((7 : Word).extractLsb' 32 32).toNat * 65536 + 65535) :: (List.range 128).map (65408 + ·))
    ∧ s.fillPending [(s.getReg 1).toNat] = false ∧ ((7 : Word).extractLsb' 32 32).toNat * 65536 + 65535 / 128 * 128 + 128 ≤ 2 ^ 48
    ∧ ([⟨0, true, none, none, none⟩, ⟨1, false, some (.scalar 5), none, none⟩] : List RetEntry)
        = [⟨0, true, none, none, none⟩] ++ ⟨1, false, some (.scalar 5), none, none⟩ :: []
    ∧ s.ret = [] ∧ s.wait = none ∧ s.launch.det = false := by
  and_intros <;> first | exact stacks_ready (by decide) _ | decide +kernel | rfl

/-- Barrier 511 with a target of 1, and a generation that has left WATCH; some generations have failed. -/
def barrier (failed : List (BitVec 16 × Trap)) : State :=
  { running with bars := running.bars.set 511 { Barrier.reset with gen := 1, failed := failed } }

/-- NamedBarriers: the highest barrier, complete at its first arrival, and past WATCH, with a failed generation that is not among those
waited for; the same with a failed one that is; a target of 2^15 − 1 and one too far; a register that is 0 and one that names level 1;
and barrier 0 of a kernel that has none. -/
theorem witness_namedBarriers :
    let late := barrier [(3, ⟨.xlate, 15, 0⟩)]
    let hit := barrier [(1, ⟨.xlate, 15, 0⟩), (3, ⟨.prot, 0, 0⟩)]
    (511 : BitVec 9).toNat < late.launch.header.nbar ∧ late.bars[511].count + 1 = late.bars[511].target
    ∧ late.bars[511].gen ≠ late.bars[511].watch ∧ (∀ f ∈ late.bars[511].failed, ¬ Passing late.bars[511] f.1)
    ∧ (∀ f ∈ late.bars[511].failed, f.1 ≠ late.bars[511].gen + 1) ∧ late.bars[511].level = 0
    ∧ hit.bars[511].gen ≠ hit.bars[511].watch ∧ Passing hit.bars[511] 1 ∧ ¬ Passing hit.bars[511] 3 ∧ CanTrap hit
    ∧ running.bars[511].gen = running.bars[511].watch ∧ running.waitClk ≤ 2 ^ 32
    ∧ (withRegs [(1, 2 ^ 15)]).regsOk [1] = true ∧ 2 ^ 15 ≤ ((withRegs [(1, 2 ^ 15)]).getReg 1).toNat
    ∧ ((withRegs [(1, 2 ^ 15 - 1)]).getReg 1).toNat < 2 ^ 15 ∧ ((withRegs [(1, 1)]).getReg 1).toNat = 1
    ∧ (withRegs [(1, 1)]).membAt 1 = 1 ∧ 1 ≤ (withRegs [(1, 1)]).launch.header.ndom
    ∧ bare.launch.header.nbar ≤ (0 : BitVec 9).toNat ∧ CanTrap bare ∧ bare.regsOk [56] = true := by
  unfold CanTrap Passing; and_intros <;> decide +kernel

/-- TrapsAndReturns: a task that can trap, break enabled, level 2, no handler, level 1 and 2 with addresses to return to, and level 1
with an odd address. -/
theorem witness_trapsAndReturns :
    CanTrap running ∧ running.pc.toNat % 4 = 0 ∧ running.breakOn = false ∧ running.trap.tl = 0
    ∧ ({ running with breakOn := true } : State).breakOn = true
    ∧ ({ running.trap with tl := 2 } : TrapRegs).tl = 2 ∧ ({ running.trap with tvec := 0 } : TrapRegs).tvec = 0
    ∧ (let s : State := { running with trap := { running.trap with tl := 1, l1 := { TrapLevel.reset with pc := 4 } } }
      s.trap.tl.val = 1 ∧ s.trap.l1.pc.toNat % 4 = 0)
    ∧ (let s : State := { running with trap := { running.trap with tl := 2, l2 := { TrapLevel.reset with pc := 4 } } }
      s.trap.tl.val = 2 ∧ s.trap.l2.pc.toNat % 4 = 0)
    ∧ (let s : State := { running with trap := { running.trap with tl := 1, l1 := { TrapLevel.reset with pc := 2 } } }
      s.trap.tl = 1 ∧ CanTrap s ∧ s.trap.l1.pc.toNat % 4 ≠ 0) := by
  unfold CanTrap; and_intros <;> decide

/-- SystemRegisters: any declared register, with a handler for the unknown numbers. -/
theorem witness_systemRegisters : (withRegs [(1, -1)]).regsOk [1] = true ∧ CanTrap (withRegs [(1, -1)]) :=
  ⟨by decide, by decide, by decide⟩

/-- RegisterFilesAndTables: a pair and room in the format queue; a group that no copy names and one that a copy of another core does;
a group that this task has quiesced, with an entry for it and one with a bit too high; one that another task has quiesced; a slot
value. -/
theorem witness_registerFilesAndTables :
    let s := withRegs [(1, 15), (2, 7), (3, 2 ^ 25)]
    let u := { s with channel := { s.channel with mine := 1 <<< 15 } }
    let v := { s with channel := { s.channel with table := { s.channel.table with others := 1 <<< 15, quiesced := 1 <<< 15 } } }
    s.regsOk [1, 2] = true ∧ s.fmt.length < 16 ∧ ¬ GroupNamed s 15 ∧ GroupNamed v 15 ∧ v.waitClk ≤ 2 ^ 32
    ∧ (s.getReg 1).toNat % 16 = 15 ∧ (s.getReg 2).toNat < 8 ∧ (s.getReg 2).toNat < 2 ^ 25 ∧ 2 ^ 25 ≤ (s.getReg 3).toNat
    ∧ u.channel.mine.getLsbD 15 = true ∧ v.channel.mine.getLsbD 15 = false ∧ CanTrap u ∧ CanTrap v := by
  unfold CanTrap GroupNamed; and_intros <;> decide

/-- An operation that succeeds with a value of which a check holds. -/
def okWith {α : Type} (r : Res α) (p : α → State → Bool) : Bool :=
  match r with
  | .ok a u => p a u
  | _ => false

theorem ok_of {α : Type} {r : Res α} {p : α → State → Bool} (h : okWith r p = true) : ∃ a u, r = .ok a u ∧ p a u = true := by
  cases r with
  | ok a u => exact ⟨a, u, rfl, h⟩
  | trap t => cases h
  | wait u => cases h
  | fail t u => cases h

/-- RegisterFilesAndTables: the last 64 bytes of the page, an address off 64, a map register that is not declared, and a
descriptor in memory. -/
theorem witness_mapsAndDescriptors :
    let s := withRegs [(1, 65472), (2, 65473)]
    let locs := bytesAt 65472 64
    (15 : BitVec 4).toNat < s.launch.header.nm ∧ (s.getReg 1).toNat % 64 = 0 ∧ (s.getReg 2).toNat % 64 ≠ 0
    ∧ s.locsOf .load false true ((List.range 64).map ((s.getReg 1).toNat + ·)) = .ok locs
    ∧ s.locsOf .store false true ((List.range 64).map ((s.getReg 1).toNat + ·)) = .ok locs ∧ locs.Nodup
    ∧ ReadsAtOnce s locs locs ∧ s.fillPending locs = false ∧ s.atomicInFlight locs = false ∧ s.stagingFull locs = false
    ∧ bare.launch.header.nm ≤ (0 : BitVec 4).toNat ∧ s.launch.ttab = 0
    ∧ (let t := { s with launch := { s.launch with ttab := 4096 } }
      t.launch.ttab ≠ 0 ∧ ∃ bs u, readHomeVa t (descVa t 0 false) 128 = .ok bs u ∧ decide ((Desc.ofBytes bs).rs = false) = true) := by
  unfold ReadsAtOnce; and_intros <;> first | rfl | decide +kernel | exact ok_of (p := fun bs _ => decide ((Desc.ofBytes bs).rs = false)) (by decide +kernel)

/-! ## Hypotheses that are met: vector instructions -/

/-- A C-class word without tokens: d, a, b, a type and its immediate, mask k0. -/
def eop (d a b : Reg) (ty : ElemType) (imm : BitVec 12) : EOp :=
  ⟨⟨false, false, false, false⟩, d, a, b, 0, ty, 0, .rne, false, false, imm⟩

/-- VectorIntegers, ComparesAndMasks and SitOutQueue: their instructions can run at once. -/
theorem witness_integersAndMasks :
    ∀ i ∈ ([Instr.vadd, .vsub, .vmul, .vmulh, .vmin, .vmax, .vand, .vor, .vxor, .vandn, .vshl, .vshr, .vshra, .vadds, .vsubs,
        .vavg, .vsel].map fun row => row (eop 8 16 24 .i32 0))
      ++ ([Instr.vabs, .vneg, .vclz, .vpopc, .viota].map fun row => row (eop 63 0 0 .n8 0))
      ++ ([Instr.kand, .kor, .kxor].map fun row => row (eop 15 1 2 .i8 0))
      ++ ([Instr.knot, .kmov, .kffs, .kset].map fun row => row (eop 1 0 0 .i8 0))
      ++ [.vcmp (eop 15 8 16 .f32 4), .kpopc (eop 0 15 0 .i8 0), .vsit (eop 1 8 16 .i8 15), .vsitc (eop 0 8 16 .i8 0),
        .vdrain (eop 0 0 1 .i8 15), .vsitclr (eop 0 0 0 .i8 15)],
    QueueReady running .c i := by
  unfold QueueReady; decide

/-- VectorFloats, PermutationsAndMoves and ReductionsAndConversions: their instructions can run at once. -/
theorem witness_floatsAndMoves :
    ∀ i ∈ ([Instr.vfadd, .vfsub, .vfmul, .vfma, .vfms, .vfnma, .vfnms, .vfmin, .vfmax].map
        fun row => row (eop 8 16 24 .bf16 0))
      ++ ([Instr.vfdiv, .vfsqrt, .vexp2, .vlog2, .vrcp, .vrsq, .vfabs, .vfneg, .vfrnd].map fun row => row (eop 63 0 0 .f32 0))
      ++ ([Instr.vperm, .vslide, .vzip, .vunzip, .vtrn].map fun row => row (eop 8 16 24 .i64 0))
      ++ ([Instr.vshuf, .vbcast, .vexpd, .vcmpr, .vmov, .vins, .vrsum, .vrmax, .vrmin, .vpsum].map
        fun row => row (eop 8 16 0 .f32 0))
      ++ ([Instr.vrand, .vror, .vunpk].map fun row => row (eop 8 16 0 .i32 0))
      ++ [.vli (eop 8 0 0 .f32 0), .vext (eop 0 16 0 .i8 255), .vcvt (eop 8 16 0 .f32 0), .vdqnt (eop 0 16 0 .f32 12), .vcbx (eop 8 0 0 .bf16 14), .vpack (eop 8 16 0 .i32 2),
        .vqnt (eop 8 16 0 .e4m3 10)],
    QueueReady running .c i := by
  unfold QueueReady; decide

/-- An instruction of the C queue that waits for both of its neighbours and pushes to both, with their tokens there and room for
its own. -/
theorem witness_tokens :
    let s := { running with queues := { Queues.reset with lc := 1, sc := 1, cs := 14, cl := 14 } }
    QueueReady s .c (.vadd { eop 8 16 24 .i32 0 with tok := ⟨true, true, true, true⟩ }) := by
  unfold QueueReady; decide

/-- ComparesAndMasks: a return entry is free; SitOutQueue: the oldest entry beyond which 64 do not fit; VDRAIN's two results apart. -/
theorem witness_returnsAndSitOut :
    running.ret.length < 32 ∧ (∀ e ∈ running.ret, e.id ≠ running.nextRet) ∧ running.sitout.length + 64 ≤ 2048
    ∧ ((0 : Reg).toNat + 2 ^ (0 : BitVec 2).toNat ≤ (1 : Reg).toNat) := by decide

/-- IssueIntoABusyQueue: an entry before it, and no token; one row of each queue. -/
theorem witness_busyQueue :
    IssuesBehind (busy .c) .c (.vadd (eop 8 16 24 .i32 0))
    ∧ IssuesBehind running .c (.vadd { eop 8 16 24 .i32 0 with tok := ⟨true, false, false, false⟩ })
    ∧ IssuesBehind (busy .l) .l (.vld ⟨⟨false, false, false, false⟩, 8, 1, 0, 0, .core, .plain, .global, .i32, 1, false, 0, 0⟩)
    ∧ IssuesBehind (busy .s) .s (.vst ⟨⟨false, false, false, false⟩, 8, 1, 0, 0, .core, .plain, .global, .i32, 1, false, 0, 0⟩) := by
  unfold IssuesBehind; and_intros <;> decide

/-! ## Hypotheses that are met: memory words -/

/-- An L or S memory word of 32-bit elements under mask k1, at s1 with data in v8. -/
def mop (space : Space) (b : Reg) (imm : BitVec 12) : MOp :=
  ⟨⟨false, false, false, false⟩, 8, 1, b, 0, .core, .plain, space, .i32, 1, false, 0, imm⟩

/-- Mask k1 admits the last element of a register alone; s1 is given, and so is element 63 of v16. -/
def lastLane (a : Word) (v : VReg) : State :=
  { withRegs [(1, a)] with kregs := running.kregs.set 1 (1 <<< 252), vregs := running.vregs.set 16 (v <<< 2016) }

theorem lastLane_active {o : MOp} {a : Word} {v : VReg} {i : Nat} (hw : o.w = 0) (ht : o.ty = .i32) (hk : o.k = 1)
    (h : wordActive o (lastLane a v) i) : i = 63 := by
  obtain ⟨h1, h2⟩ := h
  rw [hw, ht] at h1; rw [hw, ht, hk] at h2
  have h3 : ∀ i < 64, activeAt (lastLane 0 0) 1 0 ElemType.i32.bits i = true → i = 63 := by decide +kernel
  exact h3 i h1 h2

/-- VectorLoadsAndReadOnlyLoads and VectorStores: the last four bytes of the page, by position and by index. -/
theorem witness_globalElements :
    (∀ i ∈ [Instr.vld (mop .global 0 0), .vgath (mop .global 16 0), .vldro (mop .global 0 0)],
      QueueReady (lastLane 65280 252) .l i)
    ∧ (∀ i ∈ [Instr.vst (mop .global 0 0), .vscat (mop .global 16 0)], QueueReady (lastLane 65280 252) .s i) := by
  unfold QueueReady; decide +kernel

theorem witness_globalElementsAt :
    (∀ k ∈ [Access.load, .store], ElemsAt (mop .global 0 0) (lastLane 65280 0) false false k fun i => 65280 + 4 * i)
    ∧ (∀ k ∈ [Access.load, .store], ElemsAt (mop .global 16 0) (lastLane 65280 63) false true k fun i => 65280 + 4 * i)
    ∧ ElemsRead (mop .global 0 0) (lastLane 65280 0) false (fun i => 65280 + 4 * i)
    ∧ ElemsRead (mop .global 16 0) (lastLane 65280 63) true (fun i => 65280 + 4 * i)
    ∧ (∀ i, wordActive (mop .global 0 0) (lastLane 65280 0) i → StacksReady (lastLane 65280 0) (bytesAt (65280 + 4 * i) 4))
    ∧ (lastLane 65280 63).memory.wf = true ∧ (lastLane 65280 63).launch.header.tailm = false := by
  refine ⟨?_, ?_, ?_, ?_, fun _ _ => stacks_ready (by decide) _, by decide, by decide⟩
  · intro k hk i hi
    rw [lastLane_active rfl rfl rfl hi]
    simp only [List.mem_cons, List.not_mem_nil, or_false] at hk
    rcases hk with rfl | rfl <;> refine ⟨by decide +kernel, ?_⟩ <;> exact ⟨by decide +kernel, fun p => gives_ok (by cases p <;> decide +kernel)⟩
  · intro k hk i hi
    rw [lastLane_active rfl rfl rfl hi]
    simp only [List.mem_cons, List.not_mem_nil, or_false] at hk
    rcases hk with rfl | rfl <;> refine ⟨by decide +kernel, ?_⟩ <;> exact ⟨by decide +kernel, fun p => gives_ok (by cases p <;> decide +kernel)⟩
  · intro i hi
    rw [lastLane_active rfl rfl rfl hi]
    unfold ReadsAtOnce; and_intros <;> decide +kernel
  · intro i hi
    rw [lastLane_active rfl rfl rfl hi]
    unfold ReadsAtOnce; and_intros <;> decide +kernel

/-- VectorLoadsAndReadOnlyLoads and VectorStores: the last four bytes of the scratchpad, by position and by index. -/
theorem witness_scratchElements :
    (∀ i ∈ [Instr.vlds (mop .global 0 0), .vgath (mop .scratch 16 0)], QueueReady (lastLane (2 ^ 20 - 256) 63) .l i)
    ∧ (∀ i ∈ [Instr.vsts (mop .global 0 0), .vscat (mop .scratch 16 0)], QueueReady (lastLane (2 ^ 20 - 256) 63) .s i)
    ∧ (∀ k, ElemsAt (mop .global 0 0) (lastLane (2 ^ 20 - 256) 63) true false k fun i => 2 ^ 20 - 256 + 4 * i)
    ∧ (∀ k, ElemsAt (mop .scratch 16 0) (lastLane (2 ^ 20 - 256) 63) true true k fun i => 2 ^ 20 - 256 + 4 * i)
    ∧ Mem.wf (lastLane (2 ^ 20 - 256) 63).memory.scratch = true := by
  refine ⟨by unfold QueueReady; decide +kernel, by unfold QueueReady; decide +kernel, ?_, ?_, by decide⟩ <;>
    intro k i hi <;> rw [lastLane_active rfl rfl rfl hi] <;>
    exact ⟨by decide +kernel, by unfold ScratchOk; and_intros <;> decide +kernel⟩

theorem eraseDups_short (n : Nat) : ∀ l : List Nat, l.length ≤ n → l.eraseDups.length ≤ l.length := by
  induction n with
  | zero => intro l h; cases l with
    | nil => exact Nat.le_refl _
    | cons a l => simp at h
  | succ n ih => intro l h; cases l with
    | nil => exact Nat.le_refl _
    | cons a l =>
      rw [List.eraseDups_cons, List.length_cons, List.length_cons]
      have h1 : (l.filter fun b => !b == a).length ≤ l.length := List.length_filter_le _ _
      have h2 := ih (l.filter fun b => !b == a) (by simp at h; omega)
      omega

/-- No list of so few locations fills the staging of a task that has staged nothing. -/
theorem staging_room {s : State} (hs : s.memory.staging = []) (locs : List Nat) (h : locs.length ≤ 131072) :
    s.stagingFull locs = false := by
  have hw : s.stagedWords locs ≤ locs.length := by
    unfold State.stagedWords
    rw [hs]
    simpa using eraseDups_short _ (locs.map (· / 8)) (Nat.le_refl _)
  have : ¬ Config.stagingLlc < s.stagedWords locs * 8 := by unfold Config.stagingLlc; omega
  simp [State.stagingFull, this]

/-- ReductionsAtMemory: the last element under the mask, in scratchpad and in global memory; a tree of that one element; a return
entry free for VATOM. -/
theorem witness_combines :
    (∀ i ∈ [Instr.vrdm (mop .scratch 1 0), .vrdm (mop .global 0x21 0), .vatom (mop .scratch 7 0)],
      QueueReady (lastLane (2 ^ 20 - 256) 0) .s i)
    ∧ CombineOk (mop .scratch 1 0) (lastLane (2 ^ 20 - 256) 0) (fun i => 2 ^ 20 - 256 + 4 * i)
    ∧ CombineOk (mop .global 1 0) (lastLane 65280 0) (fun i => 65280 + 4 * i)
    ∧ (lastLane 0 0).ret.length < 32 ∧ (∀ e ∈ (lastLane 0 0).ret, e.id ≠ (lastLane 0 0).nextRet) := by
  refine ⟨by unfold QueueReady; decide +kernel, ⟨by decide, by decide, ?_, by decide, ?_, fun h => absurd rfl h⟩,
    ⟨by decide, by decide, ?_, by decide, ?_, ?_⟩, by decide, by decide⟩
  · intro i hi
    rw [lastLane_active rfl rfl rfl hi]
    exact ⟨by decide +kernel, by unfold ScratchOk; and_intros <;> decide +kernel⟩
  · intro i j hi hj h
    exact absurd ((lastLane_active rfl rfl rfl hi).trans (lastLane_active rfl rfl rfl hj).symm) h
  · intro i hi
    rw [lastLane_active rfl rfl rfl hi]
    exact ⟨by decide +kernel, by decide +kernel, fun p => gives_ok (by cases p <;> decide +kernel)⟩
  · intro i j hi hj h
    exact absurd ((lastLane_active rfl rfl rfl hi).trans (lastLane_active rfl rfl rfl hj).symm) h
  · intro _ i hi
    rw [lastLane_active rfl rfl rfl hi]
    unfold ReadsAtOnce; and_intros <;> decide +kernel

theorem witness_trees :
    let s := lastLane 65532 0
    let o := mop .global 0x21 0
    let r := lastLane (2 ^ 20 - 4) 0
    let p := mop .scratch 0x21 0
    o.b.getLsbD 5 = true ∧ s.memory.wf = true ∧ vecAddr o s false false 0 % 4 = 0 ∧ s.launch.det = false
    ∧ (∀ plain, gives (s.locsOf .atomic false plain (bytesAt (vecAddr o s false false 0) 4)) (bytesAt 65532 4) = true)
    ∧ ReadsAtOnce s (bytesAt (vecAddr o s false false 0) 4) (bytesAt 65532 4)
    ∧ canonTree (treeCombine (vrdmFn o) o) 16
        (((List.range 64).filter fun i => activeAt s o.k o.w 32 i).map (vElem s o.d 32)) = some 0
    ∧ QueueReady r .s (.vrdm p) ∧ vecAddr p r true false 0 % 4 = 0
    ∧ ScratchOk r (vecAddr p r true false 0) 4 (2 ^ 20 - 4) := by
  unfold ReadsAtOnce ScratchOk QueueReady; and_intros <;> decide +kernel

/-- EngineFaultsHaltTheQueue: an address one byte off, whose lowest active element is the last one. -/
theorem witness_vectorFaults :
    (∀ i ∈ [Instr.vld (mop .global 0 0), .vlds (mop .global 0 0)], QueueReady (lastLane 1 0) .l i)
    ∧ (∀ i ∈ [Instr.vst (mop .global 0 0), .vsts (mop .global 0 0)], QueueReady (lastLane 1 0) .s i)
    ∧ wordActive (mop .global 0 0) (lastLane 1 0) 63
    ∧ (∀ j, wordActive (mop .global 0 0) (lastLane 1 0) j → 63 ≤ j)
    ∧ (∀ scr ∈ [true, false], vecAddr (mop .global 0 0) (lastLane 1 0) scr false 0 % 4 ≠ 0
      ∧ vecAddr (mop .global 0 0) (lastLane 1 0) scr false 0 + 256 ≤ 2 ^ 32) := by
  refine ⟨by unfold QueueReady; decide +kernel, by unfold QueueReady; decide +kernel, ?_, ?_, by decide +kernel⟩
  · exact ⟨by decide, by decide +kernel⟩
  · intro j hj
    exact Nat.le_of_eq (lastLane_active rfl rfl rfl hj).symm

/-- LoadBlocksAndVectorPops: the highest tag, the last line of the page, with room for a block; and a pop of a whole group. -/
theorem witness_blocksAndPops :
    let s := withRegs [(1, 65408)]
    let o := eop 63 1 0 .i8 0
    let u := { running with ret := [⟨0, true, none, none, none⟩, ⟨1, false, some (.vector [1, 2, 3, 4]), none, none⟩] }
    QueueReady s .l (.ldblk o) ∧ o.d.toNat < s.launch.header.ntag ∧ s.tags.out[63] < 255
    ∧ (s.getReg o.a + o.imm.signExtend 64).toNat % 128 = 0
    ∧ gives (s.locsOf .load false true ((List.range (o.b.toNat + 1)).map
        fun i => (s.getReg o.a + o.imm.signExtend 64).toNat + 128 * i)) [65408] = true
    ∧ (s.memory.blocks.map fun b => b.id).Nodup
    ∧ (makeRoom (o.b.toNat + 1) 18 s.memory).bind
        (makeWays (s.getReg o.a + o.imm.signExtend 64).toNat (o.b.toNat + 1)) = some s.memory
    ∧ QueueReady u .l (.aget { eop 60 0 0 .i8 0 with w := 2 })
    ∧ u.ret.find? (fun x => !x.matched) = some ⟨1, false, some (.vector [1, 2, 3, 4]), none, none⟩
    ∧ (∀ x ∈ u.ret, x.id = 1 → x = ⟨1, false, some (.vector [1, 2, 3, 4]), none, none⟩) ∧ u.launch.det = false := by
  unfold QueueReady; and_intros <;> decide +kernel

/-! ## Hypotheses that are met: tiles -/

/-- A tile word: s8 is its scratchpad address, s1 its address, s2 the shape. -/
def tileOp (ord : Sys2Proof.Ord) (ty : ElemType) : MOp :=
  ⟨⟨false, false, false, false⟩, 8, 1, 0, 0, .core, ord, .global, ty, 0, false, 0, 128⟩

/-- One row of 16 bytes at the end of the page, and of the scratchpad. -/
def tileState : State := withRegs [(1, 65520), (2, 0x1000001001), (8, 2 ^ 20 - 16)]

theorem witness_tiles :
    (∀ ord ∈ [Sys2Proof.Ord.plain, .imm], QueueReady tileState .l (.tld (tileOp ord .i8))
      ∧ QueueReady tileState .s (.tst (tileOp ord .i8)))
    ∧ QueueReady tileState .s (.tacc (tileOp .plain .i32))
    ∧ Mem.wf tileState.memory.scratch = true ∧ tileState.memory.wf = true ∧ tileState.launch.det = false
    ∧ tileState.launch.header.tailm = false := by
  unfold QueueReady; decide +kernel

theorem witness_tileAt {k : Access} (hk : k ≠ .fetch) (ord : Sys2Proof.Ord) (ty : ElemType) :
    TileAt (tileOp ord ty) tileState k 1 16 16 (2 ^ 20 - 16) (65520 + ·)
    ∧ TileReads (tileOp ord ty) tileState 1 16 16 (65520 + ·)
    ∧ (∀ p < 1 * 16, ∀ q < 1 * 16, 65520 + p = 65520 + q → p = q)
    ∧ (∀ p < 1 * 16, 65520 + p = 65520 + 4 * (p / 4) + p % 4)
    ∧ StacksReady tileState ((List.range (1 * 16)).map (65520 + ·)) := by
  have va : ∀ p < 1 * 16, tileVa (tileOp ord ty) tileState 16 16 p = 65520 + p := by
    show ∀ p < 1 * 16, tileVa (tileOp .plain .i8) tileState 16 16 p = 65520 + p
    decide +kernel
  refine ⟨⟨?_, rfl, ?_, ?_, ?_, ?_, 0, by decide, ?_⟩, ?_, by intro p _ q _ h; omega, by intro p _; omega,
    stacks_ready (by decide) _⟩
  · show TileShapeOf (tileState.getReg ((128 : BitVec 12).extractLsb' 6 6)) 1 16 16
    unfold TileShapeOf; decide +kernel
  · show (tileState.getReg 8).toNat % 16 = 0
    decide +kernel
  · show ScratchOk tileState ((tileState.getReg 8).toNat % 2 ^ 32) (1 * 16) (2 ^ 20 - 16)
    unfold ScratchOk; and_intros <;> decide +kernel
  · intro r hr
    rw [va (r * 16) (by omega)]
    omega
  · show ((List.range (1 * 16)).map fun p => tileVa (tileOp .plain .i8) tileState 16 16 p / 128).eraseDups.length ≤ 256
    decide +kernel
  · intro p hp
    rw [va p hp]
    refine ⟨by omega, show 65520 + p < 2 ^ 48 by omega, fun plain => page_loc rfl rfl (by omega) hk false plain, 7, 65536, ?_, rfl⟩
    exact page_leaf rfl rfl (by omega)
  · refine ⟨⟨?_, ?_, ?_, ?_⟩, fun _ => ⟨?_, ?_⟩⟩
    · intro l hl
      simp only [List.mem_map, List.mem_range] at hl
      obtain ⟨p, hp, rfl⟩ := hl
      omega
    · show State.failedRead tileState ((List.range (1 * 16)).map (tileVa (tileOp .plain .i8) tileState 16 16)) _ = none
      decide +kernel
    · decide +kernel
    · show State.poisonTrap tileState ((List.range (1 * 16)).map (tileVa (tileOp .plain .i8) tileState 16 16)) _ = none
      decide +kernel
    · show State.fillPending tileState ((List.range (1 * 16)).map (tileVa (tileOp .plain .i8) tileState 16 16)) = false
      decide +kernel
    · decide +kernel

/-- EngineFaultsHaltTheQueue: a shape of no rows; and a legal one at a scratchpad address one byte off. -/
theorem witness_tileFaults :
    let s := withRegs [(2, 0x1000)]
    let u := withRegs [(8, 1)]
    (∀ rows bytes stride, ¬ TileShapeOf (s.getReg 2) rows bytes stride) ∧ CanTrap s
    ∧ namesOk s.launch.header (.tld (tileOp .plain .i8)) = true
    ∧ QueueReady u .l (.tld (tileOp .plain .i8)) ∧ QueueReady u .s (.tst (tileOp .plain .i8))
    ∧ QueueReady u .s (.tacc (tileOp .plain .i32)) ∧ TileShapeOf (u.getReg 2) 16 128 128 ∧ (u.getReg 8).toNat % 16 ≠ 0 := by
  refine ⟨?_, ?_⟩
  · intro rows bytes stride h
    have hr : rows = 0 ∧ 0 < rows := by
      have h2 : (withRegs [(2, 0x1000)]).getReg 2 = 0x1000 := by decide +kernel
      unfold TileShapeOf at h
      rw [h2] at h
      simp at h
      omega
    omega
  · unfold CanTrap QueueReady TileShapeOf; and_intros <;> decide +kernel

/-! ## Hypotheses that are met: tensors and the matrix engine -/

/-- A descriptor of a 2 × 256 matrix of i8 at 0, whole on every device, each row one run of 256 bytes. -/
def matrixDesc : List Byte :=
  natToBytes 8 0 ++ [0x20, 2, 1, 0, 0, 0, 0, 0] ++ natToBytes 4 2 ++ natToBytes 4 256 ++ List.replicate 16 0
    ++ natToBytes 4 256 ++ natToBytes 4 1 ++ List.replicate 16 0 ++ natToBytes 4 63 ++ natToBytes 4 63 ++ List.replicate 56 0

/-- TensorResolution: a map without split dimensions on the smallest mesh; an index inside and one beyond. -/
theorem witness_tensorResolution :
    let t : TensorMap := ⟨{ Desc.ofBytes matrixDesc with layout := 0 }, [[], []]⟩
    Unsplit t ∧ 0 < (List.range 4).foldl (fun n a => n * axisSize 0 a) 1
    ∧ (∀ d < t.desc.ndim, 0 ≤ [(1 : Int), 255].getD d 0 ∧ [(1 : Int), 255].getD d 0 < ((t.desc.shape.getD d 0 : Nat) : Int))
    ∧ (∃ d < t.desc.ndim, [(1 : Int), 256].getD d 0 < 0 ∨ ((t.desc.shape.getD d 0 : Nat) : Int) ≤ [(1 : Int), 256].getD d 0) := by
  unfold Unsplit
  refine ⟨⟨by decide +kernel, ?_⟩, by decide +kernel, by decide +kernel, 1, by decide +kernel⟩
  intro d hd
  have h2 : d < 2 := hd
  match d, h2 with
  | 0, _ => rfl
  | 1, _ => rfl

/-- The core holds the lease, and its oldest format word is this; s1 is 0, s2 as given, s3 an accumulator at 8192. -/
def matrixState (word : BitVec 128) (s2 : Word) : State :=
  { withRegs [(2, s2), (3, 8192)] with
    fmt := [⟨0, false, word⟩], matrix := { MatrixState.reset with holder := some 0 } }

theorem decide_forall {n : Nat} {p : Nat → Bool} (h : (List.range n).all p = true) : ∀ i < n, p i = true :=
  fun i hi => List.all_eq_true.mp h i (List.mem_range.mpr hi)

/-- Rows of 16 bytes that lie one after the other from 0 in an empty scratchpad. -/
theorem operand_zero {s : State} (n : Nat) (hn : n ≤ 256) (hs : s.memory.scratch = []) (hp : s.memory.scrPoison = [])
    (hh : s.launch.header.scratch = 2 ^ 20) (hm : s.launch.task = 0) :
    OperandAt s 0 n 16 16 false (List.replicate (n * 16) 0) := by
  refine ⟨by simp, ?_⟩
  intro i hi
  refine ⟨i * 16, ⟨by decide, ?_, ?_, ?_⟩, ?_⟩
  · rw [hh]; omega
  · unfold scratchBase
    rw [if_pos (by omega), hm]
    simp
    omega
  · intro j _
    rw [hp]
    exact List.not_mem_nil
  · intro j hj
    rw [hs]
    rw [List.getD_eq_getElem?_getD, List.getElem?_replicate]
    split <;> rfl

/-- WeightsAndProducts: MLDB of 256 columns of depth 16, and MMA of 256 rows with them, of i8, with their format words. -/
theorem witness_weightLoads :
    let s := matrixState 0 0x100010
    let o := eop 0 1 2 .i8 0
    QueueReady s .c (.mldb o) ∧ s.launch.header.lease ≠ 0 ∧ LeaseHeld s ∧ FormatNext s ⟨0, false, 0⟩ []
    ∧ badForLoad (FormatWord.ofBits 0) = false ∧ (s.getReg 1).toNat % 2 ^ 32 = 0 ∧ (s.getReg 2).toNat = 16 + 16 * 2 ^ 16
    ∧ depthOk (FormatWord.ofBits 0).btype false (blockSize (FormatWord.ofBits 0)) 16 = true
    ∧ lineBytes (FormatWord.ofBits 0).btype false (blockSize (FormatWord.ofBits 0)) 16 = 16 ∧ strideOk 16 16 false = true
    ∧ OperandAt s 0 256 16 16 false (List.replicate (256 * 16) 0) := by
  refine ⟨by unfold QueueReady; decide +kernel, by decide, rfl, ?_, by decide, by decide, by decide, by decide, by decide,
    by decide, operand_zero 256 (by decide) rfl rfl rfl rfl⟩
  unfold FormatNext; and_intros <;> decide

theorem witness_matrixProducts :
    let s := { matrixState 0 0x100100 with matrix := { MatrixState.reset with
      holder := some 0, bufs := MatrixState.reset.bufs.set 1 ⟨some 0, 0, 16, 16, 0, []⟩ } }
    let o := { eop 3 1 2 .i8 0 with alt := true }
    QueueReady s .c (.mma o) ∧ LeaseHeld s ∧ FormatNext s ⟨0, false, 0⟩ []
    ∧ s.matrix.bufs[1]? = some ⟨some 0, 0, 16, 16, 0, []⟩ ∧ (some 0 : Option (BitVec 2)) = some (BitVec.ofNat 2 s.core.toNat)
    ∧ badForProduct (FormatWord.ofBits 0) (some (FormatWord.ofBits 0)) = false
    ∧ matClass (FormatWord.ofBits 0).atype = matClass (FormatWord.ofBits 0).btype
    ∧ (s.getReg 3).toNat % 2 ^ 32 = 8192 ∧ (s.getReg 2).toNat = 256 + 16 * 2 ^ 16
    ∧ depthOk (FormatWord.ofBits 0).atype false 32 16 = true ∧ strideOk 16 16 false = true
    ∧ (∀ r ∈ s.matrix.invalid, 8192 + 1024 * 256 ≤ r.1 ∨ r.1 + r.2 ≤ 8192)
    ∧ OperandAt s 0 256 16 16 false (List.replicate (256 * 16) 0) ∧ ScratchOk s 8192 (1024 * 256) 8192
    ∧ Mem.wf s.memory.scratch = true := by
  refine ⟨by unfold QueueReady; decide +kernel, rfl, ?_, rfl, by decide, by decide, by decide, by decide, by decide, by decide,
    by decide, by decide, operand_zero 256 (by decide) rfl rfl rfl rfl, ⟨by decide, by decide, by decide, ?_⟩, by decide⟩
  · unfold FormatNext; and_intros <;> decide
  · intro j _; exact List.not_mem_nil

/-- LeaseAndAccumulators: a lease held, one that the kernel does not declare, no format word; and the last accumulator row. -/
theorem witness_leaseAndAccumulators :
    let s := matrixState 0 1
    let u := withRegs [(3, 2 ^ 20 - 1024), (2, 1)]
    (∀ i ∈ [Instr.mlease (eop 0 0 0 .i8 0), .mrel (eop 0 0 0 .i8 0)], QueueReady s .c i)
    ∧ s.launch.header.lease ≠ 0 ∧ LeaseHeld s ∧ CanTrap bare ∧ namesOk bare.launch.header (.mlease (eop 0 0 0 .i8 0)) = true
    ∧ bare.launch.header.lease = 0 ∧ CanTrap running ∧ namesOk running.launch.header (.mma (eop 0 1 2 .i8 0)) = true
    ∧ running.queues.c.entries = [] ∧ running.queues.c.table = none ∧ (∀ f ∈ running.fmt, f.matched = true)
    ∧ QueueReady u .c (.mzero (eop 3 0 2 .i8 0)) ∧ (u.getReg 3).toNat % 2 ^ 32 = 2 ^ 20 - 1024 ∧ (2 ^ 20 - 1024) % 64 = 0
    ∧ (2 ^ 20 - 1024) / 2 ^ 23 % 2 = 0 ∧ (u.getReg 2).toNat % 2 ^ 16 = 1 ∧ (u.getReg 2).toNat < 2 ^ 32
    ∧ scratchBase u (2 ^ 20 - 1024) = some 0 ∧ (2 ^ 20 - 1024) % 2 ^ 20 + 1024 ≤ u.launch.header.scratch
    ∧ u.memory.scrPoison = [] := by
  unfold QueueReady LeaseHeld CanTrap; and_intros <;> decide +kernel

/-- ProductsAtMemory: the two rows of the matrix at 0 with one vector at 0 of the scratchpad, the results at 4096. -/
theorem witness_productsAtMemory :
    let s := { withRegs [(1, 0), (2, 0), (3, 4096), (4, 0x200000000)] with
      memory := { running.memory with descs := [⟨0, matrixDesc⟩] } }
    let o := eop 3 1 2 .bf16 (4 <<< 6)
    let t : TensorMap := ⟨Desc.ofBytes matrixDesc, [[], []]⟩
    QueueReady s .c (.gemvh o) ∧ Mem.wf s.memory.scratch = true ∧ s.launch.header.scratch ≤ 2 ^ 20
    ∧ o.imm.toNat % 8 + 1 = 1 ∧ (s.getReg (o.imm.extractLsb' 6 6)).toNat = 0 + 2 * 2 ^ 32
    ∧ (s.getReg o.d).toNat % 2 ^ 32 = 4096 ∧ (s.getReg o.b).toNat % 2 ^ 32 = 0
    ∧ s.memory.descs.find? (fun x => x.id = (s.getReg o.a).toNat % 4096) = some ⟨0, matrixDesc⟩ ∧ t.desc.ok = true
    ∧ gemvLayout t.desc = true ∧ (∀ i < 2, (t.dim i).kind ≠ 2)
    ∧ gemvRows t s.launch.mesh s.launch.rank4 0 2 = some [0, 256] ∧ t.desc.shape.getD 1 0 * t.desc.es = 256
    ∧ scratchBase s 4096 = some 0 ∧ scratchBase s 0 = some 0 ∧ 4096 + 36 ≤ s.launch.header.scratch ∧ s.memory.scrPoison = []
    ∧ s.memory.poison = [] ∧ s.memory.tlb = [⟨0, 0, 65536, 7⟩] ∧ (s.note [0, 256]).memory.tlb = [⟨0, 0, 65536, 7⟩]
    ∧ Leaf.mode 7 = 0 ∧ Leaf.pk 7 = false := by
  unfold QueueReady; and_intros <;> decide +kernel

theorem witness_productRows :
    let s := { withRegs [(1, 0), (2, 0), (3, 4096), (4, 0x200000000)] with
      memory := { running.memory with descs := [⟨0, matrixDesc⟩] } }
    ScratchOk s 4096 (32 * (2 - 1) + 4 * 1) 4096
    ∧ (∀ j < 1, ScratchOk s (0 + j * ((256 * 2 + 15) / 16 * 16)) (256 * 2) (j * 512))
    ∧ ∀ i < 2, ∀ j < 256, 256 * i + j < 2 ^ 48 ∧ [0, 256].getD i 0 + j = 256 * i + j
      ∧ (∀ s' ∈ [s, s.note [0, 256]], s'.locOf .load false true (256 * i + j) = .ok (256 * i + j))
      ∧ (∃ leaf size, s.leafOf (256 * i + j) = .ok (leaf, size) ∧ Leaf.mode leaf = 0 ∧ Leaf.pk leaf = false)
      ∧ s.stackWaits [256 * i + j] = false ∧ s.poisonTrap [256 * i + j] [256 * i + j] = none := by
  refine ⟨by unfold ScratchOk; and_intros <;> decide +kernel, ?_, ?_⟩
  · intro j hj
    have : j = 0 := by omega
    subst this
    unfold ScratchOk; and_intros <;> decide +kernel
  · intro i hi j hj
    have hp : ∀ i < 2, ∀ j < 256, running.poisonTrap [256 * i + j] [256 * i + j] = none := by decide +kernel
    have hg : ∀ i < 2, [0, 256].getD i 0 + j = 256 * i + j := by
      intro i hi
      match i, hi with
      | 0, _ => rfl
      | 1, _ => rfl
    refine ⟨by omega, hg i hi, ?_, ⟨7, 65536, page_leaf rfl rfl (by omega), rfl, rfl⟩,
      (stacks_ready (by decide) _).1, hp i hi j hj⟩
    intro s' h
    simp only [List.mem_cons, List.not_mem_nil, or_false] at h
    rcases h with rfl | rfl
    · exact page_loc rfl rfl (by omega) (by decide) false true
    · exact page_loc (by decide +kernel) (by decide +kernel) (by omega) (by decide) false true

/-! ## Hypotheses that are met: the Reel -/

/-- A recording of so many bytes of quota that holds one checkpoint without registers. -/
def recordingReel (quota : Nat) : ReelState :=
  let c := recordBytes 2 0 0 0 (List.replicate 24 0)
  { ReelState.reset with mode := .recording, quota := quota, frame := c, nrec := 1, pos := 16 + c.length }

/-- A tape of 64 bytes at 0 that has been sealed with that checkpoint. -/
def sealedState : State :=
  { running with
    reel := { recordingReel 64 with mode := .sealed }
    memory := { running.memory with home := Mem.writeBytes [] 0 ((recordingReel 64).closed true) } }

/-- Playback at the end of a tape of two checkpoints, a mask and a value. -/
def playingReel : ReelState :=
  { ReelState.reset with
    mode := .playing, quota := 64, cursor := 4, opening := some 1, forward := 2
    records := [⟨2, 0, 0, false, List.replicate 24 0⟩, ⟨2, 0, 0, false, List.replicate 24 0⟩, ⟨1, 0, 0, false, List.replicate 32 0⟩,
      ⟨0, 15, 0, false, List.replicate 256 7⟩] }

/-- A task with this Reel. -/
def withReel (r : ReelState) : State := { running with reel := r }

/-- ReelRecording: the smallest tape of two tracks on the page, with the registers of no mask in its checkpoint. -/
theorem witness_reelOpens :
    let s := { withRegs [(1, 0), (2, 4096)] with launch := { running.launch with header := { wideHeader with tape := 4096 } } }
    let o := eop 0 1 2 .i8 0
    QueueReady s .c (.rlopen o) ∧ s.reel.mode = .closed ∧ s.launch.header.tape ≠ 0
    ∧ s.launch.header.tape / 2 ^ (o.imm.toNat / 4 % 16) = 4096 ∧ (s.getReg o.a).toNat % 4096 = 0
    ∧ s.getReg o.b ≠ 0 ∧ (s.getReg o.b).toNat % 4096 = 0
    ∧ (∀ x, (0 ≤ x ∧ x < 0 + 4096) ∨ (o.imm.toNat % 4 = 0 ∧ 4096 ≤ x ∧ x < 4096 + 4096) →
        (∃ l, s.locOf .store true true x = .ok l)
        ∧ ∃ leaf size, s.leafOf x = .ok (leaf, size) ∧ Leaf.pk leaf = false ∧ (Leaf.mode leaf = 0 ∨ Leaf.mode leaf = 4))
    ∧ CheckpointIs s 0 0 0 (recordBytes 2 0 0 0 (natToBytes 8 8 ++ List.replicate 16 0))
    ∧ 16 + (recordBytes 2 0 0 0 (natToBytes 8 8 ++ List.replicate 16 0)).length ≤ min 4096 16384 := by
  refine ⟨by unfold QueueReady; decide +kernel, by decide, by decide, by decide, by decide, by decide, by decide, ?_,
    ⟨0, by decide, by decide +kernel, by decide +kernel⟩, by decide⟩
  intro x hx
  have : x < 65536 := by omega
  exact ⟨⟨x, page_loc rfl rfl this (by decide) true true⟩, 7, 65536, page_leaf rfl rfl this, rfl, .inl rfl⟩

theorem vElem_zero {s : State} (h : s.vregs = Vector.replicate 64 0) (r : Reg) (bits i : Nat) : vElem s r bits i = 0 := by
  have hb : ∀ p, vecBit s r p = false := by
    intro p
    unfold vecBit
    rw [h]
    rw [Vector.getD, Array.getD_eq_getD_getElem?, Vector.toArray_replicate, Array.getElem?_replicate]
    split <;> simp
  have hs : ∀ l : List Nat, (l.map fun _ => 0).sum = 0 := by
    intro l
    induction l with
    | nil => rfl
    | cons _ _ ih => simpa using ih
  unfold vElem
  simp [hb, hs]

/-- ReelRecording: a value, once dropped, a mask and a checkpoint that have room in the frame; and playback. -/
theorem witness_reelRecords :
    let s := withReel (recordingReel 16384)
    let u := withReel { recordingReel 16384 with pol := 1, drop := true }
    QueueReady s .c (.rlrec (eop 0 63 0 .i8 15)) ∧ s.reel.mode = .recording ∧ (List.replicate 256 (0 : Byte)).length = 256 * 2 ^ 0
    ∧ (∀ i < 256, ((List.replicate 256 (0 : Byte)).getD i 0).toNat = vElem s 63 8 i)
    ∧ FrameRoom s (valRecord 15 0 (List.replicate 256 0) s.reel.lastVals).length
    ∧ s.reel.start + 16 + s.reel.frame.length + (valRecord 15 0 (List.replicate 256 0) s.reel.lastVals).length
        ≤ 15 * s.reel.quota / 16
    ∧ (∀ x ∈ s.reel.lastVals, x.1 ≠ 15)
    ∧ QueueReady u .c (.rlrec (eop 0 63 0 .i8 15)) ∧ u.reel.pol = 1 ∧ u.reel.drop = true
    ∧ RecordIs 0 15 0 3 [] (recordBytes 0 15 0 3 []) ∧ FrameRoom u (recordBytes 0 15 0 3 []).length
    ∧ QueueReady s .c (.rlbr (eop 0 15 0 .i8 0)) ∧ FrameRoom s (maskRecord (s.kreg 15)).length
    ∧ QueueReady s .c (.rlmark (eop 0 0 0 .i8 0xFFF))
    ∧ CheckpointIs s 0 0xFFF 1 (recordBytes 2 0 0 0 (natToBytes 8 8 ++ List.replicate 8 0 ++ [0xFF, 0xF, 1, 0, 0, 0, 0, 0]))
    ∧ FrameRoom s 28
    ∧ (∀ i ∈ [Instr.rlrec (eop 0 63 0 .i8 15), .rlbr (eop 0 15 0 .i8 0), .rlmark (eop 0 0 0 .i8 0)],
        QueueReady (withReel playingReel) .c i) ∧ (withReel playingReel).reel.mode = .playing := by
  refine ⟨by unfold QueueReady; decide +kernel, by decide, by decide +kernel, ?_,
    by unfold FrameRoom; decide +kernel, by decide +kernel, by decide, by unfold QueueReady; decide +kernel, by decide, by decide,
    ⟨0, by decide, by decide, by decide⟩, by unfold FrameRoom; decide +kernel, by unfold QueueReady; decide +kernel,
    by unfold FrameRoom; decide +kernel, by unfold QueueReady; decide +kernel, ⟨0, by decide, by decide +kernel, by decide +kernel⟩,
    by unfold FrameRoom; decide +kernel, by unfold QueueReady; decide +kernel, by decide⟩
  intro i hi
  rw [vElem_zero rfl]
  rw [List.getD_eq_getElem?_getD, List.getElem?_replicate]
  simp [hi]

/-- ReelRecording: a mask for which a frame of 64 bytes has no room, another after it, and the closed frame on the page. -/
theorem witness_reelFrames :
    let s := withReel (recordingReel 48)
    let b := maskRecord (s.kreg 15)
    QueueReady s .c (.rlbr (eop 0 15 0 .i8 0)) ∧ ¬ FrameRoom s b.length ∧ s.reel.hasFrame 48 = true
    ∧ s.reel.frameEnd s.reel.start = 48 ∧ 48 + 16 + b.length ≤ s.reel.frameEnd 48 ∧ s.memory.wf = true
    ∧ gives (s.locsOf .store false false (bytesAt (s.reel.vaOf s.reel.start) (s.reel.closed false).length)) (bytesAt 0 48) = true
    ∧ gives (s.locsOf .store false false (bytesAt (s.reel.vaOf s.reel.start) (s.reel.closed true).length)) (bytesAt 0 48) = true
    ∧ (bytesAt 0 48).Nodup ∧ (∀ l ∈ bytesAt 0 48, l < 2 ^ 48) ∧ StacksReady s (bytesAt 0 48)
    ∧ QueueReady s .c (.rlseal (eop 0 0 0 .i8 0)) ∧ QueueReady s .c (.rlclose (eop 0 0 0 .i8 0)) := by
  unfold QueueReady FrameRoom; and_intros <;> first | exact stacks_ready (by decide) _ | decide +kernel

/-- ReelPlayback: the sealed tape is read; the value, the mask and the checkpoint that come next in reverse, and the mask next
forwards. -/
theorem witness_reelPlaysInReverse :
    let p := withReel playingReel
    let m := withReel { playingReel with cursor := 3 }
    let c := withReel { playingReel with cursor := 2 }
    QueueReady sealedState .c (.rlrev (eop 0 0 0 .i8 0)) ∧ sealedState.reel.mode = .sealed
    ∧ readTape sealedState sealedState.reel (2 * sealedState.reel.quota / 16384 + 4) 0 0 (some 0) ([], none)
        = ([⟨2, 0, 0, false, List.replicate 24 0⟩], none)
    ∧ QueueReady p .c (.rlpop (eop 63 0 0 .i8 15)) ∧ p.reel.dropped = false ∧ p.reel.cursor = 3 + 1
    ∧ p.reel.records[3]? = some ⟨0, 15, 0, false, List.replicate 256 7⟩
    ∧ QueueReady m .c (.rlbrp (eop 15 0 0 .i8 0)) ∧ m.reel.nextAt = 2 + 1
    ∧ m.reel.records[2]? = some ⟨1, 0, 0, false, List.replicate 32 0⟩
    ∧ QueueReady c .c (.rlrev (eop 0 0 0 .i8 0)) ∧ c.reel.nextAt = 1 + 1 ∧ c.reel.opening = some 1
    ∧ c.reel.records[1]? = some ⟨2, 0, 0, false, List.replicate 24 0⟩
    ∧ (ReelRecord.label ⟨2, 0, 0, false, List.replicate 24 0⟩) = 0 ∧ (c.reel.records[0]?).map (·.kind) = some 2
    ∧ QueueReady p .c (.rlchk (eop 0 15 0 .i8 0))
    ∧ p.reel.forwardMask = some (2, ⟨1, 0, 0, false, List.replicate 32 0⟩)
    ∧ bytesToNat (List.replicate 32 0) = (p.kreg 15).toNat := by
  unfold QueueReady; and_intros <;> decide +kernel

/-- ReelPlayback: at the value another slot is asked for, and a mask; at the mask a checkpoint, and another mask forwards. -/
theorem witness_reelDiverges :
    let p := withReel playingReel
    let k := { p with kregs := p.kregs.set 15 1 }
    p.reel.broken = none ∧ p.reel.next = some ⟨0, 15, 0, false, List.replicate 256 7⟩
    ∧ QueueReady p .c (.rlpop (eop 63 0 0 .i8 14)) ∧ QueueReady p .c (.rlbrp (eop 15 0 0 .i8 0))
    ∧ QueueReady p .c (.rlrev (eop 0 0 0 .i8 0)) ∧ QueueReady k .c (.rlchk (eop 0 15 0 .i8 0))
    ∧ k.reel.forwardMask = some (2, ⟨1, 0, 0, false, List.replicate 32 0⟩)
    ∧ bytesToNat (List.replicate 32 0) ≠ (k.kreg 15).toNat := by
  unfold QueueReady; and_intros <;> decide +kernel

/-- ReelPlayback: the status and a register of the segment's checkpoint. -/
theorem witness_reelStatus :
    (∀ imm ∈ [0, 0x40, 0x41, 63], QueueReady (withReel playingReel) .c (.rlstat (eop 0 0 0 .i8 imm)))
    ∧ (withReel playingReel).ret.length < 32 ∧ (withReel playingReel).reel.opening = some 1 := by
  unfold QueueReady; decide +kernel

/-! ## Hypotheses that are met: copies, streams, step tables, the helper and the Caller -/

/-- A template of one row of 16 bytes from the address itself to the scratchpad at 0. -/
def rowTemplate : Template :=
  { dirIn := true, far := 1, fgr := false, qnt := false, mc := false, scv := false, graph := 0, codeT := 0, srcT := 0, rm := 0
    sat := false, spec := false, mcg := 0, scope := 0, fbase := 0, soff := 0, n := #v[16, 1, 1, 1], fs := #v[0, 0, 0, 0]
    ts := #v[0, 0, 0] }

/-- The same task with that template, and with graphs, programs and terms declared. -/
def withImage : State :=
  { running with launch := { running.launch with
      header := { wideHeader with nfg := 64, ncp := 64, nct := 32, tape := 4096 }
      tables := ⟨[rowTemplate], [], [], [], []⟩ } }

/-- The copy that it makes with this tag. -/
def rowCopy (tag : BitVec 6) : CopyCmd :=
  { id := 0, tpl := rowTemplate, sa := 0, sb := 0, n3 := 1, es := 1, tag := tag, isn := 0, mcast := 0, helper := false, term := false
    started := false, moved := 0, ended := false, fault := none, left := 0, ws := [] }

theorem tags_free : ∀ n : Fin 64, (running.tags.out[n.val]'n.isLt) < 255 := by decide

theorem copyOk {s : State} (hl : s.launch = withImage.launch) (hc : s.channel = Channel.reset) (hg : s.grid = Farandole.reset)
    (ht : s.tags = running.tags) (hp : s.memory.scrPoison = []) (hi : s.isn = 0) (tag : BitVec 6) :
    CopyOk s 0 rowTemplate 0 0 0 tag (rowCopy tag) := by
  refine ⟨?_, ?_, by decide, fun h => absurd h (by decide), ?_, fun _ => rfl, fun h => absurd h (by decide), ?_, ?_, ?_, ?_⟩
  · rw [hl]; exact tag.isLt
  · rw [hl]; rfl
  · rw [hc, hi]; rfl
  · intro r hr
    have h0 : r = (0, 0, 0) := by
      have : copyRows (rowCopy tag) = [(0, 0, 0)] := rfl
      rw [this] at hr
      exact List.mem_singleton.mp hr
    subst h0
    refine ⟨0, show 0 < 16 by decide, ?_, ?_, ?_⟩
    · rw [hl]; show 0 + 16 ≤ 2 ^ 20; decide
    · unfold scratchBase
      rw [hl]; rfl
    · intro j _; rw [hp]; exact List.not_mem_nil
  · unfold copiesHeld routedCopies
    rw [hc, hg]; decide
  · intro h; exact absurd h (by decide)
  · simpa [ht] using tags_free ⟨tag.toNat, tag.isLt⟩

/-- CopiesAndStreamsAreIssued: the copy with the highest tag; a stream of the scratchpad's last word; FLOAD before and after its
graph is there; FQUI; and a kernel without tags. -/
theorem witness_copiesAndStreams :
    CopyOk withImage 0 rowTemplate (withImage.getReg 1) (withImage.getReg 2) (withImage.getReg 3) 63 (rowCopy 63)
    ∧ withImage.regsOk [1, 2, 3] = true ∧ (63 : BitVec 6).toNat < withImage.launch.header.nfg
    ∧ (2 ^ 20 - 4) % 4 = 0 ∧ ScratchOk withImage (2 ^ 20 - 4) 4 (2 ^ 20 - 4) ∧ withImage.grid.queue.length < 16
    ∧ withImage.tags.out.toList.getD 63 0 < 255 ∧ withImage.regOk 1 = true ∧ withImage.wait ≠ some .fload
    ∧ withImage.waitClk ≤ 2 ^ 32
    ∧ (let u : State := { withImage with wait := some .fload, grid := { Farandole.reset with floaded := some true } }
      u.wait = some .fload ∧ u.grid.floaded = some true)
    ∧ withImage.grid.queue = [] ∧ withImage.grid.run = none ∧ CanTrap bare ∧ bare.regsOk [56, 57, 58] = true
    ∧ bare.launch.header.ntag ≤ 0 := by
  refine ⟨copyOk rfl rfl rfl rfl rfl rfl 63, ?_⟩
  unfold ScratchOk CanTrap; and_intros <;> decide +kernel

/-- StepTables: the last 8 bytes of the scratchpad for no round and for the most; a table that runs; a base; a table one word too
long. -/
theorem witness_stepTables :
    let s := withRegs [(1, 2 ^ 32), (2, 2 ^ 32 - 1)]
    s.regOk 1 = true ∧ 8 * (2 ^ 17 - 1 : BitVec 17).toNat + 8 * ((0 : BitVec 8).toNat + 1) ≤ s.launch.header.scratch ∧ s.eager = true
    ∧ (∀ q ∈ [Queue.l, .c, .s], (s.queue q).entries = [] ∧ (s.queue q).table = none ∧ (s.queue q).halt = none
      ∧ QueueReady s q (.tblbase 1 7 q))
    ∧ (s.getReg 1).toNat % 2 ^ 32 = 0 ∧ (s.getReg 2).toNat % 2 ^ 32 = 2 ^ 32 - 1
    ∧ (running.setQueue .s { (running.queue .s) with table := some ⟨0, 1, 1, 0, 0, false, none⟩ }).queues.s.table
        = some ⟨0, 1, 1, 0, 0, false, none⟩
    ∧ CanTrap s ∧ s.launch.header.scratch < 8 * (2 ^ 17 - 1 : BitVec 17).toNat + 8 * ((1 : BitVec 8).toNat + 1) := by
  unfold CanTrap QueueReady; and_intros <;> decide +kernel

/-- CallerTerms: the highest term, with a word that is not bad. -/
theorem witness_callerTerms :
    withImage.regsOk [4, 5] = true ∧ withImage.caller.terms[31]? = some ⟨0, false, 0, false, false, none⟩
    ∧ Term.bad withImage.launch.header (withImage.getReg 5 ++ withImage.getReg 4) = none := by
  and_intros <;> decide +kernel

/-- A helper that runs at an address. -/
def helping (pc : Word) : Helper := { Helper.reset with running := true, pc := pc }

/-- HelperPrograms: an idle helper and one that runs, with a copy, a tag, loops that begin, go on and end, and a flag word at the end
of the scratchpad; and a helper that has faulted. -/
theorem witness_helperPrograms :
    let s := { withImage with helper := helping 4 }
    let f := { running with helper := { Helper.reset with fault := some ⟨.misalign, 0, 0⟩ } }
    withImage.regsOk [1, 2, 3] = true ∧ withImage.helper.fault = none ∧ withImage.helper.running = false
    ∧ (withImage.getReg 1).toNat % 4 = 0 ∧ CanTrap f ∧ f.helper.fault = some ⟨.misalign, 0, 0⟩ ∧ f.regsOk [1, 2, 3] = true
    ∧ HelperLive s ∧ (63 : BitVec 6).toNat < s.launch.header.ntag ∧ (∀ c ∈ s.helper.counters, c.1 ≠ s.helper.pc.toNat)
    ∧ (1 : BitVec 20) ≠ 0 ∧ (1 : BitVec 8) ≠ 0 ∧ s.helper.counters.length < 4
    ∧ (∀ n ∈ [0, 1], [(4, n)].find? (fun (c : Nat × Nat) => c.1 = s.helper.pc.toNat) = some (s.helper.pc.toNat, n))
    ∧ helperCopiesDone s = true ∧ ScratchOk s (4 * (2 ^ 18 - 1 : BitVec 18).toNat) 4 (2 ^ 20 - 4)
    ∧ Mem.wf s.memory.scratch = true := by
  unfold CanTrap ScratchOk HelperLive; and_intros <;> decide +kernel

theorem witness_helperCopy :
    let s := { withImage with helper := helping 4 }
    CopyOk s (0 : BitVec 5).toNat rowTemplate 0 0 0 63 (rowCopy 63) ∧ CopyOk s 0 rowTemplate (s.helper.offs[3]) 0 0 0 (rowCopy 0) :=
  ⟨copyOk rfl rfl rfl rfl rfl rfl 63, copyOk rfl rfl rfl rfl rfl rfl 0⟩

/-! ## Hypotheses that are met: groups and collectives -/

/-- A group of devices with a version. -/
def groupOf (ver : Word) (ranks : List (BitVec 14)) : Descriptor := { ver := ver, enc := false, ranks := ranks, clean := true }

/-- The bytes of the descriptor of device 0 alone stand at the start of the page; the launch belongs to a group. -/
def grouped : State :=
  { running with
    launch := { running.launch with group := 4096 }
    group := { running.group with cached := some (groupOf 0 [0, 1]) }
    memory := { running.memory with home := Mem.writeBytes [] 0 (descriptorBytes (groupOf 1 [0, 1])) } }

theorem witness_groupInstructions :
    grouped.regOk 1 = true ∧ grouped.launch.group ≠ 0 ∧ grouped.group.cached = some (groupOf 0 [0, 1]) ∧ GroupOk grouped 511
    ∧ grouped.group.round = none ∧ grouped.fabric.devid ∈ (groupOf 0 [0, 1]).ranks ∧ grouped.group.lock = none
    ∧ (groupOf 1 [0, 1]).ver = (groupOf 0 [0, 1]).ver + 1 ∧ wellFormedFor (groupOf 1 [0, 1]) grouped.fabric.devid = true
    ∧ grouped.sec.leaf < 2 ^ 20
    ∧ ((groupOf 0 [0, 1]).ranks.filter fun r => (groupOf 1 [0, 1]).ranks.contains r).filter (· ≠ grouped.fabric.devid) ≠ []
    ∧ CanTrap bare ∧ bare.regOk 56 = true ∧ bare.launch.header.nbar ≤ (0 : BitVec 24).toNat % 512 := by
  unfold GroupOk CanTrap; and_intros <;> decide +kernel

theorem home_bytes {s : State} (h : s.memory.tlb = [⟨0, 0, 65536, 7⟩]) (ha : s.launch.asn = 0) (va n : Nat) (hv : va + n ≤ 65536) :
    s.locsOf .load false false (bytesAt va n) = .ok (bytesAt va n) := by
  have key : ∀ l : List Nat, (∀ x ∈ l, x < 65536) → s.locsOf .load false false l = .ok l := by
    intro l
    induction l with
    | nil => intro _; rfl
    | cons x l ih =>
      intro hx
      unfold State.locsOf
      rw [page_loc h ha (hx x List.mem_cons_self) (by decide) false false]
      simp only [ih fun y hy => hx y (List.mem_cons_of_mem _ hy)]
  refine key _ ?_
  intro x hx
  simp only [bytesAt, List.mem_map, List.mem_range] at hx
  obtain ⟨i, hi, rfl⟩ := hx
  omega

/-- GroupInstructions: the descriptor in memory. -/
theorem witness_descriptor : DescriptorAt grouped (grouped.getReg 1).toNat (groupOf 1 [0, 1]) := by
  refine ⟨(bytesAt 0 64).map (Mem.read grouped.memory.home), (bytesAt 64 8).map (Mem.read grouped.memory.home),
    ⟨bytesAt 0 64, home_bytes rfl rfl 0 64 (by decide), ?_, rfl⟩, by decide +kernel, by decide +kernel, by decide, ?_, ?_⟩
  · show ReadsAtOnce grouped (bytesAt 0 64) (bytesAt 0 64)
    unfold ReadsAtOnce; and_intros <;> decide +kernel
  · intro s' h
    have hn : 4 * bytesToNat (((bytesAt 0 64).map (Mem.read grouped.memory.home)).drop 8 |>.take 4) = 8 := by decide +kernel
    rw [hn]
    simp only [List.mem_cons, List.not_mem_nil, or_false] at h
    rcases h with rfl | rfl
    · refine ⟨bytesAt 64 8, home_bytes rfl rfl 64 8 (by decide), ?_, rfl⟩
      show ReadsAtOnce grouped (bytesAt 64 8) (bytesAt 64 8)
      unfold ReadsAtOnce; and_intros <;> decide +kernel
    · refine ⟨bytesAt 64 8, home_bytes (by decide +kernel) (by decide +kernel) 64 8 (by decide), ?_, ?_⟩
      · show ReadsAtOnce (grouped.note (bytesAt 0 64)) (bytesAt 64 8) (bytesAt 64 8)
        unfold ReadsAtOnce; and_intros <;> decide +kernel
      · decide +kernel
  · decide +kernel

/-- GroupInstructions: a round in progress with the same hash. -/
theorem witness_sameRound :
    (⟨groupOf 1 [0, 1], proposalHash (groupOf 1 [0, 1]), [], [], [], 0⟩ : Round).hash = proposalHash (groupOf 1 [0, 1]) := rfl

/-- A slot of 16 units at 0 in s8 and none else, with a byte staged in it; programs are declared, in so many domain levels. -/
def collecting (ndom : Nat) : State :=
  { stagedByte.setReg 8 (1 <<< 52) with
    launch := { stagedByte.launch with header := { wideHeader with ncp := 64, ndom := ndom } } }

/-- CollectivesAndReshardsStart: that slot, the highest program and barrier; the launch without a group, of fewer levels than four, with
a group that names this device, and with one that does not. -/
theorem witness_collectiveStart :
    let o : AOp := ⟨8, 0, 0, 63, 511, 0⟩
    let s := collecting 4
    let l := { collecting 3 with launch := { (collecting 3).launch with group := 4096 } }
    let g := { s with launch := { s.launch with group := 4096 }, group := { s.group with cached := some (groupOf 0 [0, 1]) } }
    let a := { s with launch := { s.launch with group := 4096 }, group := { s.group with cached := some (groupOf 0 [1, 2]) } }
    CrunOk o s ∧ CrunOk o l ∧ CrunOk o g ∧ CrunOk o a ∧ s.memory.wf = true
    ∧ (∀ c ∈ s.memory.staging, c.1 < 2 ^ 48 ∧ s.stackFailed c.1 = false)
    ∧ InCommit s ((List.range 8).map fun i => s.getReg (8 + BitVec.ofNat 6 i)) 64 = true ∧ s.launch.group = 0
    ∧ l.launch.header.ndom ≠ 4 ∧ g.fabric.devid ∈ (groupOf 0 [0, 1]).ranks ∧ a.launch.group ≠ 0 ∧ a.launch.header.ndom = 4
    ∧ a.fabric.devid ∉ (groupOf 0 [1, 2]).ranks := by
  unfold CrunOk; and_intros <;> decide +kernel

/-- A descriptor of a 2 × 4 matrix of i8 at 0, whole on every device. -/
def smallDesc : List Byte :=
  natToBytes 8 0 ++ [0x20, 2, 1, 0, 0, 0, 0, 0] ++ natToBytes 4 2 ++ natToBytes 4 4 ++ List.replicate 16 0
    ++ natToBytes 4 4 ++ natToBytes 4 1 ++ List.replicate 16 0 ++ natToBytes 4 63 ++ natToBytes 4 63 ++ List.replicate 56 0

/-- The descriptor of the matrix at 4096 with its shadow in a second page, whose progress words stand at 8192. -/
def reshardable : State :=
  { withRegs [(2, 0x3000), (3, 0x3001)] with
    launch := { running.launch with ttab := 4096 }
    memory := { running.memory with
      tlb := [⟨0, 0, 65536, 7⟩, ⟨0, 524288, 65536, 0x800000007⟩]
      home := Mem.writeBytes (Mem.writeBytes [] 4096 smallDesc) 528384
        (natToBytes 8 1024 ++ natToBytes 8 8192 ++ smallDesc.drop 16) } }

/-- CollectivesAndReshardsStart: RSHD of that tensor with the highest barrier. -/
theorem witness_rshd :
    reshardable.regOk 1 = true ∧ 511 < reshardable.launch.header.nbar ∧ reshardable.launch.det = false
    ∧ (∀ r ∈ reshardable.reshards, r.tensor ≠ (reshardable.getReg 1).toNat % 4096)
    ∧ okWith (readResharding reshardable ((reshardable.getReg 1).toNat % 4096))
        (fun t s1 => okWith (startReshard s1 0 511 t.1 t.2) fun _ _ => true) = true := by
  and_intros <;> decide +kernel

/-- CollectivesAndReshardsStart: RSHQ of its plan at 0x3000, and at an address one byte off; a second RSHD. -/
theorem witness_rshq :
    reshardable.regsOk [1, 2] = true ∧ (reshardable.getReg 2).toNat % 64 = 0 ∧ (reshardable.getReg 3).toNat % 64 ≠ 0
    ∧ CanTrap reshardable ∧ reshardable.memory.wf = true
    ∧ okWith (readResharding reshardable 0) (fun t s1 =>
        let plan := planBytes reshardable.launch.mesh t.1 reshardable.launch.rank4
        let vas := (List.range plan.length).map fun i => (0x3000 + i) % 2 ^ 64
        gives (s1.locsOf .store false false vas) vas && decide (vas.Nodup) && vas.all (· < 2 ^ 48)
          && decide (s1.plat.ready = -1 ∧ s1.memory.reqs = [])) = true
    ∧ reshardable.wait = none ∧ (∃ r ∈ [(⟨0, 0, 511, [], [], [], 0⟩ : Reshard)], r.tensor = (reshardable.getReg 1).toNat % 4096) := by
  unfold CanTrap; and_intros <;> decide +kernel

/-- An instance of a program with two slots of 16 units at 0 and at 4096, on rank 0 of 2, that sends to itself and receives from
itself. -/
def instanceX : Instance :=
  { id := 5, prog := 5, at_ := 1, bar := 511, slots := #v[1 <<< 52, (1 <<< 52) + 4096, 0, 0, 0, 0, 0, 0], offs := Vector.replicate 8 0
    c := Vector.replicate 4 0, peerT := some 0, peerF := some 1, rank := 0, n := 2, loops := [(3, 1, 2)], pend := [], sent := []
    got := [], ws := [], after := 0 }

/-- Data for it from its peer, one unit. -/
def instanceState : State :=
  { running with
    input := { Input.none with index := 5 }
    coll := { running.coll with live := [instanceX], inbox := [⟨5, 1, 0, 0, 1, 0, 256, List.replicate 256 1⟩] } }

/-- CollectiveControlWords: the instance, a loop, each form of its peers, and nothing pending. -/
theorem witness_collectiveControl :
    InstanceAt instanceState instanceX ∧ instanceX.loops.find? (fun l => l.1 = (3 : BitVec 2).toNat) = some (3, 1, 2)
    ∧ (instanceX.rank + 1) % instanceX.n = 1 ∧ (1 + 1) % instanceX.n = instanceX.rank ∧ instanceX.rank ^^^ 1 = 1
    ∧ instanceX.rank < instanceX.n ∧ 1 < instanceX.n ∧ instanceX.pend = []
    ∧ (511 : BitVec 9).toNat < instanceState.launch.header.nbar := by
  refine ⟨⟨by decide, by decide, ?_⟩, ?_⟩
  · intro y hy _
    exact List.mem_singleton.mp hy
  · and_intros <;> decide +kernel

/-- CollectiveTransferWords: one unit from slot 0 to slot 1, with what the peer has sent; and all of slot 0; the peers on this device, and
with a group on two. -/
theorem witness_collectiveTransfer :
    InstanceAt instanceState instanceX ∧ WordUnits instanceX 0 1 1 ∧ WordUnits instanceX 0 0 16 ∧ SlotPart instanceX 0 1 0
    ∧ SlotPart instanceX 1 1 4096
    ∧ HomeBytes instanceState 0 (256 * 1) ((bytesAt 0 256).map (Mem.read instanceState.memory.home))
    ∧ (bytesAt 4096 256).Nodup ∧ (∀ y ∈ bytesAt 4096 256, y < 2 ^ 48) ∧ StacksReady instanceState (bytesAt 4096 256)
    ∧ (∀ s' ∈ [instanceState, instanceState.note (bytesAt 0 (256 * 1))],
        gives (s'.locsOf .store false false (bytesAt 4096 (256 * 1))) (bytesAt 4096 256) = true)
    ∧ instanceX.peerT = some 0 ∧ instanceX.peerF = some 1
    ∧ arrived instanceState 5 (some (1, pairCount instanceX.got 1)) = some (List.replicate 256 1)
    ∧ instanceState.memory.reqs = [] ∧ instanceState.launch.group = 0
    ∧ (let y := { instanceX with peerT := some 1 }
      let u := { instanceState with coll := { instanceState.coll with live := [y] } }
      let g := { u with
          launch := { u.launch with group := 4096 }, group := { u.group with cached := some (groupOf 0 [0, 1]) } }
      let l := { u with launch := { u.launch with header := { wideHeader with ndom := 3 } } }
      y ∈ u.coll.live ∧ y.peerT = some 1 ∧ g.launch.header.ndom = 4 ∧ g.group.cached ≠ none
        ∧ rankDevice g 1 ≠ g.fabric.devid.toNat ∧ rankDevice l 1 = l.fabric.devid.toNat) := by
  refine ⟨⟨by decide, by decide, fun y hy _ => List.mem_singleton.mp hy⟩, ?_, ?_, ?_, ?_,
    ⟨bytesAt 0 256, home_bytes rfl rfl 0 256 (by decide), ?_, rfl⟩, ?_⟩
  · unfold WordUnits; decide +kernel
  · unfold WordUnits; decide +kernel
  · unfold SlotPart; decide +kernel
  · unfold SlotPart; decide +kernel
  · unfold ReadsAtOnce; and_intros <;> decide +kernel
  · and_intros <;> first | exact stacks_ready (by decide) _ | decide +kernel

/-! ## Hypotheses that are met: events of the queues and of the waits -/

/-- An entry of an instruction at a stage. -/
def entryOf (i : Instr) (stage : Stage) (slot : Option Nat) : Entry := ⟨i, 0, 0, 0, running.regs, slot, none, stage, none⟩

/-- The queue of the event holds this entry, after so many clk of waiting. -/
def atWork (q : Queue) (e : Entry) (stall : Nat) : State :=
  { running.setQueue q { QueueState.reset with entries := [e], stall := stall } with input := { Input.none with queue := q } }

/-- MREL that waits for both neighbours and pushes to both. -/
def tokenMrel : Instr := .mrel { eop 0 0 0 .i8 0 with tok := ⟨true, true, true, true⟩ }

/-- QueueEvents: an entry with its tokens there; a table of one round from the operand and one of 2^32 − 1 from a register; and
an entry that has waited 2^20 clk for both of its tokens. -/
theorem witness_tokenPop :
    let s := { atWork .c (entryOf tokenMrel .pop none) 0 with
      queues := { (atWork .c (entryOf tokenMrel .pop none) 0).queues with lc := 1, sc := 15 } }
    let u := atWork .c (entryOf tokenMrel .pop none) (2 ^ 20)
    let e := entryOf (.tblrun 0 0 0 0 .l) .pop none
    AtWork s .c (entryOf tokenMrel .pop none) [] ∧ (tokensOf tokenMrel).wp = true ∧ (tokensOf tokenMrel).wn = true
    ∧ TokensHere s .c tokenMrel
    ∧ AtWork (atWork .l e 0) .l e [] ∧ (if (0 : Reg) = 0 then (0 : BitVec 6).toNat + 1 else (e.reg 0).toNat % 2 ^ 32) ≠ 0
    ∧ AtWork u .c (entryOf tokenMrel .pop none) [] ∧ u.status ≠ .killed ∧ 2 ^ 20 ≤ (u.queue .c).stall ∧ u.fifo (prevQ .c) .c = 0
    ∧ u.fifo (nextQ .c) .c = 0 := by
  unfold AtWork QueueLive TokensHere; and_intros <;> decide

/-- QueueEvents: a KPOPC that has run, with its place in the return queue, and an entry that has both pushes left. -/
theorem witness_entryFinish :
    let e := entryOf (.kset (eop 1 0 0 .i8 0)) .run none
    let s := atWork .c e 0
    AtWork s .c e [] ∧ (bodyOf e.instr).map (·.1) = some .c
    ∧ okWith (runKset (eop 1 0 0 .i8 0) e s) (fun _ u => decide (u.queues = s.queues)) = true
    ∧ s.fifo .c (nextQ .c) < 15 ∧ s.fifo .c (prevQ .c) < 15
    ∧ AtWork (atWork .c (pushing true true) 0) .c (pushing true true) [] ∧ (pushing true true).stage = .push true true := by
  unfold AtWork QueueLive; and_intros <;> decide

/-- The bytes of an instruction's words. -/
def wordBytes (i : Instr) : List Byte := ((encode i).getD []).flatMap fun w => natToBytes 4 w

/-- A KSET that waits for a token of its previous queue. -/
def tokenKset : Instr := .kset { eop 1 0 0 .i8 0 with tok := ⟨true, false, false, false⟩ }

/-- A table of one micro-order, that KSET, at the head of the C queue, with what it runs and the tokens of the L queue. -/
def tableState (cur : Option Entry) (lc : Nat) : State :=
  let s := atWork .c (entryOf (.tblrun 0 0 0 0 .c) .run none) 0
  let u := s.setQueue .c { (s.queue .c) with table := some ⟨0, 1, 1, 0, 0, false, cur⟩ }
  { u with
    memory := { s.memory with scratch := Mem.writeBytes [] 0 (wordBytes tokenKset) }, queues := { u.queues with lc := lc } }

/-- The micro-order at a stage. -/
def microKset (stage : Stage) : Entry := { entryOf tokenKset stage none with micro := some ⟨0, 0, 1⟩ }

/-- QueueEvents: the micro-order at the start of its table. -/
theorem witness_microOrder :
    QueueLive (tableState none 0) .c
    ∧ ((tableState none 0).queue .c).table = some ⟨0, 1, 1, 0, 0, false, none⟩
    ∧ ((tableState none 0).queue .c).entries = [entryOf (.tblrun 0 0 0 0 .c) .run none]
    ∧ okWith ((tableState none 0).readScr (0 + 8 * 0) 8) (fun bs _ =>
        match decodeWords (bytesToNat (bs.take 4)) (bytesToNat (bs.drop 4)) with
        | .ok i => decide (i = tokenKset)
        | .error _ => false) = true
    ∧ (bodyOf tokenKset).map (·.1) = some .c := by
  unfold QueueLive; and_intros <;> decide +kernel

/-- QueueEvents: that micro-order when its token is there, and when it has taken it and starts. -/
theorem witness_microStarts :
    let s := tableState (some (microKset .pop)) 1
    let v := tableState (some (microKset .start)) 0
    AtMicro s .c (entryOf (.tblrun 0 0 0 0 .c) .run none) (microKset .pop) [] ⟨0, 1, 1, 0, 0, false, some (microKset .pop)⟩
    ∧ AtMicro v .c (entryOf (.tblrun 0 0 0 0 .c) .run none) (microKset .start) [] ⟨0, 1, 1, 0, 0, false, some (microKset .start)⟩
    ∧ TokensHere s .c tokenKset ∧ OneQueue s v .c ∧ TokensTaken s v .c tokenKset ∧ MicroBinds v tokenKset none v := by
  refine ⟨by unfold AtMicro QueueLive; and_intros <;> decide +kernel, by unfold AtMicro QueueLive; and_intros <;> decide +kernel,
    by unfold TokensHere; decide +kernel, ⟨rfl, ?_, rfl, rfl⟩, ?_,
    by decide +kernel, by decide +kernel, by decide +kernel, by decide +kernel, none, rfl, by decide +kernel⟩
  · intro p hp
    cases p
    · rfl
    · exact absurd rfl hp
    · rfl
  · intro a b
    cases a <;> cases b <;> decide +kernel

/-- A queue that is halted at an entry with this cause, and QSEL naming it. -/
def haltedState (q : Queue) (c : Cause) (order : BitVec 2) : State :=
  let s := atWork q (entryOf tokenMrel .run none) 0
  let t := s.setQueue q { (s.queue q) with halt := some ⟨⟨c, 0, 0⟩, 0, 0, 0, none⟩ }
  { t with queues := { t.queues with qsel := order } }

/-- QueueEvents: a halted C queue that QSEL names, with room for its pushes; alone, at a level that the trap admits; and a wait of
2^32 clk. -/
theorem witness_halts :
    let s := haltedState .c .misalign 1
    s.queues.qsel.toNat = 1 ∧ (s.queue .c).halt = some ⟨⟨.misalign, 0, 0⟩, 0, 0, 0, none⟩ ∧ (s.queue .c).table = none
    ∧ (s.queue .c).entries = [entryOf tokenMrel .run none] ∧ s.fifo .c (nextQ .c) < 15 ∧ s.fifo .c (prevQ .c) < 15
    ∧ s.status = .running ∧ (∀ p ∈ [Queue.l, .s], (s.queue p).halt = none) ∧ s.trap.tl.val ≤ 0 ∧ CanTrap s
    ∧ (haltedState .l .tokstarve 0).queues.qsel.toNat = 0 ∧ (haltedState .s .tokstarve 2).queues.qsel.toNat = 2
    ∧ (let u : State := { running with waitClk := 2 ^ 32 + 1 }; u.status = .running ∧ 2 ^ 32 < u.waitClk ∧ CanTrap u) := by
  unfold CanTrap; and_intros <;> decide

/-- QueueEvents: the array free in an open slot, for a reload while a core of lower precedence waits, and for an MLEASE; and in the
core's own slot while all the others wait. -/
theorem witness_leaseGrant :
    let r : State := { running with
      status := .leaseWait, matrix := { MatrixState.reset with reload := true, last := 2, asking := [1] } }
    let m := atWork .c (entryOf (.mlease (eop 0 0 0 .i8 0)) .run none) 0
    let o := { m with matrix := { MatrixState.reset with slots := Vector.replicate 16 0, asking := [1, 2, 3] } }
    InTurn r (coreRank r) ∧ r.status = .leaseWait ∧ r.matrix.reload = true ∧ (∀ n < 2, (weightBuf r n).owner ≠ some (coreRank r))
    ∧ InTurn m (coreRank m) ∧ InTurn o (coreRank o)
    ∧ AtWork { m with input := { m.input with queue := .c } } .c (entryOf (.mlease (eop 0 0 0 .i8 0)) .run none) [] := by
  unfold AtWork QueueLive
  refine ⟨⟨rfl, 4, ?_⟩, ?_, ?_, ?_, ⟨rfl, 4, ?_⟩, ⟨rfl, 0, ?_⟩, ?_⟩ <;> decide +kernel

/-- A block of one line whose fill is open, with some poisoned units and a unit of another device on its way. -/
def filling (poison : List Nat) : State :=
  { running with
    input := { Input.none with index := 3 }
    memory := { running.memory with
      blocks := [⟨3, 63, 0, 1, true, false, [0]⟩], poison := poison
      reqs := [{ id := 0, loc := 2 ^ 48 + 128, va := 0, op := .read false, slot := none, sent := true }] } }

/-- QueueEvents: a fill that ends, of a block that is whole, and of one whose last unit is poisoned. -/
theorem witness_blockFill :
    let b : Block := ⟨3, 63, 0, 1, true, false, [0]⟩
    b ∈ (filling []).memory.blocks ∧ b.id = (filling []).input.index ∧ b.open_ = true
    ∧ (∀ x ∈ (filling []).memory.blocks, x.id = b.id → x = b) ∧ (filling []).stackWaits b.locs = false
    ∧ (∀ r ∈ (filling []).memory.reqs, r.op = .read false → ∀ l ∈ b.locs, r.loc / 128 ≠ peerOf l / 128)
    ∧ (∀ i < 128, (filling []).poisoned i = false ∧ (filling []).stackFailed i = false) ∧ (filling []).memory.failed = []
    ∧ (filling [64]).poisoned 127 = true := by
  and_intros <;> decide +kernel

/-- The state with this instruction at its pc. -/
def fetching (i : Instr) (s : State) : State :=
  { s with
    pc := 16
    memory := { s.memory with home := Mem.writeBytes [] 16 (wordBytes i), snap := Mem.writeBytes [] 16 (wordBytes i) } }

/-- QueueEvents: a WAITA whose first line has changed, one whose deadline has come, and a WAITT whose time has come. -/
theorem witness_sleeps :
    let s := fetching (.waita 1 4 8) (watching 1 0 0)
    let u := fetching (.waita 1 4 8) (watching 0 9 9)
    let t := fetching (.waitt 1) running
    okWith (fetchWords s) (fun w _ => match decodeWords w.1 w.2 with
      | .ok i => decide (i = .waita 1 4 8) | .error _ => false) = true
    ∧ s.regsOk [1, 4, 5, 6, 7, 8] = true ∧ s.wait = some (.waita [some 1, none, none, none])
    ∧ s.lineCount (State.physOf 129) ≠ 1 ∧ u.lineCount (State.physOf 129) = 0 ∧ u.getReg 8 ≠ 0
    ∧ (u.getReg 8).toNat ≤ u.device.time ∧ u.input.wake ≠ .spurious
    ∧ okWith (fetchWords t) (fun w _ => match decodeWords w.1 w.2 with
      | .ok i => decide (i = .waitt 1) | .error _ => false) = true
    ∧ t.status = .running ∧ t.regsOk [1] = true ∧ (t.getReg 1).toNat ≤ t.device.time := by
  and_intros <;> decide

/-! ## Hypotheses that are met: events of the engines -/

/-- A cell of i32 at (0, 0) that takes its inputs from the cell at (0, 1). -/
def cellOf (op : Nat) (p0 p1 : Lane32) : Cell :=
  { row := 0, col := 0, op := op, inap := false, inar := 0, inac := 1, inav := true, inbr := 0, inbc := 1, inbv := true, ot := 2
    inbp := false, p0 := p0, p1 := p1, p2 := 0 }

/-- A stream of this cell and of its producer, which has ended. -/
def runOf (c : CellRun) : StreamRun :=
  { stream := ⟨0, .fst 0 4 0, 63, 0, false⟩, input := [], pos := 1, idle := 2 ^ 20, dst := []
    cells := [c, { CellRun.fresh { cellOf 14 0 0 with col := 1 } with done := true }] }

/-- A task whose grid runs that stream. -/
def gridState (c : CellRun) : State := { running with grid := { Farandole.reset with run := some (runOf c) } }

/-- EngineEvents: a formed element; ADD of the greatest value and 1; PASS; SINK to the last word of the scratchpad. -/
theorem witness_cells :
    let o := { CellRun.fresh (cellOf 5 0 0) with out := [7] }
    let a := { CellRun.fresh (cellOf 5 0 0) with a := [2 ^ 32 - 1], b := [1] }
    let p := { CellRun.fresh (cellOf 14 0 0) with a := [5] }
    let k := { CellRun.fresh (cellOf 16 1 (2 ^ 20 - 4)) with a := [5] }
    (gridState o).grid.run = some (runOf o) ∧ (runOf o).ending = none ∧ (runOf o).cells[(gridState o).input.index]? = some o ∧ o.done = false
    ∧ hasRoom (runOf o) o = true
    ∧ (runOf a).cells[(gridState a).input.index]? = some a ∧ a.out = [] ∧ a.cell.op = 5 ∧ a.cell.primary = false
    ∧ a.cell.ty.isInt = true ∧ a.cell.p0.toNat / 4 % 2 = 0 ∧ 2 ^ 32 - 1 < 2 ^ (typeA (runOf a) a).bits
    ∧ typeA (runOf a) a = a.cell.ty ∧ hasRoom (runOf a) a = true
    ∧ p.cell.op = 14 ∧ p.cell.primary = false ∧ hasRoom (runOf p) p = true
    ∧ k.cell.op = 16 ∧ k.cell.primary = false ∧ k.cell.p0.toNat % 2 = 1 ∧ Mem.wf (gridState k).memory.scratch = true
    ∧ k.cell.p1.toNat + k.made * ((typeA (runOf k) k).bits / 8) < 2 ^ 32
    ∧ ScratchOk (gridState k) (k.cell.p1.toNat + k.made * ((typeA (runOf k) k).bits / 8)) ((typeA (runOf k) k).bits / 8)
        (2 ^ 20 - 4) := by
  unfold ScratchOk; and_intros <;> decide

/-- A task with one graph, whose checksum is right; its FLOAD waits at the head, or a stream does. -/
def graphState (flag : Bool) (misses : Nat) (fload : Option (Nat × Nat)) : State :=
  { running with
    input := { Input.none with flag := flag }
    launch := { running.launch with tables := ⟨[], [⟨planeCrc [cellOf 5 0 0], [cellOf 5 0 0]⟩], [], [], []⟩ }
    grid := { Farandole.reset with
      queue := [⟨0, .fst 0 4 0, 63, 0, false⟩], fload := fload, misses := misses
      resident := some (0, [cellOf 5 0 0], planeCrc [cellOf 5 0 0]) } }

theorem witness_graphs :
    planeCrc (graphOf (graphState false 0 (some (0, 0))) 0).cells = (graphOf (graphState false 0 (some (0, 0))) 0).crc
    ∧ (graphState false 0 (some (0, 0))).input.flag = false ∧ (graphState true 1 (some (0, 0))).input.flag = true
    ∧ (graphState true 1 (some (0, 0))).grid.misses < 2 ∧ 2 ≤ (graphState true 2 (some (0, 0))).grid.misses
    ∧ (graphState false 0 none).grid.run = none ∧ (graphState false 0 none).grid.fload = none
    ∧ (graphState false 0 none).grid.queue = ⟨0, .fst 0 4 0, 63, 0, false⟩ :: []
    ∧ isResident (graphState false 0 none) 0 = true := by
  refine ⟨?_, rfl, rfl, by decide, by decide, rfl, rfl, rfl, ?_⟩ <;> simp [graphState, graphOf, isResident]

/-- EngineEvents: a stream whose cell is done; and one whose ADD has no operand for 2^20 clk. -/
theorem witness_streamEnds :
    streamOver (runOf { CellRun.fresh (cellOf 5 0 0) with done := true }) = true
    ∧ 2 ^ 20 ≤ (runOf (CellRun.fresh (cellOf 5 0 0))).idle
    ∧ (∀ i < (runOf (CellRun.fresh (cellOf 5 0 0))).cells.length,
        fireCell (gridState (CellRun.fresh (cellOf 5 0 0))) (runOf (CellRun.fresh (cellOf 5 0 0))) i = none)
    ∧ gateWaits (gridState (CellRun.fresh (cellOf 5 0 0))) (runOf (CellRun.fresh (cellOf 5 0 0))) = false
    ∧ streamOver (runOf (CellRun.fresh (cellOf 5 0 0))) = false := by
  refine ⟨by decide, by decide, ?_, by decide, by decide⟩
  intro i hi
  have h2 : i < 2 := hi
  match i, h2 with
  | 0, _ => rfl
  | 1, _ => rfl

/-- A term word: sources A and B, combination, count, action kind, number, tag, and operand. -/
def termWord (ska sna skb comb count tk tn tg rearm arg : Nat) : BitVec 128 :=
  BitVec.ofNat 128 (ska + sna * 2 ^ 3 + skb * 2 ^ 12 + comb * 2 ^ 24 + count * 2 ^ 25 + tk * 2 ^ 41 + tn * 2 ^ 44 + tg * 2 ^ 53
    + rearm * 2 ^ 59 + arg * 2 ^ 64)

/-- A task whose term 31 has this word, is armed, and has this action pending; the event names it. -/
def termState (w : BitVec 128) (pending : Bool) : State :=
  { withImage with
    input := { Input.none with index := 31 }
    caller := ⟨Vector.replicate 32 ⟨w, true, 0, false, false, if pending then some w else none⟩, [⟨1, 5, 0⟩]⟩ }

/-- EngineEvents: a term that counts the pulses of tag 5 singly, and one that takes it with another as a pair. -/
theorem witness_termsCount :
    let s := termState (termWord 1 5 0 0 1 0 0 0 1 0) false
    let u := termState (termWord 1 5 2 1 1 0 0 0 0 0) false
    s.caller.terms[31]? = some ⟨termWord 1 5 0 0 1 0 0 0 1 0, true, 0, false, false, none⟩
    ∧ Term.ska (termWord 1 5 0 0 1 0 0 0 1 0) ≠ 0
    ∧ (∃ p ∈ s.caller.pulses, p.kind = Term.ska (termWord 1 5 0 0 1 0 0 0 1 0) ∧ p.num = Term.sna (termWord 1 5 0 0 1 0 0 0 1 0))
    ∧ Term.comb (termWord 1 5 0 0 1 0 0 0 1 0) = false
    ∧ u.caller.terms[31]? = some ⟨termWord 1 5 2 1 1 0 0 0 0 0, true, 0, false, false, none⟩
    ∧ Term.comb (termWord 1 5 2 1 1 0 0 0 0 0) = true ∧ 0 < Term.count (termWord 1 5 2 1 1 0 0 0 0 0) := by
  and_intros <;> decide +kernel

/-- EngineEvents: a pending copy, stream of the scratchpad's last word, helper program, arrival and RDY. -/
theorem witness_callerActions :
    (∀ tk ∈ [0, 1, 2, 3, 4, 7], (termState (termWord 1 5 0 0 1 tk 0 63 1 (2 ^ 20 - 4 + 4 * 2 ^ 20)) true).caller.terms[31]?
        = some ⟨termWord 1 5 0 0 1 tk 0 63 1 (2 ^ 20 - 4 + 4 * 2 ^ 20), true, 0, false, false,
            some (termWord 1 5 0 0 1 tk 0 63 1 (2 ^ 20 - 4 + 4 * 2 ^ 20))⟩
      ∧ Term.tk (termWord 1 5 0 0 1 tk 0 63 1 (2 ^ 20 - 4 + 4 * 2 ^ 20)) = tk)
    ∧ (let w := termWord 1 5 0 0 1 1 0 63 1 (2 ^ 20 - 4 + 4 * 2 ^ 20)
      let s := termState w true
      s.input.index = (31 : BitVec 5).toNat ∧ Term.arg w % 2 ^ 20 = 2 ^ 20 - 4 ∧ Term.arg w / 2 ^ 20 % 2 ^ 20 = 4 ∧ Term.tg w % 64 = 63
      ∧ 63 < s.launch.header.ntag ∧ Term.tn w < s.launch.header.nfg ∧ ScratchOk s (2 ^ 20 - 4) 4 (2 ^ 20 - 4)
      ∧ s.grid.queue.length < 16 ∧ s.tags.out.toList.getD 63 0 < 255 ∧ Term.arg w % 4 = 0 ∧ s.helper.running = false
      ∧ s.helper.fault = none)
    ∧ Term.tn (termWord 1 5 0 0 1 0 0 63 1 0) = 0 ∧ Term.arg (termWord 1 5 0 0 1 0 0 63 1 0) = 0
    ∧ BitVec.ofNat 6 (Term.tg (termWord 1 5 0 0 1 0 0 63 1 0)) = 63 := by
  unfold ScratchOk; and_intros <;> decide +kernel

theorem witness_callerCopy :
    CopyOk (termState (termWord 1 5 0 0 1 0 0 63 1 0) true) 0 rowTemplate 0 0 0 63 (rowCopy 63) :=
  copyOk rfl rfl rfl rfl rfl rfl 63

/-- A copy of that template in a direction that has started, and the event that moves its next unit. -/
def movingCopy (dirIn ended : Bool) : CopyCmd :=
  { rowCopy 63 with tpl := { rowTemplate with dirIn := dirIn }, started := true, left := 16, ended := ended }

def copyState (dirIn ended : Bool) : State :=
  { withImage with
    input := { Input.none with index2 := 1 }, channel := { Channel.reset with cmds := [movingCopy dirIn ended], nextId := 1 } }

/-- The virtual addresses of a unit. -/
def unitVas (u : List FarByte) : Option (List Nat) := u.mapM fun f => match f with | .va a => some a | _ => none

theorem witness_copyNamed (dirIn ended : Bool) :
    movingCopy dirIn ended ∈ (copyState dirIn ended).channel.cmds ∧ (movingCopy dirIn ended).id = (copyState dirIn ended).input.index
    ∧ (∀ x ∈ (copyState dirIn ended).channel.cmds, x.id = (movingCopy dirIn ended).id → x = movingCopy dirIn ended)
    ∧ (copyState dirIn ended).memory.reqs = [] ∧ (copyState dirIn ended).memory.wf = true
    ∧ (movingCopy dirIn ended).fault = none ∧ (movingCopy dirIn ended).started = true :=
  ⟨List.mem_singleton.mpr rfl, rfl, fun _ h _ => List.mem_singleton.mp h, rfl, rfl, rfl, rfl⟩

/-- What the addresses of a unit leave of the state. -/
theorem witness_copyKept (dirIn : Bool) :
    (match copyFarBytes (copyState dirIn false) (movingCopy dirIn false) with
    | .ok _ v => v = { copyState dirIn false with memory := { v.memory with home := (copyState dirIn false).memory.home } }
    | _ => False) := by
  exact Eq.refl _

/-- EngineEvents: the one unit of an incoming copy, its addresses, and its places in scratchpad. -/
theorem witness_copyIn :
    okWith (copyFarBytes (copyState true false) (movingCopy true false)) (fun far v =>
      decide (v.memory.scratch = (copyState true false).memory.scratch)
      && (match ((copyScrBytes (movingCopy true false)).zip far).splitBy (fun x y => x.2.joins y.2) with
        | [u] => decide (unitVas (u.map (·.2)) = some (bytesAt 0 16))
          && (List.range 16).all fun i => decide (((copyState true false).scrKey (u.getD i (0, .zero)).1).toOption = some i)
        | _ => false)
      && gives (v.locsOf .load true false (bytesAt 0 16)) (bytesAt 0 16)) = true := by decide +kernel

/-- EngineEvents: the one unit of an outgoing copy, whose bytes are those of an empty scratchpad. -/
theorem witness_copyOut :
    okWith (copyFarBytes (copyState false false) (movingCopy false false)) (fun far v =>
      (match (copyOut v (movingCopy false false) far).splitBy (fun x y => x.1.joins y.1) with
        | [u] => decide (unitVas (u.map (·.1)) = some (bytesAt 0 16))
          && u.all fun p => match p.2 with | .ok b => decide (b = 0) | .error _ => false
        | _ => false)
      && gives (v.locsOf .store true false (bytesAt 0 16)) (bytesAt 0 16)) = true := by decide +kernel

/-- EngineEvents: a copy that has ended without a fault and with one, and whose writes have been answered; and one whose write has left,
and that no scope or cluster scope makes wait for more. -/
theorem witness_copyPublished :
    let c := movingCopy false true
    let f := { c with fault := some ⟨.xlate, 1, 0⟩ }
    let q : RemoteReq := { id := 0, loc := 2 ^ 48, va := 0, op := .write [1], slot := none, sent := true, owner := .copy 0 }
    let d := { c with tpl := { c.tpl with scv := true, scope := 1 } }
    c.ended = true ∧ c.fault = none ∧ CopyPublished (copyState false true) c ∧ f.fault = some ⟨.xlate, 1, 0⟩
    ∧ CopyPublished { copyState false true with memory := { running.memory with reqs := [q] } } c
    ∧ CopyPublished { copyState false true with memory := { running.memory with reqs := [q] } } d := by
  refine ⟨rfl, rfl, ?_, rfl, ?_, ?_⟩ <;> intro r hr
  · exact absurd hr List.not_mem_nil
  · rw [List.mem_singleton.mp hr]
    exact fun _ => ⟨rfl, ⟨[1], rfl, by decide⟩, fun h => absurd h (by decide)⟩
  · rw [List.mem_singleton.mp hr]
    exact fun _ => ⟨rfl, ⟨[1], rfl, by decide⟩, fun _ => by decide⟩

/-- The instance with a receive from rank 1 that no data has come for, or with data for rank 1 that have no credit, 100 ms later. -/
def waitingInstance (pend : Bool) : State :=
  let t : Transfer := { sa := none, sb := some (0, 256), rop := none, dst := none, src := some (1, 1), since := 0 }
  let d : RemoteReq := { id := 0, loc := 2 ^ 48, va := 0, op := .data ⟨5, 0, 1, 0, 1, 0, 1, [7]⟩, slot := none, sent := false, owner := .coll 5 }
  { instanceState with
    coll := { instanceState.coll with live := [{ instanceX with pend := if pend then [t] else [] }] }
    memory := { running.memory with reqs := if pend then [] else [d] }
    device := { running.device with time := 100000000 } }

/-- EngineEvents: both, and an instance that learns of an abort. -/
theorem witness_instancesAbort :
    InstanceAt instanceState instanceX
    ∧ (∀ p, ∃ x, InstanceAt (waitingInstance p) x ∧ x.id = 5
        ∧ (p = true → ∃ tr ∈ x.pend, tr.asked = none ∧ tr.src = some (1, 1) ∧ arrived (waitingInstance p) 5 (some (1, 1)) = none
          ∧ tr.since + 100000000 ≤ (waitingInstance p).device.time)
        ∧ (p = false → ∃ q ∈ (waitingInstance p).memory.reqs, q.owner = .coll 5 ∧ isData q.op = true ∧ q.sent = false
          ∧ q.at_ + 100000000 ≤ (waitingInstance p).device.time)) := by
  refine ⟨⟨by decide, by decide, fun y hy _ => List.mem_singleton.mp hy⟩, fun p => ⟨_, ⟨List.mem_singleton.mpr rfl, rfl,
    fun y hy _ => List.mem_singleton.mp hy⟩, rfl, ?_, ?_⟩⟩ <;> rintro rfl
  · exact ⟨_, List.mem_singleton.mpr rfl, rfl, rfl, by decide, by decide⟩
  · exact ⟨_, List.mem_singleton.mpr rfl, rfl, rfl, rfl, by decide⟩

/-- That reshard with its one piece to do, or with none, 100 ms after it began to wait; the event names its tensor or its number. -/
def landing (todo : List Nat) (index : Nat) : State :=
  { reshardable with
    reshards := [⟨0, reshardId 0 0, 511, todo, [], [], 0⟩], input := { Input.none with index := index }
    device := { running.device with time := 100000000 } }

/-- EngineEvents: the reshard by its tensor and by its number, on the one device of its mesh. -/
theorem witness_reshardNamed :
    let r : Reshard := ⟨0, reshardId 0 0, 511, [0], [], [], 0⟩
    ReshardAt (landing [0] 0) r ∧ r.tensor = (landing [0] 0).input.index ∧ r.id = (landing [0] (reshardId 0 0)).input.index
    ∧ (landing [0] (reshardId 0 0)).coll.live = [] ∧ otherRanks (landing [0] 0) = [] ∧ r.todo ≠ []
    ∧ r.since + 100000000 ≤ (landing [0] (reshardId 0 0)).device.time :=
  ⟨⟨List.mem_singleton.mpr rfl, fun _ h _ => List.mem_singleton.mp h⟩, rfl, rfl, rfl, rfl, by decide, by decide⟩

/-- EngineEvents: the piece, its bit, and the descriptor to be replaced. -/
theorem witness_pieceLands :
    okWith (readResharding (landing [0] 0) 0) (fun tr v =>
      let s := landing [0] 0
      let m : Moving := ⟨⟨0, reshardId 0 0, 511, [0], [], [], 0⟩, tr.1, figures 0 tr.1⟩
      decide ((tr.1.prog + 0 / 8) % 2 ^ 64 = 8192) && pieceHere v m 0
      && okWith (landCells m 0 (pieceCells 0 tr.1 0 0) [] v) (fun _ u =>
        decide (u.reshards = s.reshards) && u.memory.wf && decide (u.plat.ready = -1)
        && gives (u.locsOf .load false false (bytesAt 8192 1)) [8192]
        && gives ((u.note (bytesAt 8192 1)).locsOf .store false false ((bytesAt 8192 1).map (· % 2 ^ 64))) [8192])) = true := by
  decide +kernel

/-- The bytes at their own places are read at once. -/
def atOnce (s : State) (l : List Nat) : Bool :=
  l.all (· < 2 ^ 48) && (s.failedRead l l).isNone && !s.stackWaits l && (s.poisonTrap l l).isNone

theorem witness_replacement :
    let s := landing [] 0
    okWith (readResharding s 0) (fun _ v =>
      let u := v.note (bytesAt 4096 128)
      let w := u.note (bytesAt 528384 128)
      gives (v.locsOf .load false false (bytesAt 4096 128)) (bytesAt 4096 128)
        && gives (u.locsOf .load false false (bytesAt 528384 128)) (bytesAt 524288 128 |>.map (· + 4096))
        && gives (w.locsOf .store false false ((bytesAt 4096 128).map (· % 2 ^ 64))) (bytesAt 4096 128)
        && atOnce v (bytesAt 4096 128) && atOnce u (bytesAt 528384 128) && decide (w.plat.ready = -1)) = true
    ∧ descVa s 0 false = 4096 ∧ descVa s 0 true = 528384 ∧ (bytesAt 4096 128).Nodup ∧ s.memory.wf = true := by
  and_intros <;> decide +kernel

/-! ## Hypotheses that are met: events of the group rounds -/

/-- An entry of the scoreboard with a number, a kind, a state and a record. -/
def scoreOf (id kind : Nat) (st : EntryState) (bytes : List Byte) : Score :=
  { id := id, stream := 0, kind := kind, state := st, ord := none, wait := none, signal := none, level := 0, joined := none, bytes := bytes
    launch := none, home := [], placed := 0, gangs := [], retired := [], nerr := 0, status := 0, tend := 0, avail := []
    killed := false, misses := 0, moved := false }

/-- A round of this device on the next version, with its own signature, while member 1 has yet to sign; the message that arrives is
member 1's. -/
def roundOf (hash : BitVec 256) : Round := ⟨groupOf 1 [0, 1], hash, [0, 1], [0, 1], [(0, [])], 0⟩

def roundState (kind : Nat) (hash : BitVec 256) : State :=
  { grouped with
    input := { Input.none with index := kind, index2 := 1, hash := hash, desc := groupOf 1 [0, 1], sigs := [(0, []), (1, [])] }
    group := { grouped.group with lock := some (1, hash), round := some (roundOf hash) } }

/-- GroupEvents: a proposal of the next version under the lock on it, and one of a version that is not the next. -/
theorem witness_proposals :
    RoundEvent .groupRound .propose 0 (roundState 0 7) ∧ (roundState 0 7).group.cached = some (groupOf 0 [0, 1])
    ∧ (∀ v h, (roundState 0 7).group.lock = some (v, h) → v = (groupOf 0 [0, 1]).ver + 1 → h = (roundState 0 7).input.hash)
    ∧ (roundState 0 7).input.desc.ver = (groupOf 0 [0, 1]).ver + 1
    ∧ wellFormedFor (roundState 0 7).input.desc (roundState 0 7).fabric.devid = true ∧ (roundState 0 7).sec.leaf < 2 ^ 20
    ∧ Input.none.desc.ver ≠ (groupOf 0 [0, 1]).ver + 1 := by
  refine ⟨.inr ⟨rfl, rfl, by decide⟩, rfl, ?_, rfl, by decide, by decide, by decide⟩
  intro v h hv _
  have : (some (1, 7) : Option (Word × BitVec 256)) = some (v, h) := hv
  cases this
  rfl

/-- GroupEvents: a refusal, the timeout, a signature that is the last one, and one that comes too late. -/
theorem witness_rounds :
    (roundState 1 7).group.round = some (roundOf 7) ∧ (1 : BitVec 14) = BitVec.ofNat 14 (roundState 1 7).input.index2
    ∧ RoundEvent .groupRound .refuse 1 (roundState 1 7) ∧ RoundEvent .groupRound .signature 2 (roundState 2 7)
    ∧ (roundOf 7).hash = (roundState 2 7).input.hash ∧ 1 ∈ (roundOf 7).members ∧ (∀ g ∈ (roundOf 7).sigs, g.1 ≠ 1)
    ∧ (roundOf 7).deadline ≤ (roundState 1 7).device.time ∧ (roundState 2 7).device.time ≤ (roundOf 7).deadline
    ∧ (let s := { roundState 2 7 with device := { running.device with time := 1 } }
      RoundEvent .groupRound .signature 2 s ∧ (roundOf 7).deadline < s.device.time)
    ∧ (∀ x ∈ (roundOf 7).members, ∃ g ∈ (roundOf 7).sigs ++ [(1, [])], g.1 = x) := by
  refine ⟨rfl, rfl, .inr ⟨rfl, rfl, by decide⟩, .inr ⟨rfl, rfl, by decide⟩, rfl, by decide, by decide, by decide, by decide, ⟨.inr ⟨rfl, rfl, by decide⟩, by decide⟩, ?_⟩
  intro x hx
  have hx : x ∈ [(0 : BitVec 14), 1] := hx
  simp only [List.mem_cons, List.not_mem_nil, or_false] at hx
  rcases hx with rfl | rfl
  · exact ⟨(0, []), List.mem_cons_self .., rfl⟩
  · exact ⟨(1, []), List.mem_cons_of_mem _ (List.mem_cons_self ..), rfl⟩

/-- GroupEvents: an adoption with every signature that the version before it asks for, where these signatures verify (the
keys are open), and one whose hash is another's; an abort; and the other kinds. -/
theorem witness_decisions (g0 g1 : List Byte)
    (h0 : xmssVerify (Config.certifiedKey 0) (natToBytes 32 (proposalHash (groupOf 1 [0, 1])).toNat) g0 = true)
    (h1 : xmssVerify (Config.certifiedKey 1) (natToBytes 32 (proposalHash (groupOf 1 [0, 1])).toNat) g1 = true) :
    RoundEvent .groupRound .adopt 3 (roundState 3 7) ∧ RoundEvent .groupRound .abort 4 (roundState 4 7)
    ∧ 5 ≤ (roundState 5 7).input.index ∧ (roundState 5 7).input.packet.kind ≠ 8
    ∧ (7 ∈ [(7 : BitVec 256)] ∨ (groupOf 1 [0, 1]).ver.toNat ≤ (groupOf 0 [0, 1]).ver.toNat)
    ∧ (let r := roundState 3 (proposalHash (groupOf 1 [0, 1]))
      let s := { r with input := { r.input with sigs := [(0, g0), (1, g1)] } }
      s.group.cached = some (groupOf 0 [0, 1]) ∧ s.input.hash ∉ s.group.released
      ∧ (groupOf 0 [0, 1]).ver.toNat < s.input.desc.ver.toNat ∧ proposalHash s.input.desc = s.input.hash
      ∧ signedBy s s.input.desc s.input.hash s.input.sigs = true ∧ s.input.desc.enc = false) := by
  generalize hh : proposalHash (groupOf 1 [0, 1]) = h at h0 h1 ⊢
  refine ⟨.inr ⟨rfl, rfl, by decide⟩, .inr ⟨rfl, rfl, by decide⟩, by decide, by decide, .inl (List.mem_singleton.mpr rfl), rfl,
    List.not_mem_nil, ?_, hh, ?_, rfl⟩
  · show (0 : Word).toNat < (1 : Word).toNat
    decide
  · simp [signedBy, groupDesc, roundState, grouped, groupOf, h0, h1]

/-- GroupEvents: the host, as owner, releases the lock. -/
theorem witness_grrel :
    let s := { roundState 0 7 with
      owner := { Ownership.reset with owner := 0 }, input := { Input.none with value := 1 } }
    s.owner.owner = masterNo s.input.master ∧ s.owner.hpend = false ∧ s.input.value.getLsbD 0 = true
    ∧ s.group.lock = some (1, 7) := by
  and_intros <;> decide

/-- GroupEvents: a notice about this device that two of two other members have signed, where the signatures verify, or nobody. -/
theorem witness_revocation (g1 g2 : List Byte)
    (h1 : xmssVerify (Config.certifiedKey 1) (noticeBytes running.fabric.devid 1#64) g1 = true)
    (h2 : xmssVerify (Config.certifiedKey 2) (noticeBytes running.fabric.devid 1#64) g2 = true) :
    let s := { running with input := { Input.none with desc := groupOf 1 [1, 2], sigs := [(1, g1), (2, g2)] } }
    s.input.index2 = s.fabric.devid.toNat ∧ s.fabric.devid ∉ s.input.desc.ranks
    ∧ s.input.desc.ranks.length / 2 + 1 ≤ (noticeSigners s).length
    ∧ (noticeSigners { s with input := { s.input with sigs := [] } }).length < s.input.desc.ranks.length / 2 + 1 := by
  refine ⟨?_, ?_, ?_, ?_⟩
  · show 0 = running.fabric.devid.toNat
    decide
  · show running.fabric.devid ∉ [(1 : BitVec 14), 2]
    decide
  rotate_left
  · have h : noticeSigners { running with input := { Input.none with desc := groupOf 1 [1, 2] } } = [] := by decide
    exact Nat.lt_of_le_of_lt (Nat.le_of_eq (congrArg List.length h)) (Nat.succ_pos _)
  simp only [noticeSigners, groupOf, List.filter_cons]
  simp [h1, h2]
  decide

/-- GroupEvents: of two issued launches one belongs to the group of the notice. -/
theorem witness_revokedLaunches :
    let l (g : Word) : Launch := { running.launch with group := g }
    let e (n : Nat) (g : Word) : Score := { scoreOf n 1 .issued [] with launch := some (l g) }
    (∀ x ∈ [e 0 4096, e 1 8192], ∀ y ∈ [e 0 4096, e 1 8192], y.id = x.id → y = x) ∧ (l 4096).group = 4096 ∧ (4096 : Word) ≠ 0
    ∧ (e 1 8192).launch = some (l 8192) ∧ (l 8192).group ≠ 4096 := by
  refine ⟨?_, rfl, by decide, rfl, by decide⟩
  intro x hx y hy
  simp only [List.mem_cons, List.not_mem_nil, or_false] at hx hy
  rcases hx with rfl | rfl <;> rcases hy with rfl | rfl <;> intro h <;> first | rfl | exact absurd h (by decide)

/-! ## Hypotheses that are met: the scheduler's events -/

/-- A scoreboard with some entries, and an event that names an index. -/
def boarded (es : List Score) (i : Nat) (s : State) : State :=
  { s with input := { Input.none with index := i }, sched := { s.sched with board := es } }

/-- DoorbellsMoveTheIndex: the last stream, written by the owner. -/
theorem witness_doorbell :
    let s := { running with
      owner := { running.owner with owner := 0 }, input := { Input.none with index := 63, value := 2 ^ 32 - 1 } }
    FromOwner s ∧ s.sched.streams.toList[s.input.index]? = some CmdStream.reset := by
  unfold FromOwner; decide +kernel

/-- A record of a kind with flags, at home address 0, that stream 0 reads next. -/
def recording (kind flags : Nat) : State :=
  boarded [] 0 { running with
    memory := { Memory.reset with home := Mem.writeBytes [] 0 ([BitVec.ofNat 8 kind, BitVec.ofNat 8 flags, 0, 63, 63, 0, 0, 0, 1]) }
    sched := { running.sched with streams := running.sched.streams.set 0 { CmdStream.reset with en := true, widx := 1 } } }

/-- RecordsAreDecoded: each kind, with a fence to wait for that is behind and with none, and a kind that is not admitted. -/
theorem witness_recordsAreDecoded :
    (∀ k < 5, nextStream (recording k 0) = some 0 ∧ recordOk false (Mem.readBytes (recording k 6).memory.home 0 64) = true
      ∧ field (Mem.readBytes (recording k 6).memory.home 0 64) 0 1 = k
      ∧ (firstScore 0 (Mem.readBytes (recording k 6).memory.home 0 64)).wait = some (63, 1)
      ∧ (firstScore 0 (Mem.readBytes (recording k 6).memory.home 0 64)).signal = some (63, 0)
      ∧ (firstScore 0 (Mem.readBytes (recording k 0).memory.home 0 64)).wait = none)
    ∧ recordOk false (Mem.readBytes (recording 5 0).memory.home 0 64) = false
    ∧ (recording 5 0).sched.streams.toList[0]? = some { CmdStream.reset with en := true, widx := 1 }
    ∧ (0 : Nat) ∉ (recording 5 0).memory.poison ∧ StacksReady (recording 5 0) [0] := by
  unfold StacksReady; decide +kernel

/-- RecordsAreDecoded: a NOP with ORD after a record of its stream that is not done. -/
theorem witness_recordInOrder :
    let x := scoreOf 9 1 .issued []
    let c : CmdStream := { CmdStream.reset with en := true, widx := 1, prev := some 9 }
    let s := { recording 0 1 with
      sched := { (recording 0 1).sched with board := [x], streams := running.sched.streams.set 0 c } }
    nextStream s = some 0 ∧ s.sched.streams.toList[0]? = some c ∧ c.prev = some x.id ∧ EntryAt s x ∧ x.state = .issued
    ∧ recordOk false (Mem.readBytes s.memory.home 0 64) = true ∧ field (Mem.readBytes s.memory.home 0 64) 1 1 % 2 = 1
    ∧ (c.widx - (c.ridx + 1)).toNat ≤ 2 ^ c.log2 := by
  unfold EntryAt; decide +kernel

/-- An XFER record: 64 bytes from one address to another. -/
def xferBytes (src dst : Nat) : List Byte :=
  [2] ++ List.replicate 23 0 ++ natToBytes 8 src ++ natToBytes 8 dst ++ natToBytes 8 64 ++ List.replicate 16 0

/-- XfersAndInvalsComplete: from the host to device memory, from there to the host, where the bytes have not left or have been answered
for, and from an address that does not exist. -/
theorem witness_xfers :
    let e (k : Nat) (b : List Byte) := scoreOf 255 k .issued b
    EntryAt (boarded [e 2 (xferBytes (2 ^ 63) 64)] 255 running) (e 2 (xferBytes (2 ^ 63) 64))
    ∧ field (xferBytes (2 ^ 63) 64) 24 8 / 2 ^ 63 = 1 ∧ physKind running.device.sscfg (field (xferBytes (2 ^ 63) 64) 32 8 % 2 ^ 63) = .hbm
    ∧ 64 + field (xferBytes (2 ^ 63) 64) 40 8 ≤ 2 ^ 48 ∧ (e 2 []).moved = false ∧ (∀ i < 64, running.device.viewOf (64 + i) = 64 + i)
    ∧ physKind running.device.sscfg (field (xferBytes 64 (2 ^ 63)) 24 8 % 2 ^ 63) = .hbm
    ∧ field (xferBytes 64 (2 ^ 63)) 32 8 / 2 ^ 63 = 1 ∧ ({ e 2 [] with moved := true } : Score).moved = true ∧ running.memory.reqs = []
    ∧ field (xferBytes (2 ^ 62) 0) 24 8 = 2 ^ 62 ∧ physKind running.device.sscfg (2 ^ 62) = .reserved ∧ running.memory.wf = true := by
  unfold EntryAt; decide +kernel

theorem witness_xferStacks :
    running.stackWaits ((List.range 64).map (64 + ·)) = false ∧ StacksReady running ((List.range 64).map (64 + ·)) :=
  ⟨(stacks_ready rfl _).1, stacks_ready rfl _⟩

/-- XfersAndInvalsComplete: an INVAL of every page, with nothing translated on its way, and with a read that is. -/
theorem witness_invals :
    let e := scoreOf 255 4 .issued (xferBytes 0 0)
    let q : RemoteReq := { id := 0, loc := 2 ^ 48, va := 0, op := .read false, slot := none, sent := true }
    let s := boarded [e] 255 running
    let u := { s with memory := { running.memory with reqs := [q] } }
    EntryAt s e ∧ EntryAt u e ∧ ¬ InvalHeld s e
    ∧ (u.launch.asn = BitVec.ofNat 16 (field e.bytes 24 2) ∧ ∃ r ∈ u.memory.reqs, translated r = true
      ∧ field e.bytes 32 8 ≤ r.va.toNat ∧ r.va.toNat < field e.bytes 32 8 + field e.bytes 40 8 * 65536) := by
  refine ⟨by unfold EntryAt; decide +kernel, by unfold EntryAt; decide +kernel, ?_, by decide +kernel⟩
  rintro (⟨-, r, hr, -⟩ | ⟨h, hh, -⟩)
  · exact List.not_mem_nil hr
  · exact List.not_mem_nil hh

/-- A launch record: its image, one task in a domain of one, its argument block at 0x50000 and its launch block at 0x30000. -/
def launchBytes (image : Nat) : List Byte :=
  [1] ++ List.replicate 23 0 ++ natToBytes 8 image ++ natToBytes 4 1 ++ natToBytes 1 1 ++ natToBytes 1 1 ++ natToBytes 2 1
    ++ natToBytes 8 0 ++ natToBytes 8 0x50000 ++ natToBytes 8 0x30000

/-- An image with one instruction and no other table; its CHECK field is SHAKE256 of the first 120 bytes, from another program. -/
def imageX : List Byte :=
  let h := natToBytes 4 0x4B535853 ++ natToBytes 2 1 ++ natToBytes 2 128 ++ [1, 0, 1, 0] ++ List.replicate 7 0 ++ [1] ++ List.replicate 12 0
    ++ natToBytes 4 128 ++ natToBytes 4 4 ++ List.replicate 80 0
  h ++ [201, 191, 89, 175, 209, 250, 33, 45] ++ natToBytes 4 0x58000005

/-- A launch in the scoreboard; a page table that maps the lowest 16 GiB onto themselves; the launch block. -/
def launching (image : Nat) : State :=
  boarded [scoreOf 0 1 .waiting (launchBytes image)] 0 { running with
    memory := { Memory.reset with
      home := Mem.writeBytes (Mem.writeBytes (Mem.writeBytes (Mem.writeBytes [] 0x10000 (natToBytes 8 0x100010001)) 0x11000 (natToBytes 8 0x80000007))
        0x30000 (natToBytes 40 0x10000 ++ natToBytes 8 0x100000 ++ natToBytes 8 0x40000 ++ List.replicate 72 0)) 0x20000 imageX } }

/-- LaunchesAreIssued: that launch with its image, its argument block and its save area. -/
theorem witness_launchIssued :
    let s := launching 0x20000
    let e := scoreOf 0 1 .waiting (launchBytes 0x20000)
    let l := launchOf s e
    let h := Header.ofBytes imageX
    s.sched.board = [e] ∧ (launchRead s l l.image.toNat 128).isSome ∧ launchRead s l l.image.toNat 128 = some (imageX.take 128)
    ∧ imageBytes s l = some imageX ∧ Header.ofBytes (imageX.take 128) = h ∧ l.image.toNat % 4096 = 0 ∧ l.det = false
    ∧ headerOk (imageX.take 128) = true ∧ tablesOk false imageX = true ∧ shapeOk h l = true ∧ Machine.groupOf (copyData s h l imageX) h l = some (0, 1)
    ∧ (launchRead s l (field e.bytes 48 8) 64).isSome ∧ blockOk s h l = true := by
  decide +kernel

/-- LaunchesAreIssued: the same image one word on; one whose magic number is not it; a shape that R37 does not admit; a DATA area that
the image does not have. -/
theorem witness_launchFails :
    (let s := launching 0x20004
    let e := scoreOf 0 1 .waiting (launchBytes 0x20004)
    let l := launchOf s e
    l.image.toNat % 4096 ≠ 0 ∧ e.launch = none ∧ launchLocs s l .store l.crec.toNat 64 = some (bytesAt 0x40000 64)
    ∧ s.memory.wf = true ∧ (∀ x ∈ bytesAt 0x40000 64, x < 2 ^ 48 ∧ s.stackFailed x = false) ∧ (bytesAt 0x40000 64).Nodup)
    ∧ headerOk (imageX.take 128 |>.set 0 0) = false
    ∧ shapeOk (Header.ofBytes imageX) (launchOf (launching 0x20000) (scoreOf 0 1 .waiting ((launchBytes 0x20000).set 36 5))) = false
    ∧ (let s := launching 0x20000
      blockOk s (Header.ofBytes imageX) { launchOf s (scoreOf 0 1 .waiting (launchBytes 0x20000)) with data := 4096 } = false)
    ∧ stacksSettled (launching 0x20000) = true
    ∧ stacksSettled { launching 0x20000 with plat := { (launching 0x20000).plat with ready := 0x7FF } } = false := by
  decide +kernel

/-- The launch of that record, once issued. -/
def issuedLaunch : Launch :=
  { launchOf (launching 0x20000) (scoreOf 0 1 .waiting (launchBytes 0x20000)) with
    header := Header.ofBytes imageX, tables := ⟨[], [], [], [], []⟩, m1 := 1, m2 := 1, m3 := 1, args := List.replicate 8 0, gsize := 1 }

/-- The entry of the launch, once issued. -/
def issuedScore : Score :=
  { scoreOf 0 1 .issued (launchBytes 0x20000) with launch := some issuedLaunch, avail := [0, 255] }

/-- The record of that launch has its place. -/
theorem record_place {s : State} (hp : s.plat.ready = -1) (hm : s.memory.wf = true)
    (ht : (pagesWalked (launchView s issuedLaunch) 0x40000 64).memory.tlb = [⟨0, 0, 2 ^ 34, 0x80000007⟩])
    (hn : (pagesWalked (launchView s issuedLaunch) 0x40000 64).launch.asn = 0) :
    RecordPlace s issuedLaunch (bytesAt 0x40000 64) := by
  have hc : issuedLaunch.crec.toNat = 0x40000 := by decide +kernel
  refine ⟨?_, fun _ h => ⟨Nat.lt_of_lt_of_le (mem_bytesAt h).2 (by decide), (stacks_ready hp _).2 _ h⟩, bytesAt_nodup _ _, hm⟩
  rw [hc]
  exact launch_locs (by decide) (by decide) ht hn

/-- A transfer to a dispatcher without an image sends it as it is. -/
theorem transfer_new {s : State} (h : s.sched.residents = []) : transferImage s 0 imageX ≠ none := by
  have hx : shadowImage [] imageX = imageX := by decide +kernel
  unfold transferImage closestImage
  rw [h]
  show (if crc32c (shadowImage [] imageX) = crc32c imageX then _ else _) ≠ none
  rw [hx, if_pos rfl]
  simp

/-- GangsArePlaced: the one task of that launch, on the lowest core, which needs its image, and whose transfer matches. -/
theorem witness_gangPlaced :
    let s := boarded [issuedScore] 0 (launching 0x20000)
    nextLaunch s = some issuedScore ∧ EntryAt s issuedScore ∧ resuming issuedScore = false
    ∧ placeNext issuedLaunch issuedScore.avail (freeCores s) 0 = some [0]
    ∧ (∃ img, imageBytes s issuedLaunch = some img ∧ transferImage s 0 img ≠ none) ∧ s.input.flag = false
    ∧ (∀ r ∈ s.sched.residents, ¬ (r.cluster = 0 / 4 ∧ r.image = issuedLaunch.image ∧ r.asn = issuedLaunch.asn
        ∧ r.check = issuedLaunch.check)) := by
  unfold EntryAt
  refine ⟨by decide +kernel, by decide +kernel, by decide +kernel, by decide +kernel, ⟨imageX, by decide +kernel, transfer_new rfl⟩,
    by decide +kernel, by decide +kernel⟩

/-- GangsArePlaced: an error in the transfer, the first, and the third, before any gang is placed and after one. -/
theorem witness_gangTransfers :
    let e (misses placed : Nat) : Score := { issuedScore with misses := misses, placed := placed }
    (∀ c ∈ [(0, 0), (2, 0)], nextLaunch (boarded [e c.1 c.2] 0 (launching 0x20000)) = some (e c.1 c.2))
    ∧ RecordPlace (boarded [e 2 0] 0 (launching 0x20000)) issuedLaunch (bytesAt 0x40000 64)
    ∧ (let l : Launch := { issuedLaunch with ntask := 2 }
      let f := { e 2 1 with launch := some l }
      nextLaunch (boarded [f] 0 (launching 0x20000)) = some f
        ∧ placeNext l f.avail (freeCores (boarded [f] 0 (launching 0x20000))) (1 * l.m3) = some [0]) :=
  ⟨by decide +kernel, record_place (by decide +kernel) (by decide +kernel) (by decide +kernel) (by decide +kernel), by decide +kernel⟩

/-- GangsArePlaced: a launch that has waited one microsecond. -/
theorem witness_launchAgeing :
    let e := { scoreOf 0 1 .issued [] with joined := some 0, level := 29 }
    let s := { boarded [e] 0 running with
      device := { running.device with time := 1000 }, sched := { (boarded [e] 0 running).sched with ageint := 1 } }
    EntryAt s e ∧ e.level < 30 ∧ s.sched.ageint ≠ 0 ∧ 0 + s.sched.ageint * 1000 ≤ s.device.time := by
  unfold EntryAt; decide +kernel

/-- TasksStart: the placed task on the core in focus, whose image is resident. -/
theorem witness_taskStart :
    let o : Occupant := ⟨0, 0, 0, false⟩
    let r : Resident := ⟨0, 0x20000, 0, issuedLaunch.check, imageX⟩
    let s := { boarded [issuedScore] 0 running with
      status := .none, sched := { (boarded [issuedScore] 0 running).sched with occupied := [o], residents := [r] } }
    occupantOf s 0 = some o ∧ s.core.toNat = s.input.index ∧ EntryAt s issuedScore ∧ s.ckpt = none ∧ 0 ∉ s.sched.failed
    ∧ s.sched.residents.find? (fun r => r.cluster = s.input.index / 4 ∧ r.image = issuedLaunch.image ∧ r.asn = issuedLaunch.asn
        ∧ r.check = issuedLaunch.check) = some r
    ∧ s.sec.frozen = false ∧ s.plat.hot = false ∧ ({ s.memory with cachedBy := 1 } : Memory).cachedBy ≠ issuedScore.id := by
  unfold EntryAt; decide +kernel

/-- TasksAndLaunchesEnd: a task that has left, one that has tailed with a drained tracker, and a launch all of whose tasks have ended. -/
theorem witness_taskEnds :
    let s := { boarded [issuedScore] 0 running with
      status := .tailed, sched := { (boarded [issuedScore] 0 running).sched with tracker := [⟨0, 0, 0, none⟩, ⟨0, 0, 0, some 63⟩, ⟨1, 0, 0, none⟩] } }
    EntryAt s issuedScore ∧ issuedScore.id = s.launch.entry ∧ s.input.index = s.core.toNat
    ∧ (∀ x ∈ s.sched.tracker, x.core = s.core.toNat → trackedDone s x = true)
    ∧ WritesDone s ∧ ¬ WritesDone instanceState ∧ instanceState.status ≠ .tailed ∧ s.memory.uncertain = [] := by
  refine ⟨by unfold EntryAt; decide +kernel, by decide +kernel, by decide +kernel, by decide +kernel,
    ⟨rfl, rfl, fun _ h => absurd h List.not_mem_nil⟩, fun h => absurd h.1 (by decide), by decide, rfl⟩

theorem witness_launchEnds :
    let e := { issuedScore with retired := [0], placed := 1 }
    let s := boarded [e] 0 (launching 0x20000)
    EntryAt s e ∧ e.retired.length = e.placed * issuedLaunch.m3 ∧ e.placed = issuedLaunch.ntask / issuedLaunch.m3
    ∧ RecordPlace s issuedLaunch (bytesAt 0x40000 64) :=
  ⟨by unfold EntryAt; decide +kernel, by decide, by decide, record_place (by decide +kernel) (by decide +kernel) (by decide +kernel) (by decide +kernel)⟩

/-- The entry of a launch of a lower level whose one gang holds core 0, and one of a higher level that needs it. -/
def victimGang : Gang := ⟨0, [0], 0, false, [], false, []⟩
def victimScore : Score := { issuedScore with placed := 1, gangs := [victimGang] }
def urgentScore : Score :=
  { issuedScore with id := 1, level := 31, avail := [0], launch := some { issuedLaunch with entry := 1, level := 31 } }

/-- A state in which one core is available and that gang's task runs on it. -/
def crowded (e : Score) (es : List Score) (g : Gang) (i : Nat) : State :=
  let e := { e with gangs := [g] }
  { boarded (e :: es) i running with
    launch := { running.launch with entry := 0 }
    plat := { running.plat with ready := 0xFFFFFFFFFFFF1FFF - 0xE000 % 0x2000 }
    sched := { (boarded (e :: es) i running).sched with occupied := [⟨0, 0, 0, true⟩], failed := (List.range 256).drop 1 } }

/-- GangsAreSavedAndResumed: the gang on the one available core is the victim of a launch at level 31. -/
theorem witness_preempt :
    let s := crowded victimScore [urgentScore] victimGang 0
    nextLaunch s = some urgentScore ∧ victims s urgentScore.level = [(victimScore, victimGang)] ∧ EntryAt s victimScore
    ∧ fits urgentScore ((List.range 256).filter (freeSoon s).contains) = false
    ∧ fits urgentScore ((List.range 256).filter (freeSoon s ++ heldCores s (victimScore, victimGang)).contains) = true := by
  unfold EntryAt; decide +kernel

/-- The victim at its core: halted, and with a byte staged. -/
theorem witness_save :
    let g := { victimGang with saving := true }
    let e := { victimScore with gangs := [g] }
    let s := { crowded victimScore [urgentScore] g 0 with
      status := .halted, memory := { (launching 0x20000).memory with staging := [(64, 1)] }, launch := { issuedLaunch with task := 0 } }
    victimAt s 0 = some (e, g, ⟨0, 0, 0, true⟩) ∧ EntryAt s e ∧ s.input.index = s.core.toNat ∧ StagingLocal s ∧ s.memory.wf = true
    ∧ s.channel.cmds = [] ∧ s.grid.queue = [] ∧ s.grid.run = none ∧ gangOf e 0 = some g ∧ s.memory.reqs = [] ∧ e.killed = false
    ∧ s.memory.uncertain = [] ∧ e.launch = some issuedLaunch ∧ slotOk s issuedLaunch 0 = true := by
  unfold EntryAt StagingLocal; and_intros <;> first | exact stacks_ready (by decide +kernel) _ | decide +kernel

/-- The gang saved whole; and parked, with its task's context, where its core is free again. -/
theorem witness_resume :
    let g := { victimGang with saving := true, saved := [0] }
    let p := { g with saving := false, parked := true }
    let e := { victimScore with gangs := [p] }
    let s := { boarded [e] 0 running with saved := [contextOf running], status := .saved }
    let u := crowded victimScore [] g 0
    EntryAt u { victimScore with gangs := [g] } ∧ g.saving = true
    ∧ (∀ o ∈ u.sched.occupied, o.entry = victimScore.id → o.core ∈ g.cores → o.task ∈ g.saved) ∧ g.saved ≠ []
    ∧ nextLaunch s = some e ∧ EntryAt s e ∧ headParked s = some (e, p) ∧ s.sec.frozen = false ∧ s.plat.hot = false
    ∧ placeFree (freeCores s) 1 1 1 = some [0]
    ∧ (contextOf running).entry = e.id ∧ (contextOf running).task ∈ p.saved ∧ [0][(contextOf running).task - p.first]? = some 0
    ∧ (contextOf running).launch.header.lease ≠ 0 ∧ bare.launch.header.lease = 0 := by
  unfold EntryAt; decide +kernel

/-- SavesOverrun: exactly 25 microseconds, and exactly one millisecond, after the halt. -/
theorem witness_savesOverrun :
    let g := { victimGang with saving := true, halts := [(0, 0, 0)] }
    let e := { victimScore with gangs := [g] }
    let s := { crowded victimScore [] g 0 with status := .halted, device := { running.device with time := 25000 } }
    let h := { g with halts := [(0, 0, 1)] }
    let f := { victimScore with gangs := [h] }
    let u := { crowded victimScore [] h 0 with status := .halted, device := { running.device with time := 1000000 } }
    victimAt s 0 = some (e, g, ⟨0, 0, 0, true⟩) ∧ EntryAt s e ∧ g.halts = [((0 : Nat), (0 : Nat), 0)] ∧ 0 + 25000 ≤ s.device.time
    ∧ victimAt u 0 = some (f, h, ⟨0, 0, 0, true⟩) ∧ EntryAt u f ∧ h.halts = [((0 : Nat), (0 : Nat), 1)] ∧ 0 + 1000000 ≤ u.device.time := by
  unfold EntryAt; decide +kernel

/-- KillsAndFailures: KILLREQ of entry 0, and the failure of core 0 under its running task. -/
theorem witness_killsAndFailures :
    let s := { crowded victimScore [] victimGang 0 with owner := { running.owner with owner := 0 }, input := { Input.none with index := 0, value := 0x100 } }
    FromOwner s ∧ EntryAt s victimScore ∧ s.input.value.extractLsb' 0 8 = BitVec.ofNat 8 victimScore.id
    ∧ s.input.value.getLsbD 8 = true ∧ s.launch.entry = victimScore.id ∧ s.status = .running
    ∧ occupantOf s 0 = some ⟨0, 0, 0, true⟩ ∧ s.input.index = s.core.toNat ∧ s.revocable = false
    ∧ ({ s with revocable := true } : State).phased = false ∧ victimScore.kind = 1 ∧ victimScore.state = .issued
    ∧ victimScore.id < 256 := by
  unfold FromOwner EntryAt; decide +kernel

/-! ## Hypotheses that are met: the fabric's events -/

/-- A clear packet from device 1 to device 0 with a kind, a number, an address, AUX and a payload. -/
def packetX (kind : Byte) (seq : BitVec 48) (addr aux : Word) (payload : List Byte) : Packet :=
  { Input.none.packet with
    dst := 0, src := 1, kind := kind, enc := false, ackreq := true, gv := 0, seq := seq, addr := addr, aux := aux, payload := payload, bad := false }

/-- That packet arrives. -/
def arriving (p : Packet) (s : State) : State := { s with input := { Input.none with packet := p } }

theorem admitted_clear (s : State) (k : Byte) (p : Packet) (hi : s.input.packet = p) (hf : s.sec.frozen = false) (hg : s.group.cached = none)
    (hb : p.bad = false) (hk : p.kind = k) (h8 : k.toNat ≤ 8) (hd : p.dst = s.fabric.devid) (he : p.enc = false) : Admitted s k p := by
  subst hi
  refine ⟨hf, hb, hk, h8, hd, ?_, .inl ⟨he, ?_, rfl⟩⟩
  · intro _ d h; rw [hg] at h; cases h
  · refine .inr fun d h => ?_
    rw [hg] at h; cases h

/-- Admitted: a packet of a kind that a group's version guards, and a round message. -/
theorem witness_admitted :
    (∀ k ∈ [(0 : Byte), 1, 2, 3, 4, 5, 6, 7], Admitted (arriving (packetX k 1 0 0 []) running) k (packetX k 1 0 0 []))
    ∧ Admitted (arriving (packetX 8 1 0 3 [5, 0, 0]) running) 8 (packetX 8 1 0 3 [5, 0, 0]) := by
  refine ⟨fun k hk => ?_, admitted_clear _ _ _ rfl rfl rfl rfl rfl (by decide) rfl rfl⟩
  have h8 : k.toNat ≤ 8 := (by decide : ∀ k ∈ [(0 : Byte), 1, 2, 3, 4, 5, 6, 7], k.toNat ≤ 8) k hk
  exact admitted_clear _ k _ rfl rfl rfl rfl rfl h8 rfl rfl

/-- PacketsLeave: the last two ports have the only routes, and the far side of the last has a slot free. -/
theorem witness_packetsLeave :
    let up : Port := { Port.reset with up := true }
    let f := { running.fabric with
      devset := true, ports := (running.fabric.ports.set 34 up).set 35 { up with slots := 1 }, routes := [(1, 3 <<< 34)] }
    let s := { running with fabric := f }
    s.fabric.devset = true ∧ s.group.cached = none ∧ egressPorts s 1 3 = [34, 35] ∧ egressPorts s 1 0 = [34, 35]
    ∧ (∀ m ∈ egressPorts s 1 0, portLoad s 35 < portLoad s m ∨ (portLoad s 35 = portLoad s m ∧ 35 ≤ m)) ∧ (port s 35).queue = []
    ∧ (port s 35).retry.length + ((packetBytes (packetX 2 1 0 0 (List.replicate 256 1))).length + 247) / 248 ≤ 512 := by decide +kernel

/-- A window in which two numbers have come after the first, with the answer of one. -/
def windowed (s : State) : State :=
  { s with fabric := { s.fabric with windows := [⟨0, 1, 1, [5, 3], [(3, true, natToBytes 8 0)], [], 0⟩] } }

/-- OthersRequestsAreServed: the last unit of device memory, and its last bytes. -/
theorem witness_othersRequests :
    let s := windowed running
    (∀ n ∈ [64, 4], TargetAt s (0xC000000000 - n) n ((bytesAt (0xC000000000 - n) n).map s.device.viewOf))
    ∧ (∃ x ∈ bytesAt 0xC040000000 64, addrOk s x = false)
    ∧ isPart (packetX 0 1 0 1 []) = false ∧ isPart (packetX 3 1 64 0 (natToBytes 4 1)) = false
    ∧ (packetAtomic (packetX 3 2 64 0 (natToBytes 4 1))).w32 = true ∧ (packetAtomic (packetX 3 2 64 0 (natToBytes 4 1))).bytes = 4
    ∧ (∀ l ∈ bytesAt (0xC000000000 - 4) 4, s.poisoned l = false ∧ isPacked l = false ∧ l < 2 ^ 48) ∧ s.memory.wf = true := by
  refine ⟨fun n hn => ⟨rfl, ?_, stacks_ready rfl _⟩, by decide +kernel, by decide +kernel, by decide +kernel, by decide +kernel,
    by decide +kernel, by decide +kernel, by decide +kernel⟩
  revert n
  decide +kernel

/-- OthersRequestsAreServed: the places of a window, an answer kept, and a poisoned unit. -/
theorem witness_windowPlaces :
    let s := windowed running
    (windowOf s 1).place 1 = .done ∧ (windowOf s 1).place 3 = .done ∧ (windowOf s 1).place 4097 = .fresh
    ∧ (windowOf s 1).place 4098 = .far ∧ (windowOf s 1).olds.find? (fun o => o.1 = 3) = some (3, true, natToBytes 8 0)
    ∧ ({ s with memory := { s.memory with poison := [64] } } : State).poisoned 64 = true := by decide +kernel

/-- A request to device 1 that awaits its answer. -/
def reqX (op : RemoteOp) (sends : Nat) : RemoteReq :=
  { id := 5, loc := regionBase (peerRegion 1) + 64, va := 64, op := op, slot := some 7, sent := true, seq := 9, sends := sends }
def reqState (r : RemoteReq) : State :=
  { running with
    memory := { running.memory with reqs := [r] }, fabric := { running.fabric with devset := true }, input := { Input.none with index := 5 } }

/-- AnswersArrive: a read, an atomic and a write. -/
theorem witness_answers :
    (∀ op ∈ [RemoteOp.read true, .atomic ⟨0, false, 1, 0⟩ true, .write [1]], ∀ k ∈ [(1 : Byte), 4, 5],
      AnswersRequest (reqState (reqX op 1)) (packetX k 9 0 0 []) (reqX op 1))
    ∧ (reqX (.write [1]) 1).owner = .task ∧ running.memory.vatom = none ∧ running.memory.wf = true
    ∧ (1 : Word).getLsbD 0 = true ∧ (2 : Word).getLsbD 0 = false ∧ (2 : Word).getLsbD 1 = true ∧ (1 : Word).getLsbD 1 = false := by
  unfold AnswersRequest; decide +kernel

/-- AnswersArrive: a read of the host's memory and a write to it. -/
theorem witness_hostAnswers :
    let r (op : RemoteOp) : RemoteReq := { reqX op 1 with loc := regionBase hostRegion }
    let s (op : RemoteOp) : State := { reqState (r op) with input := { Input.none with index := 5, bytes := List.replicate 64 1 } }
    ∀ op ∈ [RemoteOp.read true, .write [1]], r op ∈ (s op).memory.reqs ∧ (r op).id = (s op).input.index ∧ regionOf (r op).loc = hostRegion
      ∧ (∀ x ∈ (s op).memory.reqs, x.id = (r op).id → x = r op) ∧ (s op).input.flag = false ∧ (s op).input.bytes.length = 64
      ∧ (s op).memory.wf = true := by decide +kernel

/-- RequestsAreRepeated: the eighth sending, exactly 20 microseconds later, and the end, exactly 100 microseconds later. -/
theorem witness_requestsRepeated :
    let s (op : RemoteOp) := { reqState (reqX op 7) with device := { running.device with time := 20000 } }
    let u (op : RemoteOp) := { reqState (reqX op 8) with device := { running.device with time := 100000 } }
    ∀ op ∈ [RemoteOp.read true, .write [1], .atomic ⟨0, false, 1, 0⟩ true, .data ⟨5, 1, 0, 0, 1, 0, 256, [1]⟩],
      reqX op 7 ∈ (s op).memory.reqs ∧ (reqX op 7).id = (s op).input.index ∧ regionOf (reqX op 7).loc ≠ hostRegion
      ∧ (reqX op 7).sent = true ∧ (reqX op 7).sends < 8 ∧ (reqX op 7).at_ + 20000 ≤ (s op).device.time
      ∧ (∀ x ∈ (s op).memory.reqs, x.id = (reqX op 7).id → x = reqX op 7)
      ∧ reqX op 8 ∈ (u op).memory.reqs ∧ 8 ≤ (reqX op 8).sends ∧ (reqX op 8).at_ + 100000 ≤ (u op).device.time
      ∧ (reqX op 8).owner = .task ∧ (∀ x ∈ (u op).memory.reqs, x.id = (reqX op 8).id → x = reqX op 8) := by
  decide +kernel

/-- CollectivePacketsArrive: data for an instance that has not begun, at each place of the window. -/
theorem witness_collectivePackets :
    let s := windowed instanceState
    let p := packetX 6 4097 6 0 []
    p.src ≠ s.fabric.devid ∧ (windowOf s p.src).place p.seq.toNat = .fresh ∧ isReshardId (packetData s p).inst = false
    ∧ (packetData s p).dest = s.rankAt s.launch.header.ndom ∧ (∀ y ∈ s.coll.live, y.id ≠ (packetData s p).inst)
    ∧ (windowOf s 1).place (5 : BitVec 48).toNat = .done ∧ (windowOf s 1).place (4098 : BitVec 48).toNat = .far := by decide +kernel

/-- CollectivePacketsArrive: control packets for an instance that runs, for a reshard and for the window, and a round message. -/
theorem witness_controlPackets :
    let p := packetX 7 1 5 0 []
    let r : Reshard := ⟨7, 2 ^ 22 + 1, 3, [1], [], [], 0⟩
    let q := packetX 7 1 (2 ^ 22 + 1) (2 ^ 63) []
    let s : State := { instanceState with reshards := [r] }
    instanceX ∈ s.coll.live ∧ instanceX.id = p.addr.toNat % 2 ^ 23 ∧ (∀ y ∈ s.coll.live, y.id = instanceX.id → y = instanceX)
    ∧ p.addr.toNat < 0x800000000000 ∧ p.aux.getLsbD 63 = false ∧ (packetData s p).dest = s.rankAt s.launch.header.ndom
    ∧ ReshardAt s r ∧ q.aux.getLsbD 63 = true ∧ r.id = q.addr.toNat % 2 ^ 23 ∧ isReshardId r.id = true ∧ (∀ y ∈ s.coll.live, y.id ≠ r.id)
    ∧ 0x800000000000 ≤ (packetX 7 1 0x800000000000 0 []).addr.toNat
    ∧ (packetX 8 1 0 4096 (List.replicate 4096 0)).aux.toNat = (packetX 8 1 0 4096 (List.replicate 4096 0)).payload.length
    ∧ s.fabric.frags = [] := by unfold ReshardAt; decide +kernel

/-- CollectivePacketsArrive: the instance that a control packet stops, as the event names it. -/
theorem witness_instanceAt : InstanceAt { arriving (packetX 7 1 5 0 []) instanceState with input := { (arriving (packetX 7 1 5 0 [])
    instanceState).input with index := 5 } } instanceX := by unfold InstanceAt; decide +kernel

theorem sealFlit_intact (f : Flit) (h : f.data.length = 248) : flitIntact (sealFlit f) = true := decide_eq_true ⟨h, rfl⟩

/-- A flit of a kind with a sequence number, an acknowledged one, and the data of a packet without payload, or of one that another flit
completes. -/
def flitX (kind : BitVec 3) (n fack : BitVec 12) (nak : Bool) (pay : Nat) : Flit :=
  sealFlit ⟨n, fack, nak, kind, (packetBytes (packetX 0 1 0 0 (List.replicate pay 0))).take 248 ++ List.replicate (248 - (32 + pay)) 0, 0⟩

theorem flitX_intact (kind : BitVec 3) (n fack : BitVec 12) (nak : Bool) :
    flitIntact (flitX kind n fack nak 0) = true ∧ flitIntact (flitX kind n fack nak 256) = true :=
  ⟨sealFlit_intact _ (by show ((packetBytes _).take 248 ++ List.replicate (248 - (32 + 0)) (0 : Byte)).length = 248; decide +kernel),
    sealFlit_intact _ (by show ((packetBytes _).take 248 ++ List.replicate (248 - (32 + 256)) (0 : Byte)).length = 248; decide +kernel)⟩

/-- A port that has met some NAKs of FACK 0 and two failures, with flits 0 and 1 unacknowledged or without. -/
def portX (naks : Nat) (kept : Bool) : Port :=
  { Port.reset with
    up := true, naks := naks, nakFor := 0, retrains := [5, 6]
    retry := if kept then [(flitX 1 0 0 false 256, packetX 0 1 0 0 []), (flitX 2 1 0 false 0, packetX 0 1 0 0 [])] else [] }
def portState (x : Port) (f : Flit) (fails : Bool) : State :=
  { running with
    fabric := { running.fabric with ports := running.fabric.ports.set 35 x }, input := { Input.none with index := 35, flit := f, flag := fails }
    device := { running.device with time := 1000000004 } }

/-- PortsKeepTheirSequence: the port of the event. -/
theorem witness_portState (naks : Nat) (kept : Bool) (f : Flit) (fails : Bool) :
    let s := portState (portX naks kept) f fails
    s.input.index = 35 ∧ s.fabric.ports.toList[35]? = some (portX naks kept) ∧ (portX naks kept).up = true ∧ f = s.input.flit
    ∧ s.input.flag = fails ∧ (portX naks kept).queue = [] ∧ (portX naks kept).nakFor = 0 ∧ (portX naks kept).naks = naks
    ∧ (portX naks kept).progress + 10000 ≤ s.device.time
    ∧ ((portX naks kept).retrains.filter fun y => s.device.time < y + 1000000000).length = 2 :=
  ⟨rfl, rfl, rfl, rfl, rfl, rfl, rfl, rfl, by show 0 + 10000 ≤ 1000000004; decide, by show ([5, 6].filter fun y => (1000000004 : Nat) < y + 1000000000).length = 2; decide⟩

/-- PortsKeepTheirSequence: flits in sequence, with a whole packet, with its first part and with control information; one out of
sequence and one whose CRC is wrong. -/
theorem witness_portFlits :
    (portX 0 false).retry = [] ∧ (∀ k, (flitX k 0 0 false 0).fseq = (portX 0 false).expected ∧ (flitX k 0 0 false 0).nak = false
      ∧ (flitX k 0 0 false 0).fkind = k)
    ∧ packetLength (flitX 1 0 0 false 0).data ≤ (flitX 1 0 0 false 0).data.length
    ∧ (flitX 1 0 0 false 256).data.length < packetLength (flitX 1 0 0 false 256).data
    ∧ packetLength ((flitX 1 0 0 false 256).data ++ (flitX 2 0 0 false 0).data)
      ≤ ((flitX 1 0 0 false 256).data ++ (flitX 2 0 0 false 0).data).length
    ∧ (flitX 1 1 0 false 0).fseq ≠ (portX 0 false).expected ∧ (flitX 1 1 0 false 0).fkind ≠ 0
    ∧ flitIntact { flitX 1 0 0 false 0 with data := [] } = false :=
  ⟨rfl, fun _ => ⟨rfl, rfl, rfl⟩, by show packetLength ((packetBytes _).take 248 ++ _) ≤ ((packetBytes _).take 248 ++ _).length; decide +kernel,
    by show ((packetBytes _).take 248 ++ _).length < packetLength ((packetBytes _).take 248 ++ _); decide +kernel,
    by show packetLength (((packetBytes _).take 248 ++ _) ++ ((packetBytes _).take 248 ++ _))
        ≤ (((packetBytes _).take 248 ++ _) ++ ((packetBytes _).take 248 ++ _)).length; decide +kernel,
    by show (1 : BitVec 12) ≠ 0; decide, by show (1 : BitVec 3) ≠ 0; decide, rfl⟩

/-- PortsKeepTheirSequence: an acknowledgement of a flit that is kept, of the last one, and of one that is not. -/
theorem witness_portAcks (time : Nat) :
    Acked (portX 0 true) 0 time [(flitX 2 1 0 false 0, packetX 0 1 0 0 [])] time ∧ Acked (portX 0 true) 1 time [] time
    ∧ Acked (portX 0 true) 4095 time (portX 0 true).retry 0 ∧ (portX 0 true).retry ≠ [] ∧ (portX 15 true).naks = 15
    ∧ (portX 14 true).naks < 15 ∧ (portX 15 true).nakFor ≠ 1 := by
  refine ⟨.inl ⟨[], _, rfl, rfl, fun _ h => absurd h List.not_mem_nil, rfl⟩,
    .inl ⟨[(flitX 1 0 0 false 256, packetX 0 1 0 0 [])], _, rfl, rfl, ?_, rfl⟩, .inr ⟨?_, rfl, rfl⟩, by simp [portX], rfl, by decide,
    by show (0 : BitVec 12) ≠ 1; decide⟩
  · intro g hg
    rw [List.mem_singleton] at hg
    subst hg
    show (0 : BitVec 12) ≠ 1
    decide
  · intro g hg
    rcases List.mem_cons.mp hg with rfl | hg
    · show (0 : BitVec 12) ≠ 4095; decide
    · rw [List.mem_singleton] at hg
      subst hg
      show (1 : BitVec 12) ≠ 4095
      decide

/-- HeldPacketsAndHoles: a packet held for exactly 10 microseconds behind the rest of another, and a hole that has stood for exactly
200. -/
theorem witness_heldAndHoles :
    let begun : List Chunk := [⟨false, List.replicate 248 0, packetX 0 1 0 0 [], 0⟩]
    let x : Port := { Port.reset with up := true, queue := begun ++ packetChunks (packetX 0 1 0 0 []) 190000 }
    let s : State := windowed { running with
      fabric := { running.fabric with ports := running.fabric.ports.set 1 x }
      device := { running.device with time := 200000 }, input := { Input.none with index := 1 } }
    s.fabric.ports.toList[1]? = some x ∧ (∀ c ∈ begun, c.first = false) ∧ (190000 : Nat) + 10000 ≤ s.device.time
    ∧ 3 ∈ (windowOf s (BitVec.ofNat 14 s.input.index)).bits
    ∧ (∀ b ∈ (windowOf s 1).bits, 3 ≤ b) ∧ (windowOf s 1).high < 3 ∧ (windowOf s 1).since + 200000 ≤ s.device.time := by decide +kernel

/-- The one domain of the running launch, in a DET launch. -/
def domainX : OrdDomain := ⟨0, 0, 1⟩

/-- An access of task 0 that is held in the current interval. -/
def heldX (seqd : Bool) : Held :=
  { dom := domainX, task := 0, elem := 0, isn := 0, interval := 0, seqd := seqd, ops := [(64, ⟨0, false, 1, 0⟩)]
    slot := if seqd then some 7 else none, vec := false, mine := true }

/-- OrderedAccessesPerform: a sequenced access whose turn has come, and a batched one of a closed interval, of this launch and of
another one. -/
theorem witness_orderedPerform :
    let s := { running with ordered := { running.ordered with held := [heldX true], markers := [(domainX, 0, 0)] } }
    let d := { running with
      launch := { running.launch with det := true }, bars := running.bars.set 511 { running.bars[511] with gen := 1 }
      ordered := { running.ordered with held := [heldX false], interval := 1 } }
    let u := { running with status := .none, ordered := { running.ordered with held := [heldX false], markers := [(domainX, 0, 0)] } }
    s.ordered.held.find? (seqReady s) = some (heldX true) ∧ s.poisoned 64 = false ∧ s.memory.wf = true
    ∧ batchReady d (heldX false) = true ∧ batchReady u (heldX false) = true ∧ d.poisoned 64 = false ∧ u.poisoned 64 = false := by
  decide +kernel

theorem witness_orderedStacks (s : State) (h : s.plat.ready = -1) : StacksReady s (bytesAt 64 (⟨0, false, 1, 0⟩ : AtomicOp).bytes) :=
  stacks_ready h _

/-! ## Hypotheses that are met: the platform's events -/

/-- The host owns the device. -/
def owned : State := { running with owner := { running.owner with owner := 0 } }

/-- OwnersAreElected: an election that has just closed with a tie, one a nanosecond before it closes, a handover at its last moment, a
device with no launch; the owner writes. -/
theorem witness_owners :
    let o := { running.owner with elect := true, closes := 5, claims := [(2, 9), (1, 9), (0, 8)] }
    let s := { running with owner := o, device := { running.device with time := 5 } }
    let e := { running with owner := o, device := { running.device with time := 4 } }
    let u := { owned with owner := { owned.owner with hpend := true, succ := 1, expires := 5 }, device := { running.device with time := 5 } }
    s.owner.elect = true ∧ s.owner.closes ≤ s.device.time ∧ s.owner.claims ≠ [] ∧ running.owner.owner = 3 ∧ running.owner.elect = false
    ∧ e.owner.elect = true ∧ e.device.time < e.owner.closes ∧ e.owner.owner = 3
    ∧ u.owner.hpend = true ∧ u.owner.expires ≤ u.device.time ∧ u.device.time ≤ u.owner.expires ∧ u.owner.owner ≠ 3 ∧ FromOwner owned
    ∧ owned.input.value.setWidth 2 ≠ (3 : BitVec 2) ∧ (∀ e ∈ owned.sched.board, ¬ (e.kind = 1 ∧ e.state = .issued))
    ∧ (0 : Word).setWidth 8 = (0 : Byte) ∧ (1 : Word).setWidth 8 ≠ (0 : Byte) := by
  unfold FromOwner; decide +kernel

/-- OthersWritesAreRejected: no owner yet, and an offset that is no claim. -/
theorem witness_otherMaster : ¬ FromOwner running ∧ running.input.index ≠ 0x10 := by
  unfold FromOwner; decide +kernel

/-- SecurityActs: the last boot stage in order, one out of order, and one that does not exist; the last leaf, and no leaf; an alarm raised
before; 109 and 110 degrees. -/
theorem witness_security :
    let s := { running with sec := { running.sec with stage := 3 }, input := { Input.none with index := 3 } }
    3 = s.sec.stage ∧ s.sec.meas.toList[3]? = some 0 ∧ ({ s with input := { s.input with index := 2 } } : State).input.index ≠ s.sec.stage
    ∧ 4 ≤ (4 : Nat) ∧ FromOwner owned ∧ owned.sec.leaf < 2 ^ 20 ∧ 2 ^ 20 ≤ ({ owned.sec with leaf := 2 ^ 20 } : Security).leaf
    ∧ ({ running.sec with frozen := true } : Security).frozen = true ∧ ({ running.sec with alarm := true } : Security).alarm = true
    ∧ ({ running.plat with hot := true } : Platform).hot = true := by
  unfold FromOwner; decide +kernel

/-- DeviceComesUp: the last function reports ready, with an access that waits; one that has not after one second; 25 ns off as the 16th
interval in a row. -/
theorem witness_deviceComesUp :
    let s := { running with
      plat := { Platform.reset with ready := 3 <<< 57, near := 15, waiting := [⟨.hostRead, Input.none⟩] }, sec := { running.sec with stage := 4 } }
    bootReaches s 59 = true ∧ bootReaches s 20 = true ∧ bootReaches s 12 = true ∧ bootReaches s 57 = true ∧ s.plat.error.getLsbD 59 = false
    ∧ s.plat.ready.getLsbD 59 = false ∧ s.plat.since + 1000000000 ≤ 1000000000 ∧ s.sec.frozen = false
    ∧ (-25 ≤ (BitVec.ofNat 32 25).toInt ∧ (BitVec.ofNat 32 25).toInt ≤ 25) ∧ s.plat.near + 1 = 16 ∧ s.plat.lock = false ∧ s.plat.ready.getLsbD 58 = true
    ∧ ¬ (BitVec.ofNat 32 26).toInt ≤ 25 ∧ s.device.slewed ≤ s.device.time := by decide +kernel

/-- HostAccessesMemory: the last two bytes of HBM, an address that does not exist, and stacks that are not ready. -/
theorem witness_hostAccess :
    let at_ (a : Nat) := (List.range 2).map fun i => hostView running (a + i)
    (∀ l ∈ at_ (0xC000000000 - 2), hostTarget running l = true ∧ isPacked l = false ∧ l < 2 ^ 48) ∧ running.memory.wf = true
    ∧ hostTarget running (hostView running 0xC040000000) = false
    ∧ (let s := { running with plat := { running.plat with ready := 0 } }
      s.stackWaits (at_ (0xC000000000 - 2)) = true) := by decide +kernel

theorem witness_hostStacks (ls : List Nat) : StacksReady running ls := stacks_ready rfl _

/-- HostAccessesMemory: a byte of a frame that holds packed bytes, seen expanded. -/
theorem witness_hostPacked :
    let s := { running with device := { running.device with packed := [(0x20000, 65536, 0)] } }
    isPacked (hostView s 0x20001) = true ∧ hostTarget s (hostView s 0x20001) = true := by decide +kernel

/-- RegistersAreWritten and StackedStoresAreResized: the owner writes; a die that is busy, and one that is not. -/
theorem witness_registers :
    FromOwner owned ∧ owned.sched.board = [] ∧ dieBusy owned 0 = true ∧ dieBusy owned 3 = false ∧ owned.sec.nonce.length = 32
    ∧ owned.device.sscfg.toList[3]? = some (owned.device.sscfg.toList.getD 3 0) ∧ (0x18 : Word).getLsbD 4 = true ∧ owned.memory.wf = true := by
  unfold FromOwner; decide +kernel

/-- MemoryIsScrubbed: a unit of HBM after the first; no unit corrected so far; a byte staged by a task that cannot be rerun; a row with 8. -/
theorem witness_scrub :
    130 / 64 * 64 ≠ 0 ∧ (∀ c ∈ running.plat.corrected, c.1 ≠ (memUnit 128).1) ∧ stagedByte.memory.staging ≠ []
    ∧ stagedByte.revocable = false ∧ running.log.en = false ∧ (5, 8) ∈ ({ running.plat with rowErrors := [(5, 8)] } : Platform).rowErrors := by
  decide +kernel

/-- PagesMigrate: a page of device 1 at VA 0 by a table of four levels, which is due on die 3; its frame is the first of the pool. -/
def migrating : State :=
  { running with
    device := { running.device with migDue := [(3, 0)], migPool := running.device.migPool.set 3 [0x100000] }
    launch := { running.launch with root := 0x10000 }
    memory := { Memory.reset with
      home := Mem.writeBytes (Mem.writeBytes (Mem.writeBytes (Mem.writeBytes [] 0x10000 (natToBytes 8 0x100010001)) 0x11000
        (natToBytes 8 0x100020001)) 0x12000 (natToBytes 8 0x100030001)) 0x13000 (natToBytes 8 0x500010037) } }

theorem witness_migration :
    migrating.device.migPool.toList[3]? = some [0x100000] ∧ migrating.device.migDue = [(3, 0)]
    ∧ (match migrating.leafOf 0 with | .ok r => decide (r.1 = 0x500010037 ∧ r.2 = 65536) | .error _ => false) = true
    ∧ Leaf.mode (0x500010037 : Word) = 3 ∧ pteAddr migrating 0 4 (migrating.launch.root.toNat % 2 ^ 48) 0 = some 0x13000
    ∧ migrating.memory.reqs = [] ∧ 0x13000 + 8 ≤ 0x100000 ∧ migrating.memory.wf = true
    ∧ (running.device.migPool.toList[3]? = some []) := by decide +kernel

/-- PagesMigrate: no stack has failed. -/
theorem witness_migrationStacks (l : Nat) : migrating.stackFailed l = false := (stacks_ready (s := migrating) rfl [l]).2 l (.head _)

/-! ## Hypotheses that are met: the whole machine -/

/-- The task at 0x100 with two words there. -/
def atWords (w w1 : Nat) : State :=
  { running with
    pc := 0x100
    memory := { running.memory with
      home := Mem.writeBytes [] 0x100 (natToBytes 4 w ++ natToBytes 4 w1), snap := Mem.writeBytes [] 0x100 (natToBytes 4 w ++ natToBytes 4 w1) } }

/-- The next turn of the sequencer fetches two words that decode, or do not. -/
def fetches (s : State) (legal : Bool) : Bool :=
  let r := ready s
  decide (r.agenda = []) && decide (r.status = .running) && decide (r.turn % 2 = 0)
  && decide (reportDue { r with turn := r.turn + 1 } = none)
  && okWith (fetchWords { r with turn := r.turn + 1 }) fun w u => (match decodeWords w.1 w.2 with | .ok _ => legal | .error _ => !legal)
    && decide (u.launch.header.ns ≤ 56 ∧ u.trap.tl.val < 2 ∧ u.trap.tvec ≠ 0)

/-- StepRunsTheDecodedInstruction: a halt that is due; an event of the agenda; a word that decodes, and one that does not; an internal event at an odd
turn; and a device at rest. -/
theorem witness_step :
    (let s := (atWords 0x58000005 0).setQueue .c { ((atWords 0x58000005 0).queue .c) with halt := some ⟨⟨.undef, 0, 0⟩, 0, 0, 0, none⟩ };
      (ready s).agenda = [] ∧ (ready s).status = .running ∧ (ready s).turn % 2 = 0
        ∧ reportDue { ready s with turn := (ready s).turn + 1 } ≠ none) ∧
    (ready { running with agenda := [⟨.debugStop, Input.none⟩] }).agenda = [⟨.debugStop, Input.none⟩]
    ∧ fetches (atWords 0x58000005 0) true = true ∧ fetches (atWords 0xE0108000 1) true = true ∧ fetches (atWords 0 0) false = true
    ∧ (ready { busy .c with turn := 1 }).turn % 2 = 1 ∧ (nextInternal (ready { busy .c with turn := 1 })).isSome = true
    ∧ (ready { busy .c with turn := 1 }).agenda = []
    ∧ (ready State.reset).agenda = [] ∧ (ready State.reset).status ≠ .running ∧ nextInternal (ready State.reset) = none := by
  and_intros <;> decide +kernel

/-- EncodingsReadBack: a one-word and a two-word instruction, one of a collective program and one of a helper program. -/
theorem witness_encodings :
    (∀ i ∈ [Instr.shi 9 9 .sll 6, .cpy ⟨1, 2, 0, 0, 0, 1⟩, .wait, .hend], i.wf = true ∧ (encode i).isSome = true) := by decide +kernel

/-- MemoriesStayCanonical: a running task one step before an instruction that stores a byte. -/
theorem witness_memories : ((atWords 0x58000005 0).memory.wf = true ∧ ∀ e ∈ (atWords 0x58000005 0).sched.board, Mem.wf e.home = true)
    ∧ (match step (atWords 0x58000005 0) with | .next _ => true | _ => false) = true := by decide +kernel

/-- ReelRecordsReadBack: the highest slot and the widest value, after one of the same slot. -/
theorem witness_reelRecordsReadBack :
    (15 < 16 ∧ 3 < 4) ∧ (List.replicate 2048 (1 : Byte)).length = 256 * 2 ^ 3
    ∧ (∀ x ∈ [(15, 3, List.replicate 2048 (1 : Byte))], x.2.2.length = 256 * 2 ^ x.2.1) := by decide +kernel

/-- FetchFaultsTrapAtTheirPc: the pc is the last word of the page that is mapped, which holds a two-word instruction. -/
theorem witness_fetchFault :
    let s := { atWords 0 0 with
      pc := 65532, memory := { running.memory with snap := [(65535, 0xE0)], home := [(65535, 0xE0)] } }
    (ready s).agenda = [] ∧ (ready s).turn % 2 = 0 ∧ (ready s).status = .running
    ∧ (match fetchWords { ready s with turn := (ready s).turn + 1 } with | .trap t => decide (t.va = 65536) | _ => false) = true
    ∧ (ready s).trap.tl.val < 2 ∧ (ready s).trap.tvec ≠ 0 := by decide +kernel

/-! ## Decoding: words formed from the layouts and the opcode map of R136 to R151, field by field -/

/-- The sequencer's and the queues' decoder reads this instruction from these words. -/
def reads (r : Nat × Nat × Instr) : Bool := match decodeWords r.1 r.2.1 with | .ok i => i = r.2.2 | .error _ => false

theorem test_decode_alu_1 : ∀ r ∈ [
    (0x04304900, 0x0, (Instr.add ⟨3, 1, 9, false⟩)),
    (0x04A19441, 0x0, .sub ⟨10, 6, 20, true⟩),
    (0x0512DF02, 0x0, .and ⟨17, 11, 31, false⟩),
    (0x05842A43, 0x0, .or ⟨24, 16, 42, true⟩),
    (0x05F57504, 0x0, .xor ⟨31, 21, 53, false⟩),
    (0x06668045, 0x0, .andn ⟨38, 26, 0, true⟩),
    (0x06D7CB06, 0x0, .sll ⟨45, 31, 11, false⟩),
    (0x07491647, 0x0, .srl ⟨52, 36, 22, true⟩),
    (0x07BA6108, 0x0, .sra ⟨59, 41, 33, false⟩),
    (0x042BAC49, 0x0, .rol ⟨2, 46, 44, true⟩),
    (0x049CF70A, 0x0, .ror ⟨9, 51, 55, false⟩),
    (0x050E024B, 0x0, .mul ⟨16, 56, 2, true⟩),
    (0x057F4D0C, 0x0, .mulh ⟨23, 61, 13, false⟩),
    (0x05E0984D, 0x0, .mulhn ⟨30, 2, 24, true⟩),
    (0x0651E30E, 0x0, .div ⟨37, 7, 35, false⟩),
    (0x06C32E4F, 0x0, .divn ⟨44, 12, 46, true⟩),
    (0x07347910, 0x0, .rem ⟨51, 17, 57, false⟩),
    (0x07A58451, 0x0, .remn ⟨58, 22, 4, true⟩),
    (0x0416CF12, 0x0, .min ⟨1, 27, 15, false⟩),
    (0x04881A53, 0x0, .max ⟨8, 32, 26, true⟩),
    (0x04F96514, 0x0, .minn ⟨15, 37, 37, false⟩),
    (0x056AB055, 0x0, .maxn ⟨22, 42, 48, true⟩),
    (0x05DBFB16, 0x0, .slt ⟨29, 47, 59, false⟩),
    (0x064D0657, 0x0, .sltn ⟨36, 52, 6, true⟩)], reads r = true := by decide

theorem test_decode_alu_2 : ∀ r ∈ [
    (0x06BE5118, 0x0, (Instr.seq ⟨43, 57, 17, false⟩)),
    (0x072F8059, 0x0, .clz ⟨50, 62, 0, true⟩),
    (0x0790C01A, 0x0, .ctz ⟨57, 3, 0, false⟩),
    (0x0402005B, 0x0, .popc ⟨0, 8, 0, true⟩),
    (0x04737D1C, 0x0, .ext ⟨7, 13, 61, false⟩),
    (0x04E4885D, 0x0, .ins ⟨14, 18, 8, true⟩),
    (0x0555D31E, 0x0, .sel ⟨21, 23, 19, false⟩),
    (0x05C7005F, 0x0, .bswp ⟨28, 28, 0, true⟩)], reads r = true := by decide

theorem test_decode_imm : ∀ r ∈ [
    (0x08A52001, 0x0, (Instr.addi ⟨10, 20, 8193⟩)),
    (0x0CB56002, 0x0, .andi ⟨11, 21, 8194⟩),
    (0x10C5A003, 0x0, .ori ⟨12, 22, 8195⟩),
    (0x14D5E004, 0x0, .xori ⟨13, 23, 8196⟩),
    (0x18926006, 0x0, .shi 9 9 .sra 6),
    (0x1892303F, 0x0, .shi 9 8 .rol 63),
    (0x1C108003, 0x0, .slti ⟨1, 2, 3⟩),
    (0x20580001, 0x0, .lui 5 0x80001),
    (0x5C700000, 0x89ABCDEF, .liw 7 0x89abcdef)], reads r = true := by decide

theorem test_decode_branch : ∀ r ∈ [
    (0x24187FF0, 0x0, (Instr.beq ⟨1, 33, 16368⟩)),
    (0x2828BFF1, 0x0, .bne ⟨2, 34, 16369⟩),
    (0x2C38FFF2, 0x0, .blt ⟨3, 35, 16370⟩),
    (0x30493FF3, 0x0, .bge ⟨4, 36, 16371⟩),
    (0x34597FF4, 0x0, .bltn ⟨5, 37, 16372⟩),
    (0x3869BFF5, 0x0, .bgen ⟨6, 38, 16373⟩),
    (0x3E000001, 0x0, .jal 0x2000001),
    (0x43F05FFF, 0x0, .jalr ⟨63, 1, 0x1fff⟩)], reads r = true := by decide

theorem test_decode_memory : ∀ r ∈ [
    (0x4452403F, 0x0, (Instr.ld ⟨5, 9, (.global .core), .plain, .b, 63⟩)),
    (0x44626B01, 0x0, .ld ⟨6, 9, (.global .sys), .acq, .q, 1⟩),
    (0x447230A0, 0x0, .ld ⟨7, 8, .scratch, .plain, .w, 32⟩),
    (0x48525E42, 0x0, .ldn ⟨5, 9, (.global .dev), .imm, .h, 2⟩),
    (0x48108883, 0x0, .ldn ⟨1, 2, (.global .clu), .plain, .w, 3⟩),
    (0x4C5264C4, 0x0, .st ⟨5, 9, (.global .grp), .rel, .d, 4⟩),
    (0x4FE27105, 0x0, .st ⟨62, 9, .scratch, .plain, .q, 5⟩),
    (0x4C325606, 0x0, .st ⟨3, 9, (.global .die), .imm, .b, 6⟩)], reads r = true := by decide

theorem test_decode_atomic : ∀ r ∈ [
    (0x5021C000, 0x0, (Instr.aadd ⟨2, 7, 0, false, false, false⟩)),
    (0x50530061, 0x0, .asub ⟨5, 12, 0, true, false, true⟩),
    (0x50844082, 0x0, .aand ⟨8, 17, 0, false, true, false⟩),
    (0x50B580C3, 0x0, .aor ⟨11, 22, 0, true, true, false⟩),
    (0x50E6C024, 0x0, .axor ⟨14, 27, 0, false, false, true⟩),
    (0x51180045, 0x0, .amin ⟨17, 32, 0, true, false, false⟩),
    (0x51494086, 0x0, .amax ⟨20, 37, 0, false, true, false⟩),
    (0x517A80E7, 0x0, .aminn ⟨23, 42, 0, true, true, true⟩),
    (0x51ABC008, 0x0, .amaxn ⟨26, 47, 0, false, false, false⟩),
    (0x51DD0049, 0x0, .aswp ⟨29, 52, 0, true, false, false⟩),
    (0x520E69AA, 0x0, .acas ⟨32, 57, 41, false, true, true⟩),
    (0x523F80CB, 0x0, .ainc ⟨35, 62, 0, true, true, false⟩),
    (0x5260C00C, 0x0, .adec ⟨38, 3, 0, false, false, false⟩),
    (0x5292006D, 0x0, .afadd ⟨41, 8, 0, true, false, true⟩),
    (0x52C340CE, 0x0, .afmin ⟨44, 13, 0, true, true, false⟩),
    (0x52F4804F, 0x0, .afmax ⟨47, 18, 0, true, false, false⟩)], reads r = true := by decide

theorem test_decode_sync : ∀ r ∈ [
    (0x54000500, 0x0, (Instr.fence .sys)),
    (0x54000401, 0x0, .pub .grp),
    (0x54000302, 0x0, .opn .dev),
    (0x54000403, 0x0, .phase 3),
    (0x54000103, 0x0, .phase 0),
    (0x54720904, 0x0, .waita 7 8 9),
    (0x54064005, 0x0, .waitt 25),
    (0x54068006, 0x0, .twany 26),
    (0x5406C007, 0x0, .twall 27),
    (0x5407C00B, 0x0, .disc 31),
    (0x54B30008, 0x0, .tffr 11 12),
    (0x54000009, 0x0, .sqwait .l),
    (0x54000109, 0x0, .sqwait .c),
    (0x54000209, 0x0, .sqwait .s),
    (0x5400000A, 0x0, .roinv),
    (0x54F0000C, 0x0, .agets 15)], reads r = true := by decide

theorem test_decode_system : ∀ r ∈ [
    (0x580ABC00, 0x0, (Instr.trap 0xabc)),
    (0x580ABC04, 0x0, .brk 0xabc),
    (0x58000001, 0x0, .eret),
    (0x58000005, 0x0, .exit),
    (0x58000006, 0x0, .tail),
    (0x58A84302, 0x0, .srd 10 0x843),
    (0x58A84303, 0x0, .swr 10 0x843),
    (0x5C088001, 0x0, .fmtpush 34),
    (0x5CF1C002, 0x0, .mapld 15 7),
    (0x5CE20003, 0x0, .mapst 14 8),
    (0x5C024004, 0x0, .tdld 9),
    (0x5C024A05, 0x0, .mcset 9 10),
    (0x5C024006, 0x0, .mcqui 9),
    (0x5C024A07, 0x0, .mslot 9 10)], reads r = true := by decide

theorem test_decode_load : ∀ r ∈ [
    (0x720510F0, 0x80, (Instr.ldblk ⟨⟨true, false, false, false⟩, 5, 4, 15, 0, .i8, 0, .rne, false, false, 128⟩)),
    (0x75040008, 0x0, .aget ⟨⟨false, true, false, false⟩, 4, 0, 0, 2, .i8, 0, .rne, false, false, 0⟩)], reads r = true := by decide

theorem test_decode_vint : ∀ r ∈ [
    (0x83084000, 0x2000, (Instr.vadd ⟨⟨true, true, false, false⟩, 8, 16, 0, 0, .i8, 0, .rne, true, false, 0⟩)),
    (0x808C5044, 0x1112000, .vsub ⟨⟨false, false, true, false⟩, 12, 20, 4, 1, .i16, 1, .rne, true, false, 0⟩),
    (0x82906088, 0x2222000, .vmul ⟨⟨true, false, true, false⟩, 16, 24, 8, 2, .i32, 2, .rne, true, false, 0⟩),
    (0x819470C0, 0x3330000, .vmulh ⟨⟨false, true, true, false⟩, 20, 28, 12, 0, .i64, 3, .rne, false, false, 0⟩),
    (0x83988104, 0x4440000, .vmin ⟨⟨true, true, true, false⟩, 24, 32, 16, 1, .n8, 4, .rne, false, false, 0⟩),
    (0x80489148, 0x5550000, .vmax ⟨⟨false, false, false, true⟩, 8, 36, 20, 2, .n16, 5, .rne, false, false, 0⟩),
    (0x824CA180, 0x6660000, .vand ⟨⟨true, false, false, true⟩, 12, 40, 24, 0, .n32, 6, .rne, false, false, 0⟩),
    (0x815041C4, 0x7770000, .vor ⟨⟨false, true, false, true⟩, 16, 16, 28, 1, .n64, 7, .rne, false, false, 0⟩),
    (0x83545208, 0x8080000, .vxor ⟨⟨true, true, false, true⟩, 20, 20, 32, 2, .i8, 8, .rne, false, false, 0⟩),
    (0x80D86240, 0x9190000, .vandn ⟨⟨false, false, true, true⟩, 24, 24, 36, 0, .i16, 9, .rne, false, false, 0⟩),
    (0x82C87284, 0xA2A2000, .vshl ⟨⟨true, false, true, true⟩, 8, 28, 40, 1, .i32, 10, .rne, true, false, 0⟩),
    (0x81CC8008, 0xB3B103F, .vshr ⟨⟨false, true, true, true⟩, 12, 32, 0, 2, .i64, 11, .rne, false, true, 63⟩),
    (0x83D09040, 0xC4C0000, .vshra ⟨⟨true, true, true, true⟩, 16, 36, 4, 0, .n8, 12, .rne, false, false, 0⟩),
    (0x8014A004, 0xD5D2000, .vabs ⟨⟨false, false, false, false⟩, 20, 40, 0, 1, .n16, 13, .rne, true, false, 0⟩),
    (0x82184008, 0xE6E2000, .vneg ⟨⟨true, false, false, false⟩, 24, 16, 0, 2, .n32, 14, .rne, true, false, 0⟩),
    (0x810850D0, 0xF7F2000, .vadds ⟨⟨false, true, false, false⟩, 8, 20, 13, 0, .n64, 15, .rne, true, false, 0⟩),
    (0x830C60D4, 0x10002000, .vsubs ⟨⟨true, true, false, false⟩, 12, 24, 13, 1, .i8, 0, .rne, true, false, 0⟩),
    (0x80907188, 0x11110000, .vavg ⟨⟨false, false, true, false⟩, 16, 28, 24, 2, .i16, 1, .rne, false, false, 0⟩),
    (0x82948000, 0x12220000, .vclz ⟨⟨true, false, true, false⟩, 20, 32, 0, 0, .i32, 2, .rne, false, false, 0⟩),
    (0x81989004, 0x13330000, .vpopc ⟨⟨false, true, true, false⟩, 24, 36, 0, 1, .i64, 3, .rne, false, false, 0⟩),
    (0x8388A248, 0x14440000, .vsel ⟨⟨true, true, true, false⟩, 8, 40, 36, 2, .n8, 4, .rne, false, false, 0⟩),
    (0x804C0000, 0x15550801, .viota ⟨⟨false, false, false, true⟩, 12, 0, 0, 0, .n16, 5, .rne, false, false, 2049⟩)], reads r = true := by decide

theorem test_decode_vflt : ∀ r ∈ [
    (0x864051E4, 0x8F4000, (Instr.vfadd ⟨⟨true, false, false, true⟩, 0, 20, 30, 1, .bf16, 15, .rtz, false, false, 0⟩)),
    (0x85425A04, 0x19EA000, .vfsub ⟨⟨false, true, false, true⟩, 2, 22, 32, 1, .f16, 14, .rsr, true, false, 0⟩),
    (0x87446224, 0x2ADC000, .vfmul ⟨⟨true, true, false, true⟩, 4, 24, 34, 1, .f32, 13, .rna, false, false, 0⟩),
    (0x84C66A44, 0x38C0000, .vfmin ⟨⟨false, false, true, true⟩, 6, 26, 36, 1, .bf16, 12, .rne, false, false, 0⟩),
    (0x86C87264, 0x49B0000, .vfmax ⟨⟨true, false, true, true⟩, 8, 28, 38, 1, .f16, 11, .rne, false, false, 0⟩),
    (0x85CA7804, 0x5AA0000, .vfabs ⟨⟨false, true, true, true⟩, 10, 30, 0, 1, .f32, 10, .rne, false, false, 0⟩),
    (0x87CC8004, 0x6890000, .vfneg ⟨⟨true, true, true, true⟩, 12, 32, 0, 1, .bf16, 9, .rne, false, false, 0⟩),
    (0x840E8AC4, 0x798A000, .vfdiv ⟨⟨false, false, false, false⟩, 14, 34, 44, 1, .f16, 8, .rsr, true, false, 0⟩),
    (0x86109004, 0x8A7C000, .vfsqrt ⟨⟨true, false, false, false⟩, 16, 36, 0, 1, .f32, 7, .rna, false, false, 0⟩),
    (0x85129804, 0x986C000, .vfrnd ⟨⟨false, true, false, false⟩, 18, 38, 0, 1, .bf16, 6, .rna, false, false, 0⟩),
    (0x8B001490, 0xA0AA00, .vfma ⟨⟨true, true, false, false⟩, 0, 5, 9, 0, .f32, 0, .rsr, true, false, 2560⟩),
    (0x888118A0, 0x1A1AA40, .vfms ⟨⟨false, false, true, false⟩, 1, 6, 10, 0, .f32, 1, .rsr, true, false, 2624⟩),
    (0x8A821CB0, 0x2A2AA80, .vfnma ⟨⟨true, false, true, false⟩, 2, 7, 11, 0, .f32, 2, .rsr, true, false, 2688⟩),
    (0x898320C0, 0x3A3AAC0, .vfnms ⟨⟨false, true, true, false⟩, 3, 8, 12, 0, .f32, 3, .rsr, true, false, 2752⟩)], reads r = true := by decide

theorem test_decode_compare : ∀ r ∈ [
    (0x8F830470, 0xA20006, (Instr.vcmp ⟨⟨true, true, true, false⟩, 3, 1, 7, 0, .f32, 2, .rne, false, false, 6⟩)),
    (0x8C4218A0, 0x1000000, .kand ⟨⟨false, false, false, true⟩, 2, 6, 10, 0, .i8, 0, .rne, false, false, 0⟩),
    (0x8E431CB0, 0x2000000, .kor ⟨⟨true, false, false, true⟩, 3, 7, 11, 0, .i8, 0, .rne, false, false, 0⟩),
    (0x8D4420C0, 0x3000000, .kxor ⟨⟨false, true, false, true⟩, 4, 8, 12, 0, .i8, 0, .rne, false, false, 0⟩),
    (0x8F452400, 0x4000000, .knot ⟨⟨true, true, false, true⟩, 5, 9, 0, 0, .i8, 0, .rne, false, false, 0⟩),
    (0x8CC72C00, 0x6000000, .kffs ⟨⟨false, false, true, true⟩, 7, 11, 0, 0, .i8, 0, .rne, false, false, 0⟩),
    (0x8EC83000, 0x7000000, .kmov ⟨⟨true, false, true, true⟩, 8, 12, 0, 0, .i8, 0, .rne, false, false, 0⟩),
    (0x8DC03C00, 0x5000000, .kpopc ⟨⟨false, true, true, true⟩, 0, 15, 0, 0, .i8, 0, .rne, false, false, 0⟩),
    (0x8FCF0000, 0x8000100, .kset ⟨⟨true, true, true, true⟩, 15, 0, 0, 0, .i8, 0, .rne, false, false, 256⟩)], reads r = true := by decide

theorem test_decode_permute : ∀ r ∈ [
    (0x90010830, 0x940000, (Instr.vperm ⟨⟨false, false, false, false⟩, 1, 2, 3, 0, .f16, 4, .rne, false, false, 0⟩)),
    (0x92010800, 0x11400B1, .vshuf ⟨⟨true, false, false, false⟩, 1, 2, 0, 0, .i16, 4, .rne, false, false, 177⟩),
    (0x91010830, 0x2200040, .vslide ⟨⟨false, true, false, false⟩, 1, 2, 3, 0, .i32, 0, .rne, false, false, 64⟩),
    (0x93010800, 0x320103F, .vbcast ⟨⟨true, true, false, false⟩, 1, 2, 0, 0, .i32, 0, .rne, false, true, 63⟩),
    (0x9081DC00, 0x3310000, .vbcast ⟨⟨false, false, true, false⟩, 1, 55, 0, 0, .i64, 1, .rne, false, false, 0⟩),
    (0x92841460, 0x4401000, .vzip ⟨⟨true, false, true, false⟩, 4, 5, 6, 0, .n8, 0, .rne, false, true, 0⟩),
    (0x91851870, 0x5401000, .vunzip ⟨⟨false, true, true, false⟩, 5, 6, 7, 0, .n8, 0, .rne, false, true, 0⟩),
    (0x93861C80, 0x6401000, .vtrn ⟨⟨true, true, true, false⟩, 6, 7, 8, 0, .n8, 0, .rne, false, true, 0⟩),
    (0x90472000, 0x7B70000, .vcmpr ⟨⟨false, false, false, true⟩, 7, 8, 0, 0, .e4m3, 7, .rne, false, false, 0⟩),
    (0x92482400, 0x8B80000, .vexpd ⟨⟨true, false, false, true⟩, 8, 9, 0, 0, .e4m3, 8, .rne, false, false, 0⟩)], reads r = true := by decide

theorem test_decode_reduce : ∀ r ∈ [
    (0x95421004, 0x102000, (Instr.vrsum ⟨⟨false, true, false, true⟩, 2, 4, 0, 1, .i16, 0, .rne, true, false, 0⟩)),
    (0x97421004, 0xA04000, .vrsum ⟨⟨true, true, false, true⟩, 2, 4, 0, 1, .f32, 0, .rtz, false, false, 0⟩),
    (0x94C21000, 0x1900000, .vrmax ⟨⟨false, false, true, true⟩, 2, 4, 0, 0, .f16, 0, .rne, false, false, 0⟩),
    (0x96C21000, 0x2700000, .vrmin ⟨⟨true, false, true, true⟩, 2, 4, 0, 0, .n64, 0, .rne, false, false, 0⟩),
    (0x95C21400, 0x3010000, .vrand ⟨⟨false, true, true, true⟩, 2, 5, 0, 0, .i8, 1, .rne, false, false, 0⟩),
    (0x97C31800, 0x4200000, .vror ⟨⟨true, true, true, true⟩, 3, 6, 0, 0, .i32, 0, .rne, false, false, 0⟩),
    (0x94021000, 0x5301000, .vpsum ⟨⟨false, false, false, false⟩, 2, 4, 0, 0, .i64, 0, .rne, false, true, 0⟩)], reads r = true := by decide

theorem test_decode_convert : ∀ r ∈ [
    (0x9A030800, 0xA00002, (Instr.vcvt ⟨⟨true, false, false, false⟩, 3, 2, 0, 0, .f32, 0, .rne, false, false, 2⟩)),
    (0x99021004, 0x1B0A249, .vqnt ⟨⟨false, true, false, false⟩, 2, 4, 0, 1, .e4m3, 0, .rsr, true, false, 585⟩),
    (0x9B021000, 0x280024B, .vdqnt ⟨⟨true, true, false, false⟩, 2, 4, 0, 0, .bf16, 0, .rne, false, false, 587⟩),
    (0x98821000, 0x390424E, .vcbx ⟨⟨false, false, true, false⟩, 2, 4, 0, 0, .f16, 0, .rtz, false, false, 590⟩),
    (0x9A821000, 0x4F02005, .vpack ⟨⟨true, false, true, false⟩, 2, 4, 0, 0, .cb4, 0, .rne, true, false, 5⟩),
    (0x99821000, 0x560000D, .vunpk ⟨⟨false, true, true, false⟩, 2, 4, 0, 0, .n32, 0, .rne, false, false, 13⟩)], reads r = true := by decide

theorem test_decode_sitout : ∀ r ∈ [
    (0x9F810830, 0x4000F, (Instr.vsit ⟨⟨true, true, true, false⟩, 1, 2, 3, 0, .i8, 4, .rne, false, false, 15⟩)),
    (0x9C410830, 0x1040140, .vsitc ⟨⟨false, false, false, true⟩, 1, 2, 3, 0, .i8, 4, .rne, false, false, 320⟩),
    (0x9E420030, 0x2001007, .vdrain ⟨⟨true, false, false, true⟩, 2, 0, 3, 0, .i8, 0, .rne, false, true, 7⟩),
    (0x9D400000, 0x3000009, .vsitclr ⟨⟨false, true, false, true⟩, 0, 0, 0, 0, .i8, 0, .rne, false, false, 9⟩),
    (0x9F400000, 0x3001000, .vsitclr ⟨⟨true, true, false, true⟩, 0, 0, 0, 0, .i8, 0, .rne, false, true, 0⟩)], reads r = true := by decide

theorem test_decode_matrix : ∀ r ∈ [
    (0xA0C028B0, 0x1000, (Instr.mldb ⟨⟨false, false, true, true⟩, 0, 10, 11, 0, .i8, 0, .rne, false, true, 0⟩)),
    (0xA2CC34E0, 0x1001000, .mma ⟨⟨true, false, true, true⟩, 12, 13, 14, 0, .i8, 0, .rne, false, true, 0⟩),
    (0xA1CC00E0, 0x2000000, .mzero ⟨⟨false, true, true, true⟩, 12, 0, 14, 0, .i8, 0, .rne, false, false, 0⟩),
    (0xA7C00000, 0x0, .mlease ⟨⟨true, true, true, true⟩, 0, 0, 0, 0, .i8, 0, .rne, false, false, 0⟩),
    (0xA4000000, 0x1000000, .mrel ⟨⟨false, false, false, false⟩, 0, 0, 0, 0, .i8, 0, .rne, false, false, 0⟩),
    (0xAA010830, 0xA00103, .gemvh ⟨⟨true, false, false, false⟩, 1, 2, 3, 0, .f32, 0, .rne, false, false, 259⟩)], reads r = true := by decide

theorem test_decode_reel : ∀ r ∈ [
    (0xAD000420, 0xD0, (Instr.rlopen ⟨⟨false, true, false, false⟩, 0, 1, 2, 0, .i8, 0, .rne, false, false, 208⟩)),
    (0xAF001008, 0x100000F, .rlrec ⟨⟨true, true, false, false⟩, 0, 4, 0, 2, .i8, 0, .rne, false, false, 15⟩),
    (0xAC803C00, 0x2000000, .rlbr ⟨⟨false, false, true, false⟩, 0, 15, 0, 0, .i8, 0, .rne, false, false, 0⟩),
    (0xAE801000, 0x3000ABC, .rlmark ⟨⟨true, false, true, false⟩, 0, 4, 0, 0, .i8, 0, .rne, false, false, 2748⟩),
    (0xAD800000, 0x4000000, .rlseal ⟨⟨false, true, true, false⟩, 0, 0, 0, 0, .i8, 0, .rne, false, false, 0⟩),
    (0xAF800000, 0x5000ABC, .rlrev ⟨⟨true, true, true, false⟩, 0, 0, 0, 0, .i8, 0, .rne, false, false, 2748⟩),
    (0xAC440008, 0x600000F, .rlpop ⟨⟨false, false, false, true⟩, 4, 0, 0, 2, .i8, 0, .rne, false, false, 15⟩),
    (0xAE4F0000, 0x7000000, .rlbrp ⟨⟨true, false, false, true⟩, 15, 0, 0, 0, .i8, 0, .rne, false, false, 0⟩),
    (0xAD403C00, 0x8000000, .rlchk ⟨⟨false, true, false, true⟩, 0, 15, 0, 0, .i8, 0, .rne, false, false, 0⟩),
    (0xAF400000, 0x9000041, .rlstat ⟨⟨true, true, false, true⟩, 0, 0, 0, 0, .i8, 0, .rne, false, false, 65⟩),
    (0xACC00000, 0xA000000, .rlclose ⟨⟨false, false, true, true⟩, 0, 0, 0, 0, .i8, 0, .rne, false, false, 0⟩)], reads r = true := by decide

theorem test_decode_move : ∀ r ∈ [
    (0xB2C21004, 0xC30000, (Instr.vmov ⟨⟨true, false, true, true⟩, 2, 4, 0, 1, .e5m2, 3, .rne, false, false, 0⟩)),
    (0xB1C2DC00, 0x190007F, .vins ⟨⟨false, true, true, true⟩, 2, 55, 0, 0, .f16, 0, .rne, false, false, 127⟩),
    (0xB3C01000, 0x2A0003F, .vext ⟨⟨true, true, true, true⟩, 0, 4, 0, 0, .f32, 0, .rne, false, false, 63⟩),
    (0xB0010000, 0x3924801, .vli ⟨⟨false, false, false, false⟩, 1, 0, 0, 0, .f16, 2, .rtz, false, false, 2049⟩),
    (0xB6002400, 0x80E000, .vexp2 ⟨⟨true, false, false, false⟩, 0, 9, 0, 0, .bf16, 0, .rna, true, false, 0⟩),
    (0xB5012800, 0x191E000, .vlog2 ⟨⟨false, true, false, false⟩, 1, 10, 0, 0, .f16, 1, .rna, true, false, 0⟩),
    (0xB7022C00, 0x2A2E000, .vrcp ⟨⟨true, true, false, false⟩, 2, 11, 0, 0, .f32, 2, .rna, true, false, 0⟩),
    (0xB4833000, 0x383E000, .vrsq ⟨⟨false, false, true, false⟩, 3, 12, 0, 0, .bf16, 3, .rna, true, false, 0⟩)], reads r = true := by decide

theorem test_decode_vector_memory : ∀ r ∈ [
    (0x62842408, 0xA0A3FABC, (Instr.vld ⟨⟨true, false, true, false⟩, 4, 9, 0, 2, .sys, .plain, .global, .f32, 3, true, 7, 2748⟩)),
    (0x65871800, 0xA10C04, .vlds ⟨⟨false, true, true, false⟩, 7, 6, 0, 0, .core, .plain, .global, .f32, 1, false, 0, 3076⟩),
    (0x6B842480, 0x1100000, .vgath ⟨⟨true, true, true, false⟩, 4, 9, 8, 0, .core, .plain, .scratch, .i16, 0, false, 0, 0⟩),
    (0x68442480, 0x60690000, .vgath ⟨⟨false, false, false, true⟩, 4, 9, 8, 0, .dev, .plain, .global, .n32, 9, false, 0, 0⟩),
    (0x6E410880, 0x5AB00140, .tld ⟨⟨true, false, false, true⟩, 1, 2, 8, 0, .die, .imm, .tensor, .e4m3, 0, false, 0, 320⟩),
    (0x79442400, 0x73A123, .vldro ⟨⟨false, true, false, true⟩, 4, 9, 0, 0, .core, .plain, .global, .n64, 3, true, 2, 291⟩),
    (0xC3442404, 0x20800800, .vst ⟨⟨true, true, false, true⟩, 4, 9, 0, 1, .clu, .plain, .global, .bf16, 0, false, 0, 2048⟩),
    (0xC4C42400, 0x3001FF, .vsts ⟨⟨false, false, true, true⟩, 4, 9, 0, 0, .core, .plain, .global, .i64, 0, false, 0, 511⟩),
    (0xCAC42480, 0x80A50000, .vscat ⟨⟨true, false, true, true⟩, 4, 9, 8, 0, .grp, .plain, .global, .f32, 5, false, 0, 0⟩),
    (0xCDC10800, 0x6000B140, .tst ⟨⟨false, true, true, true⟩, 1, 2, 0, 0, .dev, .plain, .global, .i8, 0, true, 3, 320⟩),
    (0xD3C108C0, 0xA2A00180, .tacc ⟨⟨true, true, true, true⟩, 1, 2, 12, 0, .sys, .plain, .tensor, .f32, 0, false, 0, 384⟩),
    (0xD4042450, 0x40320007, .vrdm ⟨⟨false, false, false, false⟩, 4, 9, 5, 0, .die, .plain, .global, .i64, 2, false, 0, 7⟩),
    (0xD6042420, 0x1A00007, .vrdm ⟨⟨true, false, false, false⟩, 4, 9, 2, 0, .core, .plain, .scratch, .f32, 0, false, 0, 7⟩),
    (0xD9042470, 0x40620007, .vatom ⟨⟨false, true, false, false⟩, 4, 9, 7, 0, .die, .plain, .global, .n32, 2, false, 0, 7⟩)], reads r = true := by decide

theorem test_decode_async_1 : ∀ r ∈ [
    (0xE010831F, 0x3F, (Instr.cpy ⟨1, 2, 3, 0, 31, 63⟩)),
    (0xE440003F, 0x0, .fload ⟨4, 0, 0, 0, 63, 0⟩),
    (0xE441463E, 0x100003D, .fst ⟨4, 5, 6, 0, 62, 61⟩),
    (0xE88000FF, 0x1FF, .crun ⟨8, 0, 0, 3, 63, 511⟩),
    (0xE8400000, 0x1000005, .gjoin ⟨4, 0, 0, 0, 0, 5⟩),
    (0xE8000000, 0x20001FF, .gleave ⟨0, 0, 0, 0, 0, 511⟩),
    (0xE8400000, 0x3000006, .gprop ⟨4, 0, 0, 0, 0, 6⟩),
    (0xE8900000, 0x4000000, .gver ⟨9, 0, 0, 0, 0, 0⟩),
    (0xED400000, 0x100, .rshd ⟨20, 0, 0, 0, 0, 256⟩),
    (0xED454000, 0x1000000, .rshq ⟨20, 21, 0, 0, 0, 0⟩),
    (0xF0108300, 0x0, .hseq ⟨1, 2, 3, 0, 0, 0⟩),
    (0xE4000000, 0x2000000, .fqui),
    (0xE8000000, 0x5000000, .ginv),
    (0xF0000000, 0x1000000, .hstop),
    (0xF400FF3F, 0x5ABCD, .tblrun 0 255 63 0x1abcd .s),
    (0xF4900100, 0x20028, .tblrun 9 1 0 40 .c),
    (0xF4000000, 0x1040000, .tblstop .s),
    (0xF4700003, 0x2020000, .tblbase 7 3 .c),
    (0xF840005F, 0x0, .evcfg 4 31),
    (0xF8000007, 0x1000000, .evarm 7),
    (0xF800001E, 0x2000000, .evoff 30),
    (0xFC000000, 0x101, .barv 257),
    (0xFC000000, 0x1000102, .bawt 258),
    (0xFC000000, 0x2000103, .barw 259)], reads r = true := by decide

theorem test_decode_async_2 : ∀ r ∈ [
    (0xFC000000, 0x3E00202, (Instr.baset 0 0x7001 2)),
    (0xFC500000, 0x3000002, .baset 5 0 2),
    (0xFC500000, 0x400012C, .bagrp 5 300),
    (0xFC600000, 0x500012D, .batst 6 301)], reads r = true := by decide

theorem test_decode_collective : ∀ r ∈ [
    (0x0A000007, (Instr.send 5 7)),
    (0x11800008, .recv 6 8),
    (0x229A0009, .rrs 1 2 .max .f32 9),
    (0x3721000A, .rred 3 4 .min .i16 10),
    (0x4B80FFFF, .copy 5 6 0xffff),
    (0x50000000, .wait),
    (0x6800FFFE, .loop 2 0xfffe),
    (0x7C000000, .endl 3),
    (0x80000001, .peer .plus .imm 0 1),
    (0x8AC00005, .peer .xor .shiftC 3 5),
    (0x85800006, .peer .minus .plusC 2 6),
    (0x8C000007, .peer .abs .imm 0 7),
    (0x900001AB, .sig 0x1ab),
    (0xABC00001, .offs 5 3 0x400001),
    (0xB0000000, .halt)],
    (match decodeCollective r.1 with | .ok i => decide (i = r.2) | .error _ => false) = true := by decide

theorem test_decode_helper : ∀ r ∈ [
    (0x0FFD8000, (Instr.hcpy 31 62 true 2)),
    (0x1F400000, .hwtag 61),
    (0x2E000001, .hadd 3 0x2000001),
    (0x3FF80001, .hloop 255 0x80001),
    (0x40000000, .hend),
    (0x52ABCD5A, .hflag 0x2abcd 0x5a)],
    (match decodeHelper r.1 with | .ok i => decide (i = r.2) | .error _ => false) = true := by decide

/-- Words of the manual's listings: N40, N48, N49, N54, N58, N59, N61, N63, N67, N71 to N73, and those of chapters 10 to 15. -/
theorem test_decode_listings : ∀ r ∈ [
    (0x5C700000, 0x2, (Instr.liw 7 2)),
    (0x64071800, 0x00A10C04, .vlds ⟨⟨false, false, false, false⟩, 7, 6, 0, 0, .core, .plain, .global, .f32, 1, false, 0, 0xC04⟩),
    (0x54000300, 0, .fence .dev),
    (0xE4400000, 0, .fload ⟨4, 0, 0, 0, 0, 0⟩),
    (0xE4414600, 0x01000002, .fst ⟨4, 5, 6, 0, 0, 2⟩),
    (0xE88000C0, 0, .crun ⟨8, 0, 0, 3, 0, 0⟩),
    (0xE8400000, 0x03000005, .gprop ⟨4, 0, 0, 0, 0, 5⟩),
    (0xED454000, 0x01000000, .rshq ⟨20, 21, 0, 0, 0, 0⟩),
    (0xF4700003, 0x02020000, .tblbase 7 3 .c),
    (0xF8400047, 0, .evcfg 4 7),
    (0x58A04302, 0, .srd 10 0x043),
    (0xA000_28B0, 0, .mldb ⟨⟨false, false, false, false⟩, 0, 10, 11, 0, .i8, 0, .rne, false, false, 0⟩),
    (0x5C010001, 0, .fmtpush 4)], reads r = true := by decide

/-- R147, R148: a reserved major, and a minor beyond the last, name nothing. -/
theorem test_decode_reserved : ∀ r ∈ [(0x00000000, 0), (0x7C000000, 0), (0xB8000000, 0), (0xBC000000, 0), (0xDC000000, 0), (0x04000020, 0),
    (0x50000010, 0), (0x5400000D, 0), (0x58000007, 0), (0x5C000008, 0), (0x80000000, 0x16000000), (0xE0000000, 0x01000000)],
    (match decodeWords r.1 r.2 with | .ok _ => false | .error _ => true) = true := by decide

/-- R135, R140, R149: a bit that no field holds makes a word illegal. -/
theorem test_decode_stray_bits : ∀ r ∈ [(0x58001005, 0), (0x54000340, 0), (0x80020801, 0), (0xE0108040, 1), (0xF4080000, 0), (0x04000080, 0)],
    (match decodeWords r.1 r.2 with | .ok _ => false | .error _ => true) = true := by decide

/-! ## Well-formedness: an ill-formed term for each check -/

/-- An engine word with everything zero. -/
def e0 : EOp := ⟨⟨false, false, false, false⟩, 0, 0, 0, 0, .i8, 0, .rne, false, false, 0⟩
/-- A memory word with everything zero. -/
def m0 : MOp := ⟨⟨false, false, false, false⟩, 0, 0, 0, 0, .core, .plain, .global, .i8, 0, false, 0, 0⟩
/-- An async word with everything zero. -/
def a0 : AOp := ⟨0, 0, 0, 0, 0, 0⟩

/-- R136 to R139: scalar words. -/
theorem test_wf_scalar : ∀ i ∈ [
    Instr.clz ⟨1, 2, 3, false⟩, .ctz ⟨1, 2, 3, false⟩, .popc ⟨1, 2, 3, false⟩, .bswp ⟨1, 2, 3, false⟩,
    .ld ⟨1, 2, .scratch, .acq, .d, 0⟩, .ld ⟨1, 2, .global .core, .rel, .d, 0⟩, .ldn ⟨1, 2, .global .core, .plain, .q, 0⟩,
    .st ⟨2, 2, .global .core, .acq, .d, 0⟩, .aadd ⟨1, 2, 3, false, false, false⟩, .afadd ⟨1, 2, 0, false, false, false⟩,
    .afmin ⟨1, 2, 3, true, false, false⟩, .waita 1 2 3, .fmtpush 3, .tblrun 1 0 1 0 .l, .evcfg 3 0, .baset 1 1 0, .loop 0 0,
    .rrs 0 0 .sum .e2m1 0, .rred 0 0 .sum .cb4 0], i.wf = false := by decide

/-- R140 to R142, R185 to R206: engine words; a field that is not used, a group, a span, a mask, a type, and each instruction's own limit. -/
theorem test_wf_engine : ∀ i ∈ [
    Instr.vadd { e0 with d := 1, w := 1 }, .vadd { e0 with a := 2, w := 2 }, .vadd { e0 with ty := .f16 }, .vadd { e0 with rm := .rtz },
    .vadd { e0 with alt := true }, .vadd { e0 with imm := 1 }, .vand { e0 with sat := true }, .vabs { e0 with b := 1 },
    .vshl { e0 with alt := true, b := 1 }, .vshl { e0 with imm := 1 }, .vfadd { e0 with ty := .i8 }, .vfabs { e0 with ty := .f16, rm := .rna },
    .vfma { e0 with ty := .f32, imm := 1 }, .vfma { e0 with ty := .f32, w := 1, imm := 0x040 }, .vcmp e0, .vcmp { e0 with d := 16 },
    .vcmp { e0 with d := 1, imm := 7 }, .vcmp { e0 with d := 1, w := 1 }, .kand { e0 with d := 1, a := 16 }, .kand { e0 with d := 1, w := 1 },
    .kand { e0 with d := 1, k := 1 }, .kpopc { e0 with d := 1 }, .kset { e0 with d := 1, imm := 257 }, .vslide { e0 with imm := 257 },
    .vbcast { e0 with ty := .i64, alt := true, imm := 32 }, .vbcast { e0 with imm := 1 }, .vrsum { e0 with rm := .rtz },
    .vrsum { e0 with ty := .f16, sat := true }, .vrand { e0 with ty := .f16 }, .vcvt { e0 with imm := 13 }, .vcvt { e0 with ty := .i8, a := 1, imm := 2 },
    .vqnt { e0 with ty := .e4m3 }, .vqnt { e0 with ty := .e4m3, alt := true, imm := 10 }, .vdqnt { e0 with ty := .f16 },
    .vcbx { e0 with ty := .f16, imm := 13 }, .vcbx { e0 with ty := .f32, imm := 14 }, .vpack { e0 with ty := .i16 }, .vunpk { e0 with imm := 1 },
    .vins { e0 with imm := 256 }, .vext { e0 with k := 1 }, .vsitclr { e0 with alt := true, imm := 1 }, .mma { e0 with w := 1 }, .mlease { e0 with a := 1 },
    .gemvh { e0 with ty := .f32, imm := 8 }, .rlopen { e0 with imm := 3 }, .rlopen { e0 with imm := 20 }, .rlopen { e0 with b := 1, imm := 1 },
    .rlbrp e0, .rlstat { e0 with imm := 0x42 }, .rlrec { e0 with imm := 16 }, .ldblk { e0 with k := 1 }, .aget { e0 with ty := .i16 },
    .vexp2 e0], i.wf = false := by decide

/-- R26, R143, R144, R207, R211, R212, R230: memory words. -/
theorem test_wf_memory : ∀ i ∈ [
    Instr.vld { m0 with space := .scratch }, .vld { m0 with ord := .imm }, .vld { m0 with b := 1 }, .vld { m0 with ty := .e2m1 },
    .vldro { m0 with scope := .clu }, .vlds { m0 with scope := .clu }, .vlds { m0 with imm := 0x200 }, .vgath { m0 with b := 1 },
    .vgath { m0 with space := .scratch, scope := .die }, .vgath { m0 with space := .tensor }, .vgath { m0 with imm := 1 },
    .tld { m0 with w := 1 }, .tld { m0 with k := 1 }, .tld { m0 with b := 4 }, .tld { m0 with space := .tensor, b := 2 },
    .tld { m0 with space := .tensor, re := true }, .tld { m0 with ord := .rel }, .tacc m0, .tacc { m0 with ty := .f32, ord := .imm },
    .vrdm { m0 with ty := .i16 }, .vrdm { m0 with ty := .f32, b := 3 }, .vrdm { m0 with ty := .i32, b := 6 }, .vatom { m0 with ty := .f32, b := 1 },
    .vatom { m0 with ty := .i32, b := 8 }, .vst { m0 with scope := .sys, space := .tensor }], i.wf = false := by decide

/-- R145: async words. -/
theorem test_wf_async : ∀ i ∈ [
    Instr.cpy { a0 with id := 32 }, .cpy { a0 with imm := 64 }, .cpy { a0 with w := 1 }, .fload { a0 with b := 1 }, .fload { a0 with imm := 1 },
    .crun { a0 with a := 4, w := 3 }, .crun { a0 with a := 8 }, .crun { a0 with w := 3, imm := 512 }, .gleave { a0 with a := 1 }, .gver { a0 with imm := 1 },
    .rshd { a0 with id := 1 }, .rshq { a0 with c := 1 }, .hseq { a0 with imm := 1 }], i.wf = false := by decide

/-! ## One step on a small state; the results follow from the tables of the rule by hand -/

/-- What s3 holds after an instruction, s1 and s2 holding two values and s3 a third; none unless the pc has moved past it. -/
def result (i : Instr) (a b d : Word) : Option Word :=
  match exec i (withRegs [(1, a), (2, b), (3, d)]) with
  | .next t => if t.pc = 4 ∨ t.pc = 8 then some (t.getReg 3) else none
  | _ => none

/-- An instruction answers a next state, of which something holds. -/
def leaves (i : Instr) (s : State) (p : State → Bool) : Bool :=
  match exec i s with
  | .next t => p t
  | _ => false

/-- R154, R155: wraps, signs and the corners of division. -/
theorem test_alu : ∀ r ∈ [
    (Instr.add ⟨3, 1, 2, true⟩, (0x7FFFFFFF : Word), (1 : Word), (0 : Word), (0xFFFFFFFF80000000 : Word)),
    (.add ⟨3, 1, 2, false⟩, -1, 2, 0, 1), (.sub ⟨3, 1, 2, false⟩, 0, 1, 0, -1), (.andn ⟨3, 1, 2, false⟩, 12, 10, 0, 4),
    (.sll ⟨3, 1, 2, true⟩, 1, 33, 0, 2), (.srl ⟨3, 1, 2, true⟩, 0x80000000, 31, 0, 1), (.sra ⟨3, 1, 2, true⟩, 0x80000000, 31, 0, -1),
    (.rol ⟨3, 1, 2, false⟩, 0x8000000000000001, 1, 0, 3), (.ror ⟨3, 1, 2, false⟩, 1, 1, 0, 0x8000000000000000),
    (.mul ⟨3, 1, 2, false⟩, -1, -1, 0, 1), (.mulh ⟨3, 1, 2, false⟩, -1, -1, 0, 0), (.mulhn ⟨3, 1, 2, false⟩, -1, -1, 0, -2),
    (.div ⟨3, 1, 2, false⟩, -7, 2, 0, -3), (.rem ⟨3, 1, 2, false⟩, -7, 2, 0, -1), (.div ⟨3, 1, 2, true⟩, 0x80000000, -1, 0, 0xFFFFFFFF80000000),
    (.rem ⟨3, 1, 2, true⟩, 0x80000000, -1, 0, 0), (.div ⟨3, 1, 2, true⟩, 5, 0, 0, -1), (.rem ⟨3, 1, 2, true⟩, 0x80000000, 0, 0, 0xFFFFFFFF80000000),
    (.divn ⟨3, 1, 2, false⟩, -1, 2, 0, 0x7FFFFFFFFFFFFFFF), (.remn ⟨3, 1, 2, false⟩, -1, 10, 0, 5), (.min ⟨3, 1, 2, false⟩, -1, 1, 0, -1),
    (.minn ⟨3, 1, 2, false⟩, -1, 1, 0, 1), (.max ⟨3, 1, 2, false⟩, -1, 1, 0, 1), (.maxn ⟨3, 1, 2, false⟩, -1, 1, 0, -1),
    (.slt ⟨3, 1, 2, false⟩, -1, 1, 0, 1), (.sltn ⟨3, 1, 2, false⟩, -1, 1, 0, 0), (.seq ⟨3, 1, 2, true⟩, 0x100000000, 0, 0, 1),
    (.clz ⟨3, 1, 0, true⟩, 1, 0, 0, 31), (.ctz ⟨3, 1, 0, false⟩, 0, 0, 0, 64), (.popc ⟨3, 1, 0, true⟩, -1, 0, 0, 32),
    (.bswp ⟨3, 1, 0, true⟩, 0x01020384, 0, 0, 0xFFFFFFFF84030201), (.ext ⟨3, 1, 2, false⟩, 0xABCD, 0x704, 0, 0xBC),
    (.ins ⟨3, 1, 2, false⟩, 0xFF, 0x304, 1, 0xF1), (.sel ⟨3, 1, 2, false⟩, 0xAA, 0x55, 0xF0, 0xA5)],
    result r.1 r.2.1 r.2.2.1 r.2.2.2.1 = some r.2.2.2.2 := by decide +kernel

/-- R156: immediates are signed, also for AND, OR and XOR. -/
theorem test_immediates : ∀ r ∈ [
    (Instr.addi ⟨3, 1, -1⟩, (0 : Word), (-1 : Word)), (.andi ⟨3, 1, -2⟩, 0xFF, 0xFE), (.ori ⟨3, 1, -1⟩, 0, -1), (.xori ⟨3, 1, -1⟩, 5, -6),
    (.slti ⟨3, 1, 0⟩, -1, 1), (.lui 3 0x80000, 0, 0xFFFFFFFF80000000), (.liw 3 0x80000000, 0, 0xFFFFFFFF80000000),
    (.shi 3 1 .sra 63, 0x8000000000000000, -1), (.shi 3 1 .rol 4, 0xF000000000000000, 0xF), (.addi ⟨0, 1, 1⟩, 7, 0)],
    result r.1 r.2.1 0 0 = some r.2.2 := by decide +kernel

/-- R157, R158: backward by one word, and the link of a jump through the register that it writes. -/
theorem test_jumps :
    leaves (.bltn ⟨1, 2, -1⟩) { withRegs [(1, 1), (2, -1)] with pc := 0x100 } (fun t => t.pc = 0xFC) = true
    ∧ leaves (.jalr ⟨1, 1, 8⟩) { withRegs [(1, 0x200)] with pc := 0x100 } (fun t => t.pc = 0x208 ∧ t.getReg 1 = 0x104) = true := by
  decide +kernel

/-- R159: a load of a byte of a scratchpad extends the sign, LDN does not, and a store of a half-word is little-endian. -/
theorem test_scratchpad :
    let s := { withRegs [(1, 64)] with memory := { running.memory with scratch := [(65, 0x80)] } }
    leaves (.ld ⟨3, 1, .scratch, .plain, .b, 1⟩) s (fun t => t.getReg 3 = 0xFFFFFFFFFFFFFF80) = true
    ∧ leaves (.ldn ⟨3, 1, .scratch, .plain, .h, 0⟩) s (fun t => t.getReg 3 = 0x8000) = true
    ∧ leaves (.st ⟨1, 1, .scratch, .plain, .h, 1⟩) s (fun t => t.memory.scratch = [(65, 0x80), (66, 64)]) = true := by
  decide +kernel

/-- R161: the operations of atomics on the old value 5, with the value 3 in s2; the value that is left. -/
theorem test_atomics : ∀ r ∈ [
    (Instr.aadd ⟨2, 1, 0, true, true, true⟩, (5 : Word), (8 : Byte)), (.asub ⟨2, 1, 0, true, true, true⟩, 5, 2), (.axor ⟨2, 1, 0, true, true, true⟩, 5, 6),
    (.aswp ⟨2, 1, 0, true, true, true⟩, 5, 3), (.amin ⟨2, 1, 0, true, true, true⟩, 5, 3), (.amaxn ⟨2, 1, 0, true, true, true⟩, 5, 5)],
    leaves r.1 { withRegs [(1, 128), (2, 3)] with memory := { running.memory with scratch := [(128, BitVec.ofNat 8 r.2.1.toNat)] } }
      (fun t => t.memory.scratch = [(128, r.2.2)]) = true := by decide +kernel

/-- Element 0 of v8 after a C-class word on element 0 of v16 and v24. -/
def lane0 (i : Instr) (a b : VReg) (bits : Nat) : Option Nat :=
  match exec i { withRegs [(2, -1)] with vregs := (running.vregs.set 16 a).set 24 b, kregs := running.kregs.set 1 1 } with
  | .next t => some (vElem t 8 bits 0)
  | _ => none

/-- The form under mask k1, which admits element 0 of bytes. -/
def one (o : EOp) : EOp := { o with k := 1 }

/-- A saturating form. -/
def satur (o : EOp) : EOp := { o with sat := true }

/-- R189: saturation at both ends, signs, and the exact average. -/
theorem test_vector_integers : ∀ r ∈ [
    (Instr.vadd (satur (one (eop 8 16 24 .i8 0))), (127 : VReg), (1 : VReg), 127), (.vadd (one (eop 8 16 24 .i8 0)), 127, 1, 128),
    (.vsub (satur (one (eop 8 16 24 .n8 0))), 0, 1, 0), (.vmul (satur (one (eop 8 16 24 .i8 0))), 0x80, 2, 0x80), (.vmulh (one (eop 8 16 24 .i8 0)), 0x80, 0x80, 0x40),
    (.vmulh (one (eop 8 16 24 .n8 0)), 0x80, 0x80, 0x40), (.vmin (one (eop 8 16 24 .i8 0)), 0xFF, 1, 0xFF), (.vmin (one (eop 8 16 24 .n8 0)), 0xFF, 1, 1),
    (.vandn (one (eop 8 16 24 .i8 0)), 12, 10, 4), (.vshl (satur (one (eop 8 16 24 .i8 0))), 0x40, 1, 127), (.vshr (one (eop 8 16 24 .i8 0)), 0x80, 9, 0x40),
    (.vshra (one (eop 8 16 24 .i8 0)), 0x80, 7, 0xFF), (.vabs (one (eop 8 16 0 .i8 0)), 0x80, 0, 0x80), (.vabs (satur (one (eop 8 16 0 .i8 0))), 0x80, 0, 0x7F),
    (.vneg (satur (one (eop 8 16 0 .n8 0))), 1, 0, 0), (.vadds (one (eop 8 16 2 .i16 0)), 0, 0, 0xFFFF), (.vavg (one (eop 8 16 24 .n8 0)), 0xFF, 0xFE, 0xFF),
    (.vclz (one (eop 8 16 0 .i16 0)), 1, 0, 15), (.vpopc (one (eop 8 16 0 .i16 0)), 0x101, 0, 2), (.viota (one (eop 8 0 0 .i8 0xFFF)), 0, 0, 0xFF)],
    lane0 r.1 r.2.1 r.2.2.1 (match r.1 with | .vadds _ | .vclz _ | .vpopc _ => 16 | _ => 8) = some r.2.2.2 := by decide +kernel

/-- R121, R122, R188, R190: one and half an ulp, the sign of a sum of zeros, a NaN, and a fused sum that would vanish if rounded twice. -/
theorem test_vector_floats : ∀ r ∈ [
    (Instr.vfadd (one (eop 8 16 24 .f32 0)), (0x3F800000 : VReg), (0x33800000 : VReg), 0x3F800000),
    (.vfadd { one (eop 8 16 24 .f32 0) with rm := .rna }, 0x3F800000, 0x33800000, 0x3F800001), (.vfsub (one (eop 8 16 24 .f32 0)), 0x3F800000, 0x3F800000, 0),
    (.vfmul (one (eop 8 16 24 .f32 0)), 0x40400000, 0xBFC00000, 0xC0900000), (.vfmin (one (eop 8 16 24 .f32 0)), 0x80000000, 0, 0x80000000),
    (.vfabs (one (eop 8 16 0 .f32 0)), 0xC0900000, 0, 0x40900000), (.vfneg (one (eop 8 16 0 .f32 0)), 0, 0, 0x80000000),
    (.vfdiv (one (eop 8 16 24 .f32 0)), 0x3F800000, 0x40400000, 0x3EAAAAAB), (.vfsqrt (one (eop 8 16 0 .f32 0)), 0x40800000, 0, 0x40000000),
    (.vfrnd (one (eop 8 16 0 .f32 0)), 0x40200000, 0, 0x40000000), (.vfma { one (eop 8 16 24 .f32 0) with imm := 24 <<< 6 }, 0x40000000, 0x40400000, 0x41100000)],
    lane0 r.1 r.2.1 r.2.2.1 32 = some r.2.2.2 := by decide +kernel

/-- R191 to R195: a comparison that follows the type's sign, masks, moves, sums and a conversion to the nearest even number. -/
theorem test_masks_and_moves :
    leaves (.vcmp { eop 1 16 24 .i64 2 with k := 1 }) { running with vregs := (running.vregs.set 16 (-1)).set 24 1, kregs := running.kregs.set 1 1 } (fun t => t.kregs[1] = 0xFF) = true
    ∧ leaves (.kffs (eop 2 1 0 .i8 0)) { running with kregs := running.kregs.set 1 12 } (fun t => t.kregs[2] = 4) = true
    ∧ leaves (.kset (eop 2 0 0 .i8 256)) running (fun t => t.kregs[2] = BitVec.allOnes 256) = true
    ∧ lane0 (.vslide (one (eop 8 16 24 .i8 256))) 1 2 8 = some 2 ∧ lane0 (.vbcast (one (eop 8 2 0 .i32 0))) 0 0 32 = some 0xFFFFFFFF
    ∧ lane0 (.vrsum (eop 8 16 0 .i64 0)) ((3 <<< 64) + 4) 0 64 = some 7 ∧ lane0 (.vrmin (eop 8 16 0 .i64 0)) 0xFFFFFFFFFFFFFFFE 0 64 = some 0xFFFFFFFFFFFFFFFE
    ∧ lane0 (.vror (eop 8 16 0 .i64 0)) ((1 <<< 64) + 2) 0 64 = some 3 ∧ lane0 (.vcvt (one (eop 8 16 0 .i8 10))) 0x40200000 0 8 = some 2 := by decide +kernel

/-- R138, R175, R185, R318: TRAP enters the handler with its code, and ERET comes back to the saved pc. -/
theorem test_trap_and_return :
    leaves (.trap 0x123) { running with pc := 0x100 } (fun t => t.pc = 0x8000 ∧ t.trap.tl = 1 ∧ leaves .eret t (fun u => u.trap.tl = 0) = true) = true := by
  decide +kernel

/-- AES-256-GCM: the tag of an empty text under a key and a nonce of zeros, from the test cases published with GCM. -/
theorem test_gcm : gcmSeal 0 0 [] [] = ([], 0x8b73cbc4f1b463a9b93645c7fb8a0f53) := by decide +kernel

end Sys2Proof.Tests
end

section
/-! SUPPORT. The values of the ALU rows (R154, R155), each at every width: the functions of the model against the rule that
its row gives, by number or bit by bit. -/

namespace Sys2Proof.Machine

/-! ## Sums, logic and products -/

theorem toNat_fnAdd {w : Nat} (a b d : BitVec w) : (fnAdd w a b d).toNat = (a.toNat + b.toNat) % 2 ^ w :=
  BitVec.toNat_add a b

theorem toNat_fnSub_add {w : Nat} (a b d : BitVec w) : ((fnSub w a b d).toNat + b.toNat) % 2 ^ w = a.toNat := by
  rw [← BitVec.toNat_add, fnSub, BitVec.sub_add_cancel]

theorem getLsbD_fnAnd {w : Nat} (a b d : BitVec w) (i : Nat) :
    (fnAnd w a b d).getLsbD i = (a.getLsbD i && b.getLsbD i) := BitVec.getLsbD_and

theorem getLsbD_fnOr {w : Nat} (a b d : BitVec w) (i : Nat) :
    (fnOr w a b d).getLsbD i = (a.getLsbD i || b.getLsbD i) := BitVec.getLsbD_or

theorem getLsbD_fnXor {w : Nat} (a b d : BitVec w) (i : Nat) :
    (fnXor w a b d).getLsbD i = (a.getLsbD i != b.getLsbD i) := BitVec.getLsbD_xor

theorem getLsbD_fnAndn {w : Nat} (a b d : BitVec w) {i : Nat} (hi : i < w) :
    (fnAndn w a b d).getLsbD i = (a.getLsbD i && !b.getLsbD i) := by
  simp [fnAndn, hi]

theorem getLsbD_fnSel {w : Nat} (a b d : BitVec w) {i : Nat} (hi : i < w) :
    (fnSel w a b d).getLsbD i = if d.getLsbD i then a.getLsbD i else b.getLsbD i := by
  simp only [fnSel, BitVec.getLsbD_or, BitVec.getLsbD_and, BitVec.getLsbD_not, hi, decide_true, Bool.true_and]
  cases d.getLsbD i <;> simp

theorem fnMul_eq_low_product {w : Nat} (a b d : BitVec w) :
    fnMul w a b d = (a.setWidth (2 * w) * b.setWidth (2 * w)).setWidth w := by
  rw [BitVec.setWidth_mul _ _ (by omega), BitVec.setWidth_setWidth_of_le _ (by omega),
    BitVec.setWidth_setWidth_of_le _ (by omega), BitVec.setWidth_eq, BitVec.setWidth_eq, fnMul]

/-- The high half of a number of 2w bits is its quotient by 2^w. -/
theorem extractLsb'_ofInt_high (w : Nat) (x : Int) :
    (BitVec.ofInt (2 * w) x).extractLsb' w w = BitVec.ofInt w (x / (2 ^ w : Nat)) := by
  have hp : (0 : Int) < (2 ^ w : Nat) := Int.natCast_pos.2 (Nat.two_pow_pos w)
  have hpp : (0 : Int) < (2 ^ w : Nat) * (2 ^ w : Nat) := Int.mul_pos hp hp
  have hsq : ((2 ^ (2 * w) : Nat) : Int) = (2 ^ w : Nat) * (2 ^ w : Nat) := by
    rw [Nat.two_mul, Nat.pow_add, Int.natCast_mul]
  have hx : x % (2 ^ (2 * w) : Nat) = x + (2 ^ w : Nat) * ((2 ^ w : Nat) * -(x / (2 ^ (2 * w) : Nat))) := by
    rw [Int.emod_def, hsq, Int.mul_neg, Int.mul_neg, Int.mul_assoc, Int.sub_eq_add_neg]
  apply BitVec.eq_of_toNat_eq
  rw [BitVec.extractLsb'_toNat, BitVec.toNat_ofInt, BitVec.toNat_ofInt, Nat.shiftRight_eq_div_pow]
  apply Int.ofNat_inj.1
  rw [Int.natCast_emod, Int.natCast_ediv, Int.toNat_of_nonneg (Int.emod_nonneg _ (hsq ▸ Int.ne_of_gt hpp)),
    Int.toNat_of_nonneg (Int.emod_nonneg _ (Int.ne_of_gt hp)), hx, Int.add_mul_ediv_left _ _ (Int.ne_of_gt hp),
    Int.add_mul_emod_self_left]

theorem fnMulh_eq_high_product {w : Nat} (a b d : BitVec w) :
    fnMulh w a b d = (a.signExtend (2 * w) * b.signExtend (2 * w)).extractLsb' w w := by
  rw [BitVec.signExtend, BitVec.signExtend, ← BitVec.ofInt_mul, extractLsb'_ofInt_high, fnMulh]

theorem fnMulhn_eq_high_product {w : Nat} (a b d : BitVec w) :
    fnMulhn w a b d = (a.setWidth (2 * w) * b.setWidth (2 * w)).extractLsb' w w := by
  have hlt : a.toNat * b.toNat < 2 ^ (2 * w) := by
    rw [Nat.two_mul, Nat.pow_add]; exact Nat.mul_lt_mul'' a.isLt b.isLt
  apply BitVec.eq_of_toNat_eq
  rw [fnMulhn, BitVec.toNat_ofNat, BitVec.extractLsb'_toNat, BitVec.toNat_mul, BitVec.toNat_setWidth_of_le (by omega),
    BitVec.toNat_setWidth_of_le (by omega), Nat.mod_eq_of_lt hlt, Nat.shiftRight_eq_div_pow]

/-! ## Shifts, rotations and fields -/

theorem getLsbD_fnSll {w : Nat} (a b d : BitVec w) {i : Nat} (hi : i < w) :
    (fnSll w a b d).getLsbD i = (decide (b.toNat % w ≤ i) && a.getLsbD (i - b.toNat % w)) := by
  rw [fnSll, BitVec.getLsbD_shiftLeft, decide_eq_true hi, Bool.true_and, ← decide_not]
  simp only [Nat.not_lt]

theorem getLsbD_fnSrl {w : Nat} (a b d : BitVec w) (i : Nat) :
    (fnSrl w a b d).getLsbD i = a.getLsbD (i + b.toNat % w) := by
  simp [fnSrl, Nat.add_comm]

/-- An arithmetic shift fills with the sign bit. -/
theorem getLsbD_sshiftRight_sign {w : Nat} (a : BitVec w) (n : Nat) {i : Nat} (hi : i < w) :
    (a.sshiftRight n).getLsbD i = if i + n < w then a.getLsbD (i + n) else a.getLsbD (w - 1) := by
  rw [BitVec.getLsbD_sshiftRight, BitVec.msb_eq_getLsbD_last, Nat.add_comm n i]
  simp [Nat.not_le.2 hi]

/-- A rotation to the left moves bit i to bit i + n, counted round the width. -/
theorem getLsbD_rotateLeft_add_mod {w : Nat} (a : BitVec w) (n : Nat) {i : Nat} (hi : i < w) :
    (a.rotateLeft n).getLsbD ((i + n) % w) = a.getLsbD i := by
  have hn : n % w < w := Nat.mod_lt _ (by omega)
  rw [BitVec.getLsbD_rotateLeft, Nat.add_mod_eq_ite, Nat.mod_eq_of_lt hi]
  by_cases h : w ≤ i + n % w
  · rw [if_pos h, decide_eq_true (by omega), cond_true]; congr 1; omega
  · rw [if_neg h, decide_eq_false (by omega), cond_false, decide_eq_true (by omega), Bool.true_and]; congr 1; omega

/-- A rotation to the right takes bit i from bit i + n, counted round the width. -/
theorem getLsbD_rotateRight_eq_add_mod {w : Nat} (a : BitVec w) (n : Nat) {i : Nat} (hi : i < w) :
    (a.rotateRight n).getLsbD i = a.getLsbD ((i + n) % w) := by
  have hn : n % w < w := Nat.mod_lt _ (by omega)
  rw [BitVec.getLsbD_rotateRight, Nat.add_mod_eq_ite, Nat.mod_eq_of_lt hi]
  by_cases h : w ≤ i + n % w
  · rw [if_pos h, decide_eq_false (by omega), cond_false, decide_eq_true hi, Bool.true_and]; congr 1; omega
  · rw [if_neg h, decide_eq_true (by omega), cond_true]; congr 1; omega

theorem getLsbD_fnSra {w : Nat} (a b d : BitVec w) {i : Nat} (hi : i < w) :
    (fnSra w a b d).getLsbD i
      = if i + b.toNat % w < w then a.getLsbD (i + b.toNat % w) else a.getLsbD (w - 1) :=
  getLsbD_sshiftRight_sign a _ hi

theorem getLsbD_fnRol {w : Nat} (a b d : BitVec w) {i : Nat} (hi : i < w) :
    (fnRol w a b d).getLsbD ((i + b.toNat) % w) = a.getLsbD i := by
  rw [fnRol, BitVec.rotateLeft_mod_eq_rotateLeft, getLsbD_rotateLeft_add_mod a _ hi]

theorem getLsbD_fnRor {w : Nat} (a b d : BitVec w) {i : Nat} (hi : i < w) :
    (fnRor w a b d).getLsbD i = a.getLsbD ((i + b.toNat) % w) := by
  rw [fnRor, BitVec.rotateRight_mod_eq_rotateRight, getLsbD_rotateRight_eq_add_mod a _ hi]

theorem getLsbD_lowMask {w n i : Nat} (hi : i < w) : (lowMask w n).getLsbD i = decide (i < n) := by
  rw [lowMask, BitVec.getLsbD_ofNat, decide_eq_true hi, Nat.testBit_two_pow_sub_one, Bool.true_and]

theorem getLsbD_fnExt {w : Nat} (a b d : BitVec w) {i : Nat} (hi : i < w) :
    (fnExt w a b d).getLsbD i = (decide (i ≤ b.toNat / 256 % 64) && a.getLsbD (i + b.toNat % 64)) := by
  rw [fnExt, BitVec.getLsbD_and, BitVec.getLsbD_ushiftRight, getLsbD_lowMask hi, Bool.and_comm, Nat.add_comm i]
  simp only [Nat.lt_succ_iff]

theorem getLsbD_fnIns {w : Nat} (a b d : BitVec w) {i : Nat} (hi : i < w) :
    (fnIns w a b d).getLsbD i = if b.toNat % 64 ≤ i ∧ i ≤ b.toNat % 64 + b.toNat / 256 % 64
      then a.getLsbD (i - b.toNat % 64) else d.getLsbD i := by
  have hmask : (lowMask w (b.toNat / 256 % 64 + 1) <<< (b.toNat % 64)).getLsbD i
      = decide (b.toNat % 64 ≤ i ∧ i ≤ b.toNat % 64 + b.toNat / 256 % 64) := by
    rw [BitVec.getLsbD_shiftLeft, getLsbD_lowMask (by omega)]
    simp only [hi, decide_true, Bool.true_and, ← decide_not, ← Bool.decide_and, decide_eq_decide]
    omega
  simp only [fnIns, BitVec.getLsbD_or, BitVec.getLsbD_and, BitVec.getLsbD_not, BitVec.getLsbD_shiftLeft a, hmask, hi,
    decide_true, Bool.true_and]
  split
  · rename_i h; simp [h, Nat.not_lt.2 h.1]
  · rename_i h; simp [h]

/-! ## Bytes -/

/-- Bit i of a little-endian number is bit i mod 8 of its byte i / 8. -/
theorem testBit_bytesToNat (bs : List Byte) (i : Nat) :
    (bytesToNat bs).testBit i = (bs.getD (i / 8) 0).getLsbD (i % 8) := by
  induction bs generalizing i with
  | nil => simp [bytesToNat]
  | cons b bs ih =>
    rw [bytesToNat, Nat.add_comm, show (256 : Nat) = 2 ^ 8 from rfl, Nat.testBit_two_pow_mul_add _ b.isLt]
    split
    · rename_i h; rw [Nat.div_eq_of_lt h, Nat.mod_eq_of_lt h]; rfl
    · rename_i h
      rw [ih, show i / 8 = (i - 8) / 8 + 1 by omega, show i % 8 = (i - 8) % 8 by omega]; rfl

@[simp] theorem length_natToBytes (n v : Nat) : (natToBytes n v).length = n := by
  induction n generalizing v with
  | zero => rfl
  | succ n ih => simp [natToBytes, ih]

theorem getD_natToBytes {n k : Nat} (v : Nat) (hk : k < n) (x : Byte) :
    (natToBytes n v).getD k x = BitVec.ofNat 8 (v / 2 ^ (8 * k)) := by
  induction n generalizing v k with
  | zero => omega
  | succ n ih =>
    cases k with
    | zero => simp [natToBytes]
    | succ k =>
      rw [natToBytes, List.getD_cons_succ, ih _ (by omega), show (256 : Nat) = 2 ^ 8 from rfl, Nat.div_div_eq_div_mul,
        ← Nat.pow_add, Nat.add_comm 8, Nat.mul_succ]

/-- R154: byte k from below of the result is byte k from above of the operand. -/
theorem getLsbD_fnBswp {w : Nat} (hw : 8 ∣ w) (a b d : BitVec w) {i : Nat} (hi : i < w) :
    (fnBswp w a b d).getLsbD i = a.getLsbD (w - 8 - i / 8 * 8 + i % 8) := by
  obtain ⟨n, rfl⟩ := hw
  have hk : i / 8 < n := by omega
  rw [fnBswp, BitVec.getLsbD_ofNat, testBit_bytesToNat, Nat.mul_div_cancel_left n (by omega),
    List.getD_eq_getElem?_getD, List.getElem?_reverse (by rwa [length_natToBytes]), ← List.getD_eq_getElem?_getD,
    length_natToBytes, getD_natToBytes _ (by omega), BitVec.getLsbD_ofNat, Nat.testBit_div_two_pow,
    ← BitVec.testBit_toNat]
  have hpos : 8 * n - 8 - i / 8 * 8 + i % 8 = i % 8 + 8 * (n - 1 - i / 8) := by omega
  simp [hi, hpos, Nat.mod_lt]

/-! ## Comparisons and counts -/

theorem toInt_fnMin {w : Nat} (a b d : BitVec w) : (fnMin w a b d).toInt = min a.toInt b.toInt := by
  rw [fnMin, BitVec.slt_eq_decide]; grind

theorem toInt_fnMax {w : Nat} (a b d : BitVec w) : (fnMax w a b d).toInt = max a.toInt b.toInt := by
  rw [fnMax, BitVec.slt_eq_decide]; grind

theorem toNat_fnMinn {w : Nat} (a b d : BitVec w) : (fnMinn w a b d).toNat = min a.toNat b.toNat := by
  rw [fnMinn, BitVec.ult]; grind

theorem toNat_fnMaxn {w : Nat} (a b d : BitVec w) : (fnMaxn w a b d).toNat = max a.toNat b.toNat := by
  rw [fnMaxn, BitVec.ult]; grind

theorem toNat_boolBv {w : Nat} (hw : 0 < w) (p : Bool) : (boolBv w p).toNat = if p then 1 else 0 := by
  cases p with
  | false => exact BitVec.toNat_zero
  | true =>
    show (BitVec.ofNat w 1).toNat = 1
    rw [BitVec.toNat_ofNat, Nat.mod_eq_of_lt (Nat.one_lt_two_pow (Nat.ne_of_gt hw))]

/-- SLTI's value as a choice of two words. -/
theorem boolBv_slt {w : Nat} (a b : BitVec w) : boolBv w (a.slt b) = if a.toInt < b.toInt then 1 else 0 := by
  rw [boolBv, BitVec.slt_eq_decide]; simp

theorem not_slt_iff {w : Nat} (a b : BitVec w) : (!a.slt b) = true ↔ b.toInt ≤ a.toInt := by
  simp [BitVec.slt_eq_decide]

theorem not_ult_iff {w : Nat} (a b : BitVec w) : (!a.ult b) = true ↔ b.toNat ≤ a.toNat := by
  simp [BitVec.ult_eq_decide]

theorem toNat_fnSlt {w : Nat} (hw : 0 < w) (a b d : BitVec w) :
    (fnSlt w a b d).toNat = if a.toInt < b.toInt then 1 else 0 := by
  simp [fnSlt, toNat_boolBv hw, BitVec.slt_eq_decide]

theorem toNat_fnSltn {w : Nat} (hw : 0 < w) (a b d : BitVec w) :
    (fnSltn w a b d).toNat = if a.toNat < b.toNat then 1 else 0 := by
  simp [fnSltn, toNat_boolBv hw, BitVec.ult_eq_decide]

theorem toNat_fnSeq {w : Nat} (hw : 0 < w) (a b d : BitVec w) : (fnSeq w a b d).toNat = if a = b then 1 else 0 := by
  simp [fnSeq, toNat_boolBv hw]

theorem toNat_fnClz {w : Nat} (a b d : BitVec w) :
    (fnClz w a b d).toNat = if a = 0 then w else w - 1 - Nat.log2 a.toNat := by
  rw [fnClz, BitVec.toNat_ofNat, Nat.mod_eq_of_lt]
  exact Nat.lt_of_le_of_lt (by split <;> omega) Nat.lt_two_pow_self

/-- R154: CLZ counts the zeros above the highest one. -/
theorem fnClz_counts_leading_zeros {w : Nat} (a b d : BitVec w) :
    (fnClz w a b d).toNat ≤ w ∧ (∀ i < w, w ≤ i + (fnClz w a b d).toNat → a.getLsbD i = false)
      ∧ ((fnClz w a b d).toNat < w → a.getLsbD (w - 1 - (fnClz w a b d).toNat) = true) := by
  rw [toNat_fnClz]
  by_cases ha : a = 0
  · simp [ha]
  · have hne : a.toNat ≠ 0 := fun h => ha (BitVec.eq_of_toNat_eq (by simpa using h))
    have hlog : a.toNat.log2 < w := (Nat.log2_lt hne).2 a.isLt
    rw [if_neg ha]
    refine ⟨by omega, fun i hi h => ?_, fun _ => ?_⟩
    · exact Nat.testBit_lt_two_pow (Nat.lt_of_lt_of_le Nat.lt_log2_self (Nat.pow_le_pow_right (by omega) (by omega)))
    · rw [show w - 1 - (w - 1 - a.toNat.log2) = a.toNat.log2 by omega]
      exact Nat.testBit_log2 hne

/-- R154: CTZ counts the zeros below the lowest one. -/
theorem fnCtz_counts_trailing_zeros {w : Nat} (a b d : BitVec w) :
    (fnCtz w a b d).toNat ≤ w ∧ (∀ i < (fnCtz w a b d).toNat, a.getLsbD i = false)
      ∧ ((fnCtz w a b d).toNat < w → a.getLsbD (fnCtz w a b d).toNat = true) := by
  cases hf : (List.range w).find? fun i => a.getLsbD i with
  | none =>
    have hv : (fnCtz w a b d).toNat = w := by simp [fnCtz, hf]
    rw [hv]
    refine ⟨Nat.le_refl w, fun i hi => ?_, fun h => absurd h (Nat.lt_irrefl w)⟩
    simpa using List.find?_eq_none.1 hf i (List.mem_range.2 hi)
  | some k =>
    obtain ⟨hk, hmem, hlow⟩ := List.find?_range_eq_some.1 hf
    have hkw := List.mem_range.1 hmem
    have hv : (fnCtz w a b d).toNat = k := by
      simp [fnCtz, hf, Nat.mod_eq_of_lt (Nat.lt_trans hkw Nat.lt_two_pow_self)]
    rw [hv]
    exact ⟨Nat.le_of_lt hkw, fun i hi => by simpa using hlow i hi, fun _ => hk⟩

theorem toNat_fnPopc {w : Nat} (a b d : BitVec w) :
    (fnPopc w a b d).toNat = ((List.range w).filter fun i => a.getLsbD i).length := by
  have hle : ((List.range w).filter fun i => a.getLsbD i).length ≤ w := by
    simpa using List.length_filter_le (fun i => a.getLsbD i) (List.range w)
  rw [fnPopc, List.countP_eq_length_filter, BitVec.toNat_ofNat, Nat.mod_eq_of_lt (Nat.lt_of_le_of_lt hle Nat.lt_two_pow_self)]

/-! ## Quotients and remainders -/

theorem fnDiv_eq_sdiv {w : Nat} (a b d : BitVec w) (hb : b ≠ 0) : fnDiv w a b d = a.sdiv b := by
  apply BitVec.eq_of_toInt_eq
  rw [fnDiv, if_neg hb, BitVec.toInt_ofInt, BitVec.toInt_sdiv]

theorem fnRem_eq_srem {w : Nat} (a b d : BitVec w) (hb : b ≠ 0) : fnRem w a b d = a.srem b := by
  rw [fnRem, if_neg hb, ← BitVec.toInt_srem, BitVec.ofInt_toInt]

/-- R155: the quotient towards zero and its corners. -/
theorem fnDiv_quotient {w : Nat} (a b d : BitVec w) :
    if b = 0 then fnDiv w a b d = BitVec.allOnes w
    else if a = BitVec.intMin w ∧ b = BitVec.allOnes w then fnDiv w a b d = BitVec.intMin w
    else (fnDiv w a b d).toInt = a.toInt.tdiv b.toInt := by
  split
  · rename_i hb; rw [fnDiv, if_pos hb]
  · rename_i hb
    rw [fnDiv_eq_sdiv a b d hb]
    split
    · rename_i h
      rw [h.1, h.2, ← BitVec.neg_one_eq_allOnes, BitVec.intMin_sdiv_neg_one]
    · rename_i h
      refine BitVec.toInt_sdiv_of_ne_or_ne a b ?_
      rw [BitVec.neg_one_eq_allOnes]
      exact Classical.not_and_iff_not_or_not.1 h

/-- R155: the natural quotient. -/
theorem fnDivn_quotient {w : Nat} (a b d : BitVec w) :
    if b = 0 then fnDivn w a b d = BitVec.allOnes w else (fnDivn w a b d).toNat = a.toNat / b.toNat := by
  split
  · rename_i hb; rw [fnDivn, if_pos hb]
  · rename_i hb
    rw [fnDivn, if_neg hb, BitVec.toNat_ofNat, Nat.mod_eq_of_lt (Nat.lt_of_le_of_lt (Nat.div_le_self _ _) a.isLt)]

/-- R155: the remainder of the quotient towards zero and its corners. -/
theorem fnRem_remainder {w : Nat} (a b d : BitVec w) :
    if b = 0 then fnRem w a b d = a
    else if a = BitVec.intMin w ∧ b = BitVec.allOnes w then fnRem w a b d = 0#w
    else (fnRem w a b d).toInt = a.toInt - a.toInt.tdiv b.toInt * b.toInt := by
  have hval : ¬ b = 0 → (fnRem w a b d).toInt = a.toInt.tmod b.toInt := fun hb => by
    rw [fnRem_eq_srem a b d hb, BitVec.toInt_srem]
  split
  · rename_i hb; rw [fnRem, if_pos hb]
  · rename_i hb
    split
    · rename_i h
      have hw : w ≠ 0 := fun h0 => hb (h.2.trans (BitVec.allOnes_eq_zero_iff.2 h0))
      have hm : b.toInt = -1 := by rw [h.2, BitVec.toInt_allOnes, if_pos (by omega)]
      apply BitVec.eq_of_toInt_eq
      rw [hval hb, hm]; simp
    · rw [hval hb, Int.tmod_def, Int.mul_comm]

/-- R155: the natural remainder. -/
theorem fnRemn_remainder {w : Nat} (a b d : BitVec w) :
    if b = 0 then fnRemn w a b d = a else (fnRemn w a b d).toNat = a.toNat - a.toNat / b.toNat * b.toNat := by
  split
  · rename_i hb; rw [fnRemn, if_pos hb]
  · rename_i hb
    rw [fnRemn, if_neg hb, BitVec.toNat_ofNat, Nat.mod_eq_of_lt (Nat.lt_of_le_of_lt (Nat.mod_le _ _) a.isLt),
      Nat.mod_eq_sub_div_mul]

end Sys2Proof.Machine
end

section
/-! SUPPORT. Where the scalar rows complete and where they trap (R153 to R158): an equation for each shared meaning under
declared registers, and from it the form in which the statements speak of a row. -/

namespace Sys2Proof.Machine

theorem withRegs_of_regsOk {s : State} {rs : List Reg} (h : s.regsOk rs = true) (k : Out) : withRegs s rs k = k :=
  if_pos h

/-! ## ALU and division rows -/

/-- The state after an ALU word that completes. -/
def aluNext (f : AluFn) (o : RegOp) (s : State) : State :=
  (s.setReg o.d (aluValue f o.w32 (s.getReg o.a) (s.getReg o.b) (s.getReg o.d))).advance 1

theorem aluExec_eq_next {o : RegOp} {s : State} (h : s.regsOk [o.d, o.a, o.b] = true) (f : AluFn) :
    aluExec f o s = .next (aluNext f o s) := withRegs_of_regsOk h _

theorem divExec_eq_next {o : RegOp} {s : State} (h : s.regsOk [o.d, o.a, o.b] = true)
    (hz : s.trap.trapen = true → divByZero o s = false) (f : AluFn) : divExec f o s = .next (aluNext f o s) := by
  rw [divExec, withRegs_of_regsOk h, if_neg]
  · rfl
  · rintro ⟨ht, hb⟩
    rw [hz ht] at hb
    exact Bool.false_ne_true hb

theorem divExec_eq_trap {o : RegOp} {s : State} (h : s.regsOk [o.d, o.a, o.b] = true) (ht : s.trap.trapen = true)
    (hz : divByZero o s = true) (f : AluFn) : divExec f o s = trapNow s ⟨.idivz, 0, 0⟩ := by
  rw [divExec, withRegs_of_regsOk h, if_pos ⟨ht, hz⟩]

theorem divByZero_wide {o : RegOp} (hw : o.w32 = false) (s : State) : divByZero o s = decide (s.getReg o.b = 0) := by
  simp [divByZero, hw]

theorem divByZero_narrow {o : RegOp} (hw : o.w32 = true) (s : State) :
    divByZero o s = decide ((s.getReg o.b).setWidth 32 = 0#32) := by
  simp [divByZero, hw]

/-- A word at width 64 that completes writes its function's value, with what holds of that value. -/
theorem completes_wide {i : Instr} {f : AluFn} {o : RegOp} {s : State} {P : Word → Prop}
    (he : exec i s = .next (aluNext f o s)) (hw : o.w32 = false) (hP : P (f 64 (s.getReg o.a) (s.getReg o.b) (s.getReg o.d))) :
    Completes i s fun t => ∃ r : Word, P r ∧ ScalarResult s t o.d r (s.pc + 4) := by
  refine ⟨_, he, _, hP, ?_⟩
  rw [aluNext, aluValue, hw]
  exact scalarResult_advance s o.d _ 1

/-- A word at width 32 that completes writes its function's value sign-extended, with what holds of that value. -/
theorem completes_narrow {i : Instr} {f : AluFn} {o : RegOp} {s : State} {P : BitVec 32 → Prop}
    (he : exec i s = .next (aluNext f o s)) (hw : o.w32 = true)
    (hP : P (f 32 ((s.getReg o.a).setWidth 32) ((s.getReg o.b).setWidth 32) ((s.getReg o.d).setWidth 32))) :
    Completes i s fun t => ∃ r : BitVec 32, P r ∧ ScalarResult s t o.d (r.signExtend 64) (s.pc + 4) := by
  refine ⟨_, he, _, hP, ?_⟩
  rw [aluNext, aluValue, hw]
  exact scalarResult_advance s o.d _ 1

/-- An ALU row whose function obeys the rule at every width of whole bytes. -/
theorem aluRow_of_value {row : RegOp → Instr} {f : AluFn} {rule : (w : Nat) → (a b d r : BitVec w) → Prop}
    (hexec : ∀ o s, exec (row o) s = aluExec f o s)
    (hvalue : ∀ w, 0 < w → 8 ∣ w → ∀ a b d : BitVec w, rule w a b d (f w a b d)) : AluRow row rule := by
  intro o s hregs
  have he := (hexec o s).trans (aluExec_eq_next hregs f)
  exact ⟨fun hw => completes_wide he hw (hvalue 64 (by decide) (by decide) _ _ _),
    fun hw => completes_narrow he hw (hvalue 32 (by decide) (by decide) _ _ _)⟩

/-- A division row whose function obeys the rule at every width. -/
theorem divRow_of_value {row : RegOp → Instr} {f : AluFn} {rule : (w : Nat) → (a b r : BitVec w) → Prop}
    (hexec : ∀ o s, exec (row o) s = divExec f o s)
    (hvalue : ∀ w, ∀ a b d : BitVec w, rule w a b (f w a b d)) : DivRow row rule := by
  intro o s hregs
  refine ⟨fun hw hz => ?_, fun hw hz => ?_⟩
  · have hzero : s.trap.trapen = true → divByZero o s = false := fun ht => by
      rw [divByZero_wide hw]; exact decide_eq_false (hz ht)
    exact completes_wide ((hexec o s).trans (divExec_eq_next hregs hzero f)) hw (hvalue 64 _ _ _)
  · have hzero : s.trap.trapen = true → divByZero o s = false := fun ht => by
      rw [divByZero_narrow hw]; exact decide_eq_false (hz ht)
    exact completes_narrow ((hexec o s).trans (divExec_eq_next hregs hzero f)) hw (hvalue 32 _ _ _)

/-- R155: a division row with a zero divisor at its width traps where TRAPEN.IDZ is set. -/
theorem traps_idivz {row : RegOp → Instr} {f : AluFn} (hexec : ∀ o s, exec (row o) s = divExec f o s) {o : RegOp}
    {s : State} (hregs : s.regsOk [o.d, o.a, o.b] = true) (hcan : CanTrap s) (ht : s.trap.trapen = true)
    (hz : if o.w32 then (s.getReg o.b).setWidth 32 = 0#32 else s.getReg o.b = 0) : Traps (row o) s .idivz 0 0 := by
  have hzero : divByZero o s = true := by
    cases hw : o.w32 with
    | false => rw [hw] at hz; rw [divByZero_wide hw]; exact decide_eq_true hz
    | true => rw [hw] at hz; rw [divByZero_narrow hw]; exact decide_eq_true hz
  exact traps_of hcan (by decide) (by decide) ((hexec o s).trans (divExec_eq_trap hregs ht hzero f))

/-! ## Immediate rows -/

/-- A meaning that writes one register under declared registers and goes on past its words. -/
theorem completes_setReg_advance {i : Instr} {s : State} {rs : List Reg} {d : Reg} {v : Word} {n : Nat}
    (he : exec i s = withRegs s rs (.next ((s.setReg d v).advance n))) (hregs : s.regsOk rs = true) :
    Completes i s fun t => ScalarResult s t d v (s.pc + BitVec.ofNat 64 (4 * n)) :=
  ⟨_, he.trans (withRegs_of_regsOk hregs _), scalarResult_advance s d v n⟩

/-- An immediate row whose function is the rule's. -/
theorem immRow_of_value {row : ImmOp → Instr} {f g : Word → Word → Word}
    (hexec : ∀ o s, exec (row o) s = immExec f o s) (hvalue : ∀ a i, g a i = f a i) : ImmRow row g := by
  intro o s hregs
  rw [hvalue]
  exact completes_setReg_advance (hexec o s) hregs

/-- R156: the value of SHI, bit by bit. -/
theorem getLsbD_shiValue (k : ShiftKind) (n : BitVec 6) (a : Word) {i : Nat} (hi : i < 64) :
    (shiValue k n a).getLsbD i = (match k with
      | .sll => decide (n.toNat ≤ i) && a.getLsbD (i - n.toNat)
      | .srl => a.getLsbD (i + n.toNat)
      | .sra => if i + n.toNat < 64 then a.getLsbD (i + n.toNat) else a.getLsbD 63
      | .rol => a.getLsbD ((i + 64 - n.toNat) % 64)) := by
  have hn := n.isLt
  cases k with
  | sll =>
    simp only [shiValue, BitVec.getLsbD_shiftLeft, decide_eq_true hi, Bool.true_and, ← decide_not, Nat.not_lt]
  | srl => simp only [shiValue, BitVec.getLsbD_ushiftRight, Nat.add_comm]
  | sra => exact getLsbD_sshiftRight_sign a n.toNat hi
  | rol =>
    have hback : ((i + 64 - n.toNat) % 64 + n.toNat) % 64 = i := by omega
    have hrot := getLsbD_rotateLeft_add_mod a n.toNat (i := (i + 64 - n.toNat) % 64) (Nat.mod_lt _ (by decide))
    rwa [hback] at hrot

/-- R156: LUI's 32 bits are imm20 above twelve zeros. -/
theorem luiValue_eq_append (imm : BitVec 20) : luiValue imm = (imm ++ 0#12).signExtend 64 := by
  have h32 : (imm.setWidth 32) <<< 12 = imm ++ 0#12 := by
    apply BitVec.eq_of_getLsbD_eq
    intro i hi
    rw [BitVec.getLsbD_shiftLeft, BitVec.getLsbD_append, BitVec.getLsbD_setWidth]
    by_cases h : i < 12
    · simp [h]
    · simp [h, hi, show i - 12 < 32 by omega]
  rw [luiValue, h32]

/-! ## Branches and jumps -/

/-- R157, R158: four times the sign-extended offset, in words. -/
theorem four_mul_signExtend {n : Nat} (off : BitVec n) : 4 * off.signExtend 64 = BitVec.ofInt 64 (4 * off.toInt) := by
  rw [BitVec.ofInt_mul, BitVec.signExtend]; rfl

/-- A branch row whose condition decides the rule's comparison. -/
theorem branchRow_of_cond {row : BranchOp → Instr} {cond : Word → Word → Bool} {holds : Word → Word → Prop}
    (hexec : ∀ o s, exec (row o) s = branchExec cond o s) (hcond : ∀ a b, cond a b = true ↔ holds a b) :
    BranchRow row holds := by
  intro o s hregs
  have he := (hexec o s).trans (withRegs_of_regsOk hregs _)
  refine ⟨fun h => ?_, fun h => ?_⟩
  · rw [if_pos ((hcond _ _).2 h), four_mul_signExtend] at he
    exact ⟨_, he, noResult_jump s _⟩
  · rw [if_neg (mt (hcond _ _).1 h)] at he
    exact ⟨_, he, noResult_advance s 1⟩

theorem jalrTarget_eq (o : ImmOp) (s : State) : jalrTarget o s = s.getReg o.a + BitVec.ofInt 64 o.imm.toInt := rfl

/-- The two low bits of an address are zero exactly where it is a word's. -/
theorem extractLsb'_two_eq_zero_iff (a : Word) : a.extractLsb' 0 2 = 0 ↔ a.toNat % 4 = 0 := by
  rw [← BitVec.toNat_inj, BitVec.extractLsb'_toNat, Nat.shiftRight_zero]; rfl

theorem exec_jalr_aligned {o : ImmOp} {s : State} (hregs : s.regsOk [o.d, o.a] = true) (h : (jalrTarget o s).toNat % 4 = 0) :
    exec (.jalr o) s = .next ((s.setReg o.d (s.pc + 4)).jump (jalrTarget o s)) := by
  show withRegs s [o.d, o.a] _ = _
  rw [withRegs_of_regsOk hregs, if_neg (Classical.not_not.2 ((extractLsb'_two_eq_zero_iff _).2 h))]

theorem exec_jalr_misaligned {o : ImmOp} {s : State} (hregs : s.regsOk [o.d, o.a] = true)
    (h : (jalrTarget o s).toNat % 4 ≠ 0) : exec (.jalr o) s = trapNow s ⟨.misalign, 0, jalrTarget o s⟩ := by
  show withRegs s [o.d, o.a] _ = _
  rw [withRegs_of_regsOk hregs, if_pos (mt (extractLsb'_two_eq_zero_iff _).1 h)]

end Sys2Proof.Machine
end

section
/-! SUPPORT. The arithmetic, immediate and branch rows settled: each family assembled from its functions' values. -/

namespace Sys2Proof.Machine

theorem aluArithmetic : AluArithmetic :=
  ⟨aluRow_of_value (fun _ _ => rfl) fun _ _ _ => toNat_fnAdd,
    aluRow_of_value (fun _ _ => rfl) fun _ _ _ => toNat_fnSub_add,
    aluRow_of_value (fun _ _ => rfl) fun _ _ _ a b d i _ => getLsbD_fnAnd a b d i,
    aluRow_of_value (fun _ _ => rfl) fun _ _ _ a b d i _ => getLsbD_fnOr a b d i,
    aluRow_of_value (fun _ _ => rfl) fun _ _ _ a b d i _ => getLsbD_fnXor a b d i,
    aluRow_of_value (fun _ _ => rfl) fun _ _ _ a b d _ hi => getLsbD_fnAndn a b d hi,
    aluRow_of_value (fun _ _ => rfl) fun _ _ _ a b d _ hi => getLsbD_fnSel a b d hi,
    aluRow_of_value (fun _ _ => rfl) fun _ _ _ => fnMul_eq_low_product,
    aluRow_of_value (fun _ _ => rfl) fun _ _ _ => fnMulh_eq_high_product,
    aluRow_of_value (fun _ _ => rfl) fun _ _ _ => fnMulhn_eq_high_product⟩

theorem aluShifts : AluShifts :=
  ⟨aluRow_of_value (fun _ _ => rfl) fun _ _ _ a b d _ hi => getLsbD_fnSll a b d hi,
    aluRow_of_value (fun _ _ => rfl) fun _ _ _ a b d i _ => getLsbD_fnSrl a b d i,
    aluRow_of_value (fun _ _ => rfl) fun _ _ _ a b d _ hi => getLsbD_fnSra a b d hi,
    aluRow_of_value (fun _ _ => rfl) fun _ _ _ a b d _ hi => getLsbD_fnRol a b d hi,
    aluRow_of_value (fun _ _ => rfl) fun _ _ _ a b d _ hi => getLsbD_fnRor a b d hi,
    aluRow_of_value (fun _ _ => rfl) fun _ _ _ a b d _ hi => getLsbD_fnExt a b d hi,
    aluRow_of_value (fun _ _ => rfl) fun _ _ _ a b d _ hi => getLsbD_fnIns a b d hi,
    aluRow_of_value (fun _ _ => rfl) fun _ _ hw a b d _ hi => getLsbD_fnBswp hw a b d hi⟩

theorem aluComparesAndCounts : AluComparesAndCounts :=
  ⟨aluRow_of_value (fun _ _ => rfl) fun _ _ _ => toInt_fnMin,
    aluRow_of_value (fun _ _ => rfl) fun _ _ _ => toInt_fnMax,
    aluRow_of_value (fun _ _ => rfl) fun _ _ _ => toNat_fnMinn,
    aluRow_of_value (fun _ _ => rfl) fun _ _ _ => toNat_fnMaxn,
    aluRow_of_value (fun _ _ => rfl) fun _ hw _ => toNat_fnSlt hw,
    aluRow_of_value (fun _ _ => rfl) fun _ hw _ => toNat_fnSltn hw,
    aluRow_of_value (fun _ _ => rfl) fun _ hw _ => toNat_fnSeq hw,
    aluRow_of_value (fun _ _ => rfl) fun _ _ _ => fnClz_counts_leading_zeros,
    aluRow_of_value (fun _ _ => rfl) fun _ _ _ => fnCtz_counts_trailing_zeros,
    aluRow_of_value (fun _ _ => rfl) fun _ _ _ => toNat_fnPopc⟩

theorem divisionResults : DivisionResults :=
  ⟨divRow_of_value (fun _ _ => rfl) fun _ => fnDiv_quotient, divRow_of_value (fun _ _ => rfl) fun _ => fnDivn_quotient,
    divRow_of_value (fun _ _ => rfl) fun _ => fnRem_remainder, divRow_of_value (fun _ _ => rfl) fun _ => fnRemn_remainder⟩

theorem divisionTraps : DivisionTraps := by
  intro row hrow o s hregs hcan ht hz
  simp only [List.mem_cons, List.not_mem_nil, or_false] at hrow
  rcases hrow with rfl | rfl | rfl | rfl
  · exact traps_idivz (f := fnDiv) (fun _ _ => rfl) hregs hcan ht hz
  · exact traps_idivz (f := fnDivn) (fun _ _ => rfl) hregs hcan ht hz
  · exact traps_idivz (f := fnRem) (fun _ _ => rfl) hregs hcan ht hz
  · exact traps_idivz (f := fnRemn) (fun _ _ => rfl) hregs hcan ht hz

theorem unaryRows : UnaryRows := by
  intro row hrow o
  simp only [List.mem_cons, List.not_mem_nil, or_false] at hrow
  rcases hrow with rfl | rfl | rfl | rfl <;> exact decide_eq_true_iff

/-- Settles O2: every row's function obeys its rule at every width, and the shared meaning writes its value. -/
theorem aluResults : Obligations.AluResults :=
  ⟨aluArithmetic, aluShifts, aluComparesAndCounts, divisionResults, unaryRows⟩

/-- Settles O3: the division rows complete with their quotient or remainder, or trap IDIVZ. -/
theorem divisionResultsAndTraps : Obligations.DivisionResultsAndTraps := ⟨divisionResults, divisionTraps⟩

theorem decodeWords_nop : decodeWords 0x08000000 0 = .ok (.addi ⟨0, 0, 0⟩) := rfl

theorem immRow_slti : ImmRow .slti (fun a i => if a.toInt < i.toInt then 1 else 0) :=
  immRow_of_value (f := fun a i => boolBv 64 (a.slt i)) (fun _ _ => rfl) fun a i => (boolBv_slt a i).symm

/-- Settles O5: the rows with sign-extended operands by their functions, and SHI, LUI and LIW each by its value. -/
theorem immediateResults : Obligations.ImmediateResults := by
  unfold Obligations.ImmediateResults
  refine ⟨decodeWords_nop, immRow_of_value (fun _ _ => rfl) fun a i => (BitVec.add_def a i).symm,
    immRow_of_value (fun _ _ => rfl) fun _ _ => rfl, immRow_of_value (fun _ _ => rfl) fun _ _ => rfl,
    immRow_of_value (fun _ _ => rfl) fun _ _ => rfl, immRow_slti, ?_, ?_, ?_⟩
  · intro d a k n s hregs
    exact ⟨_, withRegs_of_regsOk hregs _, _, scalarResult_advance s d _ 1, fun i hi => getLsbD_shiValue k n _ hi⟩
  · intro d imm s hregs
    rw [← luiValue_eq_append]
    exact completes_setReg_advance (n := 1) rfl hregs
  · intro d imm s hregs
    exact completes_setReg_advance (n := 2) rfl hregs

/-- Settles O6: each branch's condition decides its comparison. -/
theorem branchesGoWhereTheComparisonSays : Obligations.BranchesGoWhereTheComparisonSays :=
  ⟨branchRow_of_cond (fun _ _ => rfl) fun _ _ => beq_iff_eq,
    branchRow_of_cond (fun _ _ => rfl) fun _ _ => bne_iff_ne,
    branchRow_of_cond (fun _ _ => rfl) fun _ _ => BitVec.slt_iff_toInt_lt,
    branchRow_of_cond (fun _ _ => rfl) not_slt_iff,
    branchRow_of_cond (fun _ _ => rfl) fun _ _ => BitVec.ult_iff_lt,
    branchRow_of_cond (fun _ _ => rfl) not_ult_iff⟩

end Sys2Proof.Machine
end

section
/-! SUPPORT. Bytes installed at plain homes, the record in the error log (R360, R361), the trap of a fetch (R135, R158), and
the jumps settled. -/

namespace Sys2Proof.Machine

/-! ## Installing bytes at plain homes -/

/-- Bytes written one after another, from offset k of a location on, are read back. -/
theorem Mem.read_writeAll_zipIdx {m : Mem} (h : Mem.wf m = true) (a : Nat) (bs : List Byte) (k : Nat) {i : Nat}
    (hi : i < bs.length) :
    Mem.read (Mem.writeAll m ((bs.zipIdx k).map fun p => (a + p.2, p.1))) (a + (k + i)) = bs[i] := by
  induction bs generalizing m k i with
  | nil => exact absurd hi (Nat.not_lt_zero i)
  | cons b bs ih =>
    show Mem.read (Mem.writeAll (Mem.write m (a + k) b) ((bs.zipIdx (k + 1)).map fun p => (a + p.2, p.1))) _ = _
    cases i with
    | zero =>
      rw [show a + (k + 0) = a + k from rfl, Mem.read_writeAll_other (Mem.wf_write h _ _), Mem.read_write h, if_pos rfl]
      · rfl
      · intro w hw
        obtain ⟨⟨c, j⟩, hp, rfl⟩ := List.mem_map.1 hw
        have hj := List.le_snd_of_mem_zipIdx hp
        have hjk : k + 1 ≤ j := hj
        show a + j ≠ a + k
        omega
    | succ i =>
      rw [show k + (i + 1) = k + 1 + i by omega, ih (Mem.wf_write h _ _) (k + 1) (Nat.lt_of_succ_lt_succ hi)]
      rfl

theorem Mem.read_writeBytes {m : Mem} (h : Mem.wf m = true) (a : Nat) (bs : List Byte) {i : Nat} (hi : i < bs.length) :
    Mem.read (Mem.writeBytes m a bs) (a + i) = bs[i] := by
  have hread := Mem.read_writeAll_zipIdx h a bs 0 hi
  rwa [Nat.zero_add] at hread

theorem homeWrite_of_plain (pk : Vector Word 16) (rnd : Nat → Nat) (m : Mem) {ws : List (Nat × Byte)}
    (h : ∀ w ∈ ws, isPacked w.1 = false) : homeWrite pk rnd m ws = Mem.writeAll m ws := by
  have hplain : (ws.filter fun w => !isPacked w.1) = ws := List.filter_eq_self.2 fun w hw => by simp [h w hw]
  have hpacked : (ws.filter fun w => isPacked w.1) = [] := List.filter_eq_nil_iff.2 fun w hw => by simp [h w hw]
  rw [homeWrite, hplain, hpacked]
  rfl

theorem isPacked_of_lt {l : Nat} (h : l < 2 ^ 48) : isPacked l = false := by
  have : regionOf l = 0 := Nat.div_eq_of_lt h
  simp [isPacked, this, packRegion]

theorem State.liveWrites_of_live (s : State) {ws : List (Nat × Byte)} (h : ∀ w ∈ ws, s.stackFailed w.1 = false) :
    s.liveWrites ws = ws := by
  unfold State.liveWrites
  split
  · rfl
  · exact List.filter_eq_self.2 fun w hw => by simp [h w hw]

/-- The homes after an installation at plain locations of live stacks. -/
theorem State.install_home_of_plain (s : State) {ws : List (Nat × Byte)} (hp : ∀ w ∈ ws, isPacked w.1 = false)
    (hl : ∀ w ∈ ws, s.stackFailed w.1 = false) : (s.install ws).memory.home = Mem.writeAll s.memory.home ws := by
  unfold State.install
  simp only [s.liveWrites_of_live hl]
  split
  · rename_i he; rw [List.isEmpty_iff.1 he]; rfl
  · exact homeWrite_of_plain _ _ _ hp

/-- An installation changes what R91 names, and nothing else. -/
theorem installed_install (s : State) (ws : List (Nat × Byte)) : Installed s (s.install ws) := by
  unfold State.install
  dsimp only
  split <;> rfl

/-- The 64 B of a unit lie in one HBM stack, or in none. -/
theorem stackOf_in_unit {a i : Nat} (ha : 64 ∣ a) (hi : i < 64) (hb : a + 64 ≤ 2 ^ 48) :
    State.stackOf (a + i) = State.stackOf a := by
  have hphys : ∀ l, l < 2 ^ 48 → State.physOf l = l ∧ regionOf l = 0 := fun l hl =>
    ⟨by rw [State.physOf, isPacked_of_lt hl]; rfl, Nat.div_eq_of_lt hl⟩
  obtain ⟨hpa, hra⟩ := hphys a (by omega)
  obtain ⟨hpi, hri⟩ := hphys (a + i) (by omega)
  have hrow : (a + i) / 4096 = a / 4096 := by omega
  have hbound : a + i < 0xC000000000 ↔ a < 0xC000000000 := by omega
  simp only [State.stackOf, hpa, hpi, hra, hri, hrow, hbound]

theorem stackFailed_in_unit (s : State) {a i : Nat} (ha : 64 ∣ a) (hi : i < 64) (hb : a + 64 ≤ 2 ^ 48) :
    s.stackFailed (a + i) = s.stackFailed a := by
  rw [State.stackFailed, State.stackFailed, stackOf_in_unit ha hi hb]

/-- A unit of 64 B installed at a live stack is read back. -/
theorem read_install_unit (s : State) (hwf : Mem.wf s.memory.home = true) {a : Nat} (ha : 64 ∣ a) (hb : a + 64 ≤ 2 ^ 48)
    (hlive : s.stackFailed a = false) {bs : List Byte} (hlen : bs.length = 64) {i : Nat} (hi : i < bs.length) :
    Mem.read (s.install (bs.zipIdx.map fun p => (a + p.2, p.1))).memory.home (a + i) = bs[i] := by
  have hmem : ∀ w ∈ bs.zipIdx.map fun p => (a + p.2, p.1), ∃ j < 64, w.1 = a + j := by
    intro w hw
    obtain ⟨⟨b, j⟩, hp, rfl⟩ := List.mem_map.1 hw
    exact ⟨j, by have := List.snd_lt_of_mem_zipIdx hp; omega, rfl⟩
  rw [State.install_home_of_plain]
  · exact Mem.read_writeBytes hwf a bs hi
  · intro w hw
    obtain ⟨j, hj, hw1⟩ := hmem w hw
    exact isPacked_of_lt (by omega)
  · intro w hw
    obtain ⟨j, hj, hw1⟩ := hmem w hw
    rw [hw1, stackFailed_in_unit s ha hj hb, hlive]

/-! ## Records -/

/-- The unit that a record fills: the head of R361 and the body. -/
def recordUnit (s : State) (entry : Option Nat) (body : List Byte) : List Byte :=
  natToBytes 8 s.device.time ++ natToBytes 8 s.log.made.toNat
    ++ natToBytes 1 (match entry.bind s.score with | some e => e.stream | none => 0xFF)
    ++ natToBytes 1 (match entry.bind s.score with | some e => e.id % 256 | none => 0xFF) ++ natToBytes 14 0 ++ body

theorem recordUnit_length (s : State) (entry : Option Nat) (body : List Byte) :
    (recordUnit s entry body).length = 32 + body.length := by
  simp only [recordUnit, List.length_append, length_natToBytes]

/-- The body stands from byte 32 on. -/
theorem recordUnit_getElem?_body (s : State) (entry : Option Nat) (body : List Byte) (i : Nat) :
    (recordUnit s entry body)[32 + i]? = body[i]? := by
  rw [recordUnit, List.getElem?_append_right (by simp)]
  simp

/-- The record's place in the log. -/
def recordPlace (l : ErrorLog) : Nat := l.base * 4096 + l.widx.toNat % 2 ^ l.log2 * 64

/-- The writes that put a record in its place. -/
def recordWrites (s : State) (entry : Option Nat) (body : List Byte) : List (Nat × Byte) :=
  (recordUnit s entry body).zipIdx.map fun p => (recordPlace s.log + p.2, p.1)

/-- The log takes a record: it is enabled and has room, and the security processor runs. -/
abbrev takesRecord (s : State) : Prop :=
  s.log.en = true ∧ (s.log.widx - s.log.ridx).toNat < 2 ^ s.log.log2 ∧ s.plat.error.getLsbD 57 = false

theorem State.record_of_takes {s : State} (h : takesRecord s) (entry : Option Nat) (body : List Byte) :
    ∃ v, s.record entry body = ({ s.install (recordWrites s entry body) with
      log := { s.log with widx := s.log.widx + 1, made := s.log.made + 1 } } : State).signalHost v := by
  obtain ⟨hen, hroom, hsec⟩ := h
  unfold State.record
  simp only
  rw [if_pos ⟨hen, hroom, by rw [hsec]; exact Bool.false_ne_true⟩]
  exact ⟨_, rfl⟩

theorem State.record_of_not_takes {s : State} (h : ¬ takesRecord s) (entry : Option Nat) (body : List Byte) :
    s.record entry body = { s with log := { s.log with
      lost := if s.log.lost = 0xFFFF then s.log.lost else s.log.lost + 1, made := s.log.made + 1 } } := by
  unfold State.record
  simp only
  rw [if_neg]
  rintro ⟨hen, hroom, hsec⟩
  exact h ⟨hen, hroom, Bool.not_eq_true _ ▸ hsec⟩

theorem State.install_plat (s : State) (ws : List (Nat × Byte)) : (s.install ws).plat = s.plat := by
  rw [installed_install s ws]

/-- A record differs from an installation in the log, the counter of free values and the signals to the host alone. -/
theorem State.record_frame (s : State) (entry : Option Nat) (body : List Byte) :
    ∃ v, Installed s v ∧ s.record entry body = { v with
      log := (s.record entry body).log, free := (s.record entry body).free
      plat := { s.plat with msix := (s.record entry body).plat.msix } } := by
  by_cases h : takesRecord s
  · obtain ⟨x, hu⟩ := State.record_of_takes h entry body
    refine ⟨s.install (recordWrites s entry body), installed_install s _, ?_⟩
    rw [hu]
    simp only [State.signalHost, State.install_plat]
  · refine ⟨s, rfl, ?_⟩
    rw [State.record_of_not_takes h]

theorem State.record_trap (s : State) (entry : Option Nat) (body : List Byte) : (s.record entry body).trap = s.trap := by
  obtain ⟨v, hv, hu⟩ := s.record_frame entry body
  rw [hu, hv]

/-- The first byte of the body stands at byte 32 of the record's place. -/
theorem read_recorded_kind {s : State} {entry : Option Nat} {body : List Byte} {b : Byte} (hlen : body.length = 32)
    (hkind : body[0]? = some b) (hwf : Mem.wf s.memory.home = true) (hb : recordPlace s.log + 64 ≤ 2 ^ 48)
    (hlive : s.stackFailed (recordPlace s.log) = false) :
    Mem.read (s.install (recordWrites s entry body)).memory.home (recordPlace s.log + 32) = b := by
  have hunit := recordUnit_length s entry body
  have halign : 64 ∣ recordPlace s.log := by simp only [recordPlace]; omega
  have hread := read_install_unit s hwf halign hb hlive (bs := recordUnit s entry body) (by omega) (i := 32) (by omega)
  have hbyte := recordUnit_getElem?_body s entry body 0
  rw [hkind, List.getElem?_eq_getElem (by omega)] at hbyte
  exact hread.trans (Option.some.inj hbyte)

/-- R360, R361: a record whose body of 32 bytes starts with its kind. -/
theorem logged_record (s : State) (entry : Option Nat) {body : List Byte} {kind : Nat} (hlen : body.length = 32)
    (hkind : body[0]? = some (BitVec.ofNat 8 kind)) : Logged s (s.record entry body) kind := by
  refine ⟨s.record_frame entry body, ?_⟩
  by_cases h : takesRecord s
  · obtain ⟨x, hu⟩ := State.record_of_takes h entry body
    rw [hu, if_pos h]
    exact ⟨rfl, rfl, read_recorded_kind hlen hkind⟩
  · rw [State.record_of_not_takes h, if_neg h]
    exact ⟨rfl, rfl, rfl⟩

/-- R346: the record of a fault that consumed an uncorrectable error. -/
theorem logged_consumedRecord (s : State) {t : Trap} (h : t.cause = .eccunc) : Logged s (s.consumedRecord t) 0x11 := by
  rw [State.consumedRecord, if_pos h]
  exact logged_record s _ (by simp [State.memoryBody]) rfl

theorem State.consumedRecord_of_ne (s : State) {t : Trap} (h : t.cause ≠ .eccunc) : s.consumedRecord t = s := if_neg h

theorem State.consumedRecord_trap (s : State) (t : Trap) : (s.consumedRecord t).trap = s.trap := by
  unfold State.consumedRecord
  split
  · exact s.record_trap _ _
  · rfl

/-! ## The trap of a fetch -/

theorem stepTask_of_fetch_trap {s : State} {t : Trap} (hdue : reportDue s = none) (hfetch : fetchWords s = .trap t) :
    stepTask s = trapNow s t := by
  simp only [stepTask, hdue, hfetch, Option.isSome_none, Bool.false_eq_true, if_false]

/-- With nothing on the agenda, the task in focus has its turn, or takes that of an internal event that is not there. -/
theorem act_eq_stepTask {s : State} (hagenda : s.agenda = []) (hrun : s.status = .running)
    (hturn : s.turn % 2 = 0 ∨ nextInternal s = none) : act s = stepTask (nextTurn s) := by
  unfold act
  rw [hagenda]
  rcases Nat.mod_two_eq_zero_or_one s.turn with h0 | h1
  · simp [hrun, h0]
  · have hnone : nextInternal s = none := hturn.resolve_left (by omega)
    simp [hrun, h1, hnone]

/-- R135, R158, R346: a fetch that faults. -/
theorem fetchFaultsTrapAtTheirPc : FetchFaultsTrapAtTheirPc := by
  intro s r n t hr hagenda hrun hturn hn hdue hfetch hdetail hcan
  have hstep : step s = .next (n.trapAt t) := by
    rw [step, ← hr, act_eq_stepTask hagenda hrun hturn]
    subst hn
    exact stepTask_of_fetch_trap hdue hfetch
  refine ⟨n.consumedRecord t, n.trapAt t, ?_, hstep, ?_⟩
  · split
    · rename_i hc; exact logged_consumedRecord n hc
    · rename_i hc; exact n.consumedRecord_of_ne hc
  · have hcan' : CanTrap (n.consumedRecord t) := by rwa [CanTrap, n.consumedRecord_trap]
    rw [← stsOf_precise t hdetail]
    exact took_takeTrap hcan' _ _ _ _ _

/-- Settles O7: the fetch fault, JAL, and JALR with an aligned and a misaligned target. -/
theorem jumpsSaveTheNextWord : Obligations.JumpsSaveTheNextWord := by
  refine ⟨fetchFaultsTrapAtTheirPc, fun off s => ?_, fun o s target hregs htarget => ?_⟩
  · rw [← four_mul_signExtend]
    exact ⟨_, rfl, scalarResult_jump s 63 _ _⟩
  · rw [← jalrTarget_eq] at htarget
    subst htarget
    exact ⟨fun h => ⟨_, exec_jalr_aligned hregs h, scalarResult_jump s o.d _ _⟩,
      fun h hcan => traps_of hcan (by decide) (by decide) (exec_jalr_misaligned hregs h)⟩

end Sys2Proof.Machine
end
